-- ==== Sys2Proof/Word.lean ====
section
/-! DEFINITION. The word types of the Ostar model and their plainest arithmetic (R6, R29, R45, R97). -/

namespace Sys2Proof

/-- One byte of memory. -/
abbrev Byte := BitVec 8

/-- One lane's part of one register row: 32 bits (R27). -/
abbrev Word := BitVec 32

/-- A 64-bit value: a register pair, an address, a 64-bit special register (R29, R45). -/
abbrev DWord := BitVec 64

/-- Two words as one 64-bit value, the low word first (R29). -/
def pairOf (lo hi : Word) : DWord := hi ++ lo

/-- The low word of a 64-bit value. -/
def loWord (x : DWord) : Word := x.setWidth 32

/-- The high word of a 64-bit value. -/
def hiWord (x : DWord) : Word := (x >>> 32).setWidth 32

/-- The bits `[hi:lo]` of a natural number, read as unsigned (the slice `x[hi:lo]` of the spec's pseudocode). -/
def bitsOf (x hi lo : Nat) : Nat := x / 2 ^ lo % 2 ^ (hi + 1 - lo)

/-- A `w`-bit field sign-extended to an integer (R53). -/
def signExt (w x : Nat) : Int :=
  if x % 2 ^ w < 2 ^ (w - 1) then ((x % 2 ^ w : Nat) : Int) else ((x % 2 ^ w : Nat) : Int) - 2 ^ w

/-- An integer reduced to 32 bits. -/
def wordOfInt (x : Int) : Word := BitVec.ofInt 32 x

/-- An integer reduced to 64 bits. -/
def dwordOfInt (x : Int) : DWord := BitVec.ofInt 64 x

end Sys2Proof
end

