-- ==== Sys2Proof/Config.lean ====
section
/-! DEFINITION. The free values of the model: values that the spec leaves open, or that come from keys and outside
parties. They have no body, so nothing can be proved of them but that they are values. -/

namespace Sys2Proof.Config

/-- The next random number of the true random generator: gang tickets, start nonces, keys (R372, R375, R384). -/
opaque random : (moment : Nat) → BitVec 512

/-- Where the host has placed a function's BAR (R377 reports host addresses): the host's choice. -/
opaque barBase : (fn bar : Nat) → Nat

/-- A dword of a function's configuration space that the spec does not give (R436). -/
opaque cfgDword : (fn off : Nat) → Word

/-- Whether a long-latency result that has come while its window is open is written in this cycle: R55 leaves the moment
open. -/
opaque resultNow : (moment : Nat) → Bool

/-- Whether the power step falls by one at an averaging interval that does not exceed the limit; the spec states only when it
rises (R440). -/
opaque powerFalls : (moment : Nat) → Bool

/-- What the sensors of a die read in 1/8 °C, and the package power in W, at a monitor update (R439). -/
opaque sensorA : (moment : Nat) → BitVec 16
opaque sensorB : (moment : Nat) → BitVec 16
opaque sensorPower : (moment : Nat) → BitVec 16

/-- What an error beyond a code's strength does, which the spec does not state (R421, R422): whether it is detected, whether it
passes for a corrected one, and what the word or sector then holds, its full/empty bits last. -/
opaque caught : (moment : Nat) → Bool
opaque taken : (moment : Nat) → Bool
opaque upset : (moment : Nat) → BitVec 520

/-- Whether the zero check of a key slot's zeroisation fails (R374). -/
opaque zeroFails : (moment : Nat) → Bool

/-- The body of an SPDM response that rests on keys and certificates: digests, certificate chunks, signatures and
exchange data (R384 to R387). -/
opaque spdmBody : (code : Nat) → (hash : BitVec 512) → (moment : Nat) → List Byte

end Sys2Proof.Config
end

