-- ==== Sys2Proof/Syntax.lean ====
section
/-! DEFINITION. The one instruction type of the model: a constructor for each row of the opcode table.

Rows with a word carry the word's fields as natural numbers, named as the table names them (checked by
`WellFormed`). Rows without a word are the part's other steps (95_what_each_step_holds): their arguments say
which unit acts, and what the outside world supplies. -/

namespace Sys2Proof

/-- A thread of the package: its block's number in the model, its bundle index and its home lane (R26). -/
structure TRef where
  blk : Nat
  bun : Nat
  lane : Nat
  deriving DecidableEq, Repr

/-- An engine of R428: a sub-core's matrix engine, a core's copy or fabric engine, a die's Quay, or the scrub
engine. Cores carry physical numbers, 64 on each die. -/
inductive EngId where
  | matrix (core sub : Nat)
  | copy (core : Nat)
  | fabric (core : Nat)
  | quay (die : Nat)
  | scrub
  deriving DecidableEq, Repr

/-- A cache of R189: a core's L1, or a die's far partition. -/
inductive CacheId where
  | l1 (core : Nat)
  | far (die : Nat)
  deriving DecidableEq, Repr

/-- A unit that receives shoot-downs (R364): a core with its engines, or a die's Quay. -/
inductive UnitId where
  | core (core : Nat)
  | quay (die : Nat)
  deriving DecidableEq, Repr

/-- The device registers whose write has no behaviour of its own (R297, R298, R326). `ring` 0 is the physical
function's control page; `hdm` commits a decoder of a CXL logical device (R393). -/
inductive DevReg where
  | qbase (vd q : Nat)
  | qctl (vd q : Nat)
  | crbase (ring : Nat)
  | fqbase (ring : Nat)
  | crctl (ring : Nat)
  | fqctl (ring : Nat)
  | readOnly (ring off : Nat)
  | hdm (ep k base blocks vd gblk : Nat)
  deriving DecidableEq, Repr

/-- What comes back for a request that the device issued on a host port (R205, R367, R380). -/
inductive CplBody where
  | data (bytes : List Byte)
  | unsupported
  | abort
  deriving DecidableEq, Repr

/-- A completion (R379, R380): whether it travels as a TLP of its request's stream, and then the key set that its K bit names, and
whether its MAC passes. -/
structure Completion where
  body : CplBody
  ide : Bool := false
  set : Nat := 0
  macOk : Bool := true
  deriving DecidableEq, Repr

/-- The IDE part of a received TLP (R379, R380): its stream, the key set that its K bit names, and whether its MAC passes. -/
structure IdeMark where
  stream : Nat
  set : Nat := 0
  macOk : Bool := true
  deriving DecidableEq, Repr

/-- What a host request carries beside its address and data: the T bit (R377), and its IDE part where it travels on a stream
(R380, R394). -/
structure Carry where
  tbit : Bool := false
  ide : Option IdeMark := none
  deriving DecidableEq, Repr

/-- An IDE_KM KEY_PROG message (R373): one sub-stream, direction and key set of a stream slot. -/
structure KeyProg where
  stream : Nat
  sub : Nat
  rx : Bool
  set : Nat
  key : BitVec 256
  iv : Nat
  deriving DecidableEq, Repr

/-- One entry of the presentation table (R390), as the operator's signed configuration gives it. -/
structure EndpointCfg where
  en : Bool
  cxl : Bool
  port : Nat
  ldid : Nat
  vfbase : Nat
  vfcount : Nat
  deriving DecidableEq, Repr

/-- What a cold reset's measured boot finds (R435): the verification results, the fuses, the retirement record,
the digests of the measured items, and the operator's configuration. -/
structure BootCfg where
  romOk : Bool
  fwOk : Bool
  cfgOk : Bool
  scrubOk : Bool
  loader : BitVec 512
  image : BitVec 512
  fuses : BitVec 512
  record : BitVec 512
  config : BitVec 512
  disabledA : Nat
  disabledB : Nat
  retired : List Nat
  harbourBlocks : List Nat
  pools : List (Nat × Nat)
  endpoints : List EndpointCfg
  caps : List Nat
  fwMinor : Nat
  proc : Nat
  ports : Nat
  deriving DecidableEq, Repr

/-- What a Backwash sweeper reads (R424): a memory sector, an L2 word, a scratchpad word of a placed block, a
register lane word, a weight-buffer word, a word of the Headland's tables or of Harbour (R339), or the word of its L2 slice that
holds the word at a machine address. -/
inductive SweepTarget where
  | sector (ma : Nat)
  | l2 (die slice word : Nat)
  | sram (core word : Nat)
  | register (t : TRef) (reg : Nat)
  | weight (core sub word : Nat)
  | headland
  | home (ma word : Nat)
  deriving DecidableEq, Repr

/-- What is found in a word that is read (R421 to R424): how many of its symbols or bits are in error, and whether its sweeper reads it
or an access. -/
structure SweepFind where
  bad : Nat
  swept : Bool
  deriving DecidableEq, Repr

/-- A write of an engine control register's fields ALL and VD (R428). -/
structure EngWrite where
  eng : EngId
  all : Bool
  vd : Nat
  deriving DecidableEq, Repr

/-- A Harbour call as it stands in its ring slot (R327): the ring, the slot's GPA, OP, TAG and the arguments. -/
structure CallSlot where
  ring : Nat
  gpa : Nat
  op : Nat
  tag : Nat
  a0 : DWord
  a1 : DWord
  a2 : DWord
  a3 : DWord
  a4 : DWord
  deriving DecidableEq, Repr

/-- A Longshore flit after decryption (R395); `macOk` is the outcome of its tag check, and `typeOk` says that its TYPE is assigned. -/
structure Flit where
  key : Nat
  drank : Nat
  srank : Nat
  addr : Nat
  tag : Nat
  data : BitVec 1024
  be : BitVec 128
  fev : BitVec 16
  few : BitVec 16
  macOk : Bool
  typeOk : Bool := true
  deriving DecidableEq, Repr

/-- The steps of the Ostar: the 262 Ernik instructions, then the part's other steps. -/
inductive Instr where
  /-- ADD (R113): Writes (va + vb) mod 2^32 to vd. -/
  | add (d a b : Nat)
  /-- SUB (R113): Writes (va - vb) mod 2^32 to vd. -/
  | sub (d a b : Nat)
  /-- CARRY (R113): Writes 1 to vd when the unsigned sum of va and vb carries out of 32 bits, otherwise 0. -/
  | carry (d a b : Nat)
  /-- BORROW (R113): Writes 1 to vd when u(va) < u(vb), otherwise 0. -/
  | borrow (d a b : Nat)
  /-- MUL (R113): Writes the low 32 bits of va times vb to vd. -/
  | mul (d a b : Nat)
  /-- MULH (R113): Writes the high 32 bits of the signed product of va and vb to vd. -/
  | mulh (d a b : Nat)
  /-- MULHN (R113): Writes the high 32 bits of the unsigned product of va and vb to vd. -/
  | mulhn (d a b : Nat)
  /-- MAD (R113): Writes (va x vb + vd) mod 2^32 to vd. -/
  | mad (d a b : Nat)
  /-- AND (R113): Writes the bitwise AND of va and vb to vd. -/
  | and (d a b : Nat)
  /-- OR (R113): Writes the bitwise OR of va and vb to vd. -/
  | or (d a b : Nat)
  /-- XOR (R113): Writes the bitwise XOR of va and vb to vd. -/
  | xor (d a b : Nat)
  /-- ANDN (R113): Writes va AND NOT vb to vd. -/
  | andn (d a b : Nat)
  /-- SHL (R113): Shifts va left by u(vb), giving 0 for shift amounts of 32 or more. -/
  | shl (d a b : Nat)
  /-- SHR (R113): Shifts va right logically by u(vb), giving 0 for shift amounts of 32 or more. -/
  | shr (d a b : Nat)
  /-- SRA (R113): Shifts va right arithmetically by min(u(vb), 31). -/
  | sra (d a b : Nat)
  /-- ROL (R113): Rotates va left by vb[4:0]. -/
  | rol (d a b : Nat)
  /-- ROR (R113): Rotates va right by vb[4:0]. -/
  | ror (d a b : Nat)
  /-- MIN (R113): Writes the smaller of va and vb, compared as s32, to vd. -/
  | min (d a b : Nat)
  /-- MAX (R113): Writes the larger of va and vb, compared as s32, to vd. -/
  | max (d a b : Nat)
  /-- MINN (R113): Writes the smaller of va and vb, compared as n32, to vd. -/
  | minn (d a b : Nat)
  /-- MAXN (R113): Writes the larger of va and vb, compared as n32, to vd. -/
  | maxn (d a b : Nat)
  /-- ADDD (R114): Writes the 64-bit sum of two register pairs to pair vd. -/
  | addd (d a b : Nat)
  /-- SUBD (R114): Writes the 64-bit difference of two register pairs to pair vd. -/
  | subd (d a b : Nat)
  /-- MULD (R114): Writes the low 64 bits of the product of two register pairs to pair vd. -/
  | muld (d a b : Nat)
  /-- SHLD (R114): Shifts a 64-bit pair left by u(vb). -/
  | shld (d a b : Nat)
  /-- SHRD (R114): Shifts a 64-bit pair right logically by u(vb). -/
  | shrd (d a b : Nat)
  /-- SRAD (R114): Shifts a 64-bit pair right arithmetically by min(u(vb), 63). -/
  | srad (d a b : Nat)
  /-- BSEL (R113): Builds each byte of vd from a byte of va under the index, zero and fill masks in vb. -/
  | bsel (d a b : Nat)
  /-- SEL (R113): Writes va to vd when va is nonzero, otherwise vb. -/
  | sel (d a b : Nat)
  /-- ABSDIFF (R113): Writes |s(va) - s(vb)| to vd. -/
  | absdiff (d a b : Nat)
  /-- MULHSN (R113): Writes the high 32 bits of the product of signed va and unsigned vb to vd. -/
  | mulhsn (d a b : Nat)
  /-- MOV (R115): Copies va to vd. -/
  | mov (d a : Nat)
  /-- NOT (R115): Writes the bitwise complement of va to vd. -/
  | not (d a : Nat)
  /-- NEG (R115): Writes the two's-complement negation of va to vd. -/
  | neg (d a : Nat)
  /-- ABS (R115): Writes |s(va)| mod 2^32 to vd. -/
  | abs (d a : Nat)
  /-- CLZ (R115): Counts the leading zero bits of va. -/
  | clz (d a : Nat)
  /-- CTZ (R115): Counts the trailing zero bits of va. -/
  | ctz (d a : Nat)
  /-- POPC (R115): Counts the bits set in va. -/
  | popc (d a : Nat)
  /-- BREV (R115): Reverses the bit order of va. -/
  | brev (d a : Nat)
  /-- BSWAP (R115): Reverses the byte order of va. -/
  | bswap (d a : Nat)
  /-- SEXTB (R115): Sign-extends va[7:0] into vd. -/
  | sextb (d a : Nat)
  /-- SEXTH (R115): Sign-extends va[15:0] into vd. -/
  | sexth (d a : Nat)
  /-- ZEXTB (R115): Zero-extends va[7:0] into vd. -/
  | zextb (d a : Nat)
  /-- ZEXTH (R115): Zero-extends va[15:0] into vd. -/
  | zexth (d a : Nat)
  /-- MOVD (R115): Copies pair va to pair vd. -/
  | movd (d a : Nat)
  /-- NEGD (R115): Writes the 64-bit negation of pair va to pair vd. -/
  | negd (d a : Nat)
  /-- CLZD (R115): Counts the leading zero bits of pair va. -/
  | clzd (d a : Nat)
  /-- POPCD (R115): Counts the bits set in pair va. -/
  | popcd (d a : Nat)
  /-- ADDI (R116): Adds the sign-extended imm12 to va. -/
  | addi (d a i : Nat)
  /-- ANDI (R116): ANDs va with the zero-extended imm12. -/
  | andi (d a i : Nat)
  /-- ORI (R116): ORs va with the zero-extended imm12. -/
  | ori (d a i : Nat)
  /-- XORI (R116): XORs va with the zero-extended imm12. -/
  | xori (d a i : Nat)
  /-- SHLI (R116): Shifts va left by an immediate amount. -/
  | shli (d a n : Nat)
  /-- SHRI (R116): Shifts va right logically by an immediate amount. -/
  | shri (d a n : Nat)
  /-- SRAI (R116): Shifts va right arithmetically by an immediate amount. -/
  | srai (d a n : Nat)
  /-- RORI (R116): Rotates va right by an immediate amount. -/
  | rori (d a n : Nat)
  /-- MULI (R116): Multiplies va by the sign-extended imm12, keeping 32 bits. -/
  | muli (d a i : Nat)
  /-- LUI (R116): Writes imm19 x 2^13 to vd. -/
  | lui (d h : Nat)
  /-- BFE_N32 (R117): Extracts a field of va, zero-extended. -/
  | bfeN32 (d a p l : Nat)
  /-- BFE_S32 (R117): Extracts a field of va, sign-extended. -/
  | bfeS32 (d a p l : Nat)
  /-- BFI (R117): Inserts the low bits of va into a field of vd. -/
  | bfi (d a p l : Nat)
  /-- CMP (R118): Compares two registers under cc4 and ty5, and pushes the result or combines it into the top predicate entry under pm3. -/
  | cmp (c m a b t : Nat)
  /-- CMPI (R118): Compares va as s32 (or n32) with a sign-extended immediate and applies the result under pm3. -/
  | cmpi (c m a i : Nat)
  /-- PELSE (R121): Every thread of the group inverts its top predicate entry. -/
  | pelse
  /-- PEND (R121): Every thread of the group pops its predicate stack. -/
  | pend
  /-- PGET (R121): Writes the mask of the bundle's active lanes in this issue group to vd. -/
  | pget (d : Nat)
  /-- PPUSH (R121): Pushes (va != 0) on an active thread, and 0 on an inactive one. -/
  | ppush (a : Nat)
  /-- PDEPTH (R121): Writes the thread's predicate stack depth to vd. -/
  | pdepth (d : Nat)
  /-- BVOTEA (R130): Bundle-convergent vote that pushes 1 if va is nonzero in every active participant. -/
  | bvotea (a : Nat)
  /-- BVOTEY (R130): Bundle-convergent vote that pushes 1 if va is nonzero in some active participant. -/
  | bvotey (a : Nat)
  /-- BALLOT (R130): Writes the mask of active participants whose va is nonzero. -/
  | ballot (d a : Nat)
  /-- BSYNC (R130): Bundle-convergent meeting point with no further effect. -/
  | bsync
  /-- AADD (R123): Writes the sum of two affine registers to a bundle affine register. -/
  | aadd (d a b : Nat)
  /-- ASUB (R123): Writes the difference of two affine registers. -/
  | asub (d a b : Nat)
  /-- ASHL (R123): Shifts an affine register's base and stride left. -/
  | ashl (d a n : Nat)
  /-- AMULI (R123): Multiplies an affine register by a signed immediate. -/
  | amuli (d a i : Nat)
  /-- AMOV (R123): Copies one affine register into another. -/
  | amov (d a : Nat)
  /-- ASETB (R123): Sets an affine register's base from a register pair of the lowest active thread. -/
  | asetb (d v : Nat)
  /-- ASETS (R123): Sets an affine register's stride from a register of the lowest active thread. -/
  | asets (d v : Nat)
  /-- AGET (R123): Writes the thread's value of an affine register to a register pair. -/
  | aget (a v : Nat)
  /-- AADDI (R123): Adds a signed immediate to an affine register's base. -/
  | aaddi (d a i : Nat)
  /-- MOVI (R116): Writes the sign-extended imm19 to vd. -/
  | movi (d i : Nat)
  /-- MFS (R124): Reads a special register into vd or pair vd. -/
  | mfs (d s : Nat)
  /-- MTS (R125): Writes a special register from va or pair va, per thread or once per bundle. -/
  | mts (a s : Nat)
  /-- XLGET_IDX (R129): Reads va from the lane indexed by vb. -/
  | xlgetIdx (d a b : Nat)
  /-- XLGET_UP (R129): Reads va from lane L - d. -/
  | xlgetUp (d a b : Nat)
  /-- XLGET_DN (R129): Reads va from lane L + d. -/
  | xlgetDn (d a b : Nat)
  /-- XLGET_XOR (R129): Reads va from lane L XOR vb. -/
  | xlgetXor (d a b : Nat)
  /-- RDLANE (R129): Broadcasts va from the lane chosen by the lowest active participant. -/
  | rdlane (d a b : Nat)
  /-- REDADD (R129): Writes the sum of va over the active participants. -/
  | redadd (d a : Nat)
  /-- REDMIN (R129): Writes the least s32 va over the active participants. -/
  | redmin (d a : Nat)
  /-- REDMAX (R129): Writes the greatest s32 va over the active participants. -/
  | redmax (d a : Nat)
  /-- SCANADD (R129): Writes the inclusive prefix sum of va over the active participants. -/
  | scanadd (d a : Nat)
  /-- CVT_F32_S32 (R134): Converts s32 to f32. -/
  | cvtF32S32 (d a r : Nat)
  /-- CVT_F32_N32 (R134): Converts n32 to f32. -/
  | cvtF32N32 (d a r : Nat)
  /-- CVT_S32_F32 (R134): Converts f32 to s32 under R104. -/
  | cvtS32F32 (d a r s : Nat)
  /-- CVT_N32_F32 (R134): Converts f32 to n32 under R104. -/
  | cvtN32F32 (d a r s : Nat)
  /-- CVT_F64_F32 (R134): Widens f32 to f64 exactly. -/
  | cvtF64F32 (d a : Nat)
  /-- CVT_F32_F64 (R134): Rounds f64 to f32. -/
  | cvtF32F64 (d a r s : Nat)
  /-- CVT_F16_F32 (R134): Rounds f32 to f16, optionally packed. -/
  | cvtF16F32 (d a r s k : Nat)
  /-- CVT_F32_F16 (R134): Widens f16 to f32 exactly. -/
  | cvtF32F16 (d a k : Nat)
  /-- CVT_BF16_F32 (R134): Rounds f32 to bf16, optionally packed. -/
  | cvtBf16F32 (d a r s k : Nat)
  /-- CVT_F32_BF16 (R134): Widens bf16 to f32 exactly. -/
  | cvtF32Bf16 (d a k : Nat)
  /-- CVT_E4M3_F32 (R134): Rounds f32 to e4m3, optionally packed. -/
  | cvtE4m3F32 (d a r s k : Nat)
  /-- CVT_E5M2_F32 (R134): Rounds f32 to e5m2, optionally packed. -/
  | cvtE5m2F32 (d a r s k : Nat)
  /-- CVT_F32_E4M3 (R134): Widens e4m3 to f32 exactly. -/
  | cvtF32E4m3 (d a k : Nat)
  /-- CVT_F32_E5M2 (R134): Widens e5m2 to f32 exactly. -/
  | cvtF32E5m2 (d a k : Nat)
  /-- CVT_E2M1_F32 (R134): Rounds f32 to e2m1, optionally packed. -/
  | cvtE2m1F32 (d a r s k : Nat)
  /-- CVT_F32_E2M1 (R134): Widens e2m1 to f32 exactly, without block scale. -/
  | cvtF32E2m1 (d a k : Nat)
  /-- CVT_F64_S64 (R134): Converts s64 to f64. -/
  | cvtF64S64 (d a r : Nat)
  /-- CVT_S64_F64 (R134): Converts f64 to s64 under R104. -/
  | cvtS64F64 (d a r s : Nat)
  /-- CVT_F64_N64 (R134): Converts n64 to f64. -/
  | cvtF64N64 (d a r : Nat)
  /-- CVT_N64_F64 (R134): Converts f64 to n64 under R104. -/
  | cvtN64F64 (d a r s : Nat)
  /-- CVT_S8_S32 (R134): Narrows s32 to s8, optionally saturated and packed. -/
  | cvtS8S32 (d a s k : Nat)
  /-- CVT_N8_S32 (R134): Narrows s32 to n8, optionally saturated and packed. -/
  | cvtN8S32 (d a s k : Nat)
  /-- FRND (R135): Rounds an f32 to an integral f32 value. -/
  | frnd (d a r : Nat)
  /-- FRNDD (R135): Rounds an f64 to an integral f64 value. -/
  | frndd (d a r : Nat)
  /-- BSCALE (R136): Computes the e8m0 block scale for an e2m1 block from its largest magnitude. -/
  | bscale (d a : Nat)
  /-- FADD_F32 (R137): f32 addition rounded in RM. -/
  | faddF32 (d a b : Nat)
  /-- FSUB_F32 (R137): f32 subtraction rounded in RM. -/
  | fsubF32 (d a b : Nat)
  /-- FMUL_F32 (R137): f32 multiplication rounded in RM. -/
  | fmulF32 (d a b : Nat)
  /-- FFMA_F32 (R137): f32 fused multiply-add a x b + c. -/
  | ffmaF32 (d a b : Nat)
  /-- FFMS_F32 (R137): f32 fused a x b - c. -/
  | ffmsF32 (d a b : Nat)
  /-- FNFMA_F32 (R137): f32 fused -(a x b) + c. -/
  | fnfmaF32 (d a b : Nat)
  /-- FMIN_F32 (R138): f32 minimum, ignoring a single NaN. -/
  | fminF32 (d a b : Nat)
  /-- FMAX_F32 (R138): f32 maximum, ignoring a single NaN. -/
  | fmaxF32 (d a b : Nat)
  /-- FMINM_F32 (R138): f32 minimum that propagates NaN. -/
  | fminmF32 (d a b : Nat)
  /-- FMAXM_F32 (R138): f32 maximum that propagates NaN. -/
  | fmaxmF32 (d a b : Nat)
  /-- FABS_F32 (R139): Clears the sign bit of an f32. -/
  | fabsF32 (d a : Nat)
  /-- FNEG_F32 (R139): Inverts the sign bit of an f32. -/
  | fnegF32 (d a : Nat)
  /-- FSGNJ_F32 (R139): Replaces the sign of va with the sign of vb. -/
  | fsgnjF32 (d a b : Nat)
  /-- FCLASS_F32 (R139): Writes a one-hot class mask of an f32. -/
  | fclassF32 (d a : Nat)
  /-- FADD_F64 (R137): f64 addition rounded in RM. -/
  | faddF64 (d a b : Nat)
  /-- FSUB_F64 (R137): f64 subtraction rounded in RM. -/
  | fsubF64 (d a b : Nat)
  /-- FMUL_F64 (R137): f64 multiplication rounded in RM. -/
  | fmulF64 (d a b : Nat)
  /-- FFMA_F64 (R137): f64 fused multiply-add. -/
  | ffmaF64 (d a b : Nat)
  /-- FFMS_F64 (R137): f64 fused a x b - c. -/
  | ffmsF64 (d a b : Nat)
  /-- FNFMA_F64 (R137): f64 fused -(a x b) + c. -/
  | fnfmaF64 (d a b : Nat)
  /-- FMIN_F64 (R138): f64 minimum, ignoring a single NaN. -/
  | fminF64 (d a b : Nat)
  /-- FMAX_F64 (R138): f64 maximum, ignoring a single NaN. -/
  | fmaxF64 (d a b : Nat)
  /-- FMINM_F64 (R138): f64 minimum that propagates NaN. -/
  | fminmF64 (d a b : Nat)
  /-- FMAXM_F64 (R138): f64 maximum that propagates NaN. -/
  | fmaxmF64 (d a b : Nat)
  /-- FABS_F64 (R139): Clears the sign bit of an f64. -/
  | fabsF64 (d a : Nat)
  /-- FNEG_F64 (R139): Inverts the sign bit of an f64. -/
  | fnegF64 (d a : Nat)
  /-- FSGNJ_F64 (R139): Replaces the sign of an f64 with that of another. -/
  | fsgnjF64 (d a b : Nat)
  /-- FCLASS_F64 (R139): Writes a one-hot class mask of an f64 into a single register. -/
  | fclassF64 (d a : Nat)
  /-- F2ADD (R140): Packed f16 or bf16 addition of two elements. -/
  | f2add (d a b t : Nat)
  /-- F2SUB (R140): Packed half-precision subtraction. -/
  | f2sub (d a b t : Nat)
  /-- F2MUL (R140): Packed half-precision multiplication. -/
  | f2mul (d a b t : Nat)
  /-- F2FMA (R140): Packed half-precision fused multiply-add. -/
  | f2fma (d a b t : Nat)
  /-- F2MIN (R140): Packed half-precision minimum. -/
  | f2min (d a b t : Nat)
  /-- F2MAX (R140): Packed half-precision maximum. -/
  | f2max (d a b t : Nat)
  /-- F2ABS (R140): Packed half-precision absolute value. -/
  | f2abs (d a t : Nat)
  /-- F2NEG (R140): Packed half-precision negation. -/
  | f2neg (d a t : Nat)
  /-- FSQRT (R142): Long-latency correctly rounded square root in f32 or f64. -/
  | fsqrt (d a l t : Nat)
  /-- FRCP (R142): Long-latency correctly rounded reciprocal in f32 or f64. -/
  | frcp (d a l t : Nat)
  /-- FRSQ (R142): Long-latency f32 reciprocal square root, RNE. -/
  | frsq (d a l : Nat)
  /-- FEXP2 (R142): Long-latency f32 2^x, RNE. -/
  | fexp2 (d a l : Nat)
  /-- FLOG2 (R142): Long-latency f32 log2 x, RNE. -/
  | flog2 (d a l : Nat)
  /-- FSINT (R142): Long-latency f32 sin(2 pi x), RNE. -/
  | fsint (d a l : Nat)
  /-- FCOST (R142): Long-latency f32 cos(2 pi x), RNE. -/
  | fcost (d a l : Nat)
  /-- FTANH (R142): Long-latency f32 tanh x, RNE. -/
  | ftanh (d a l : Nat)
  /-- FDIV (R143): Long-latency f32 or f64 division rounded in RM. -/
  | fdiv (d a b l t : Nat)
  /-- DIV (R144): Long-latency signed or unsigned 32-bit quotient. -/
  | div (d a b l t : Nat)
  /-- REM (R144): Long-latency signed or unsigned 32-bit remainder. -/
  | rem (d a b l t : Nat)
  /-- MADDM (R146): Modular addition modulo MODQ. -/
  | maddm (d a b : Nat)
  /-- MSUBM (R146): Modular subtraction modulo MODQ. -/
  | msubm (d a b : Nat)
  /-- MMULM (R146): Montgomery product modulo MODQ. -/
  | mmulm (d a b : Nat)
  /-- MTOM (R146): Converts a value into Montgomery form. -/
  | mtom (d a : Nat)
  /-- MFROMM (R146): Converts a value out of Montgomery form. -/
  | mfromm (d a : Nat)
  /-- MULW (R146): Writes the exact 128-bit product of two pairs to a quad. -/
  | mulw (d a b : Nat)
  /-- BFLYC (R147): Cooley-Tukey butterfly in place on a quad. -/
  | bflyc (d a : Nat)
  /-- BFLYG (R147): Gentleman-Sande butterfly in place on a quad. -/
  | bflyg (d a : Nat)
  /-- MREDB (R146): Barrett reduction of a 128-bit quad modulo MODQ. -/
  | mredb (d a : Nat)
  /-- MNEG (R146): Modular negation modulo MODQ. -/
  | mneg (d a : Nat)
  /-- LDB (R221): Loads a byte, zero-extended. -/
  | ldb (d a o p l : Nat)
  /-- LDBS (R221): Loads a byte, sign-extended. -/
  | ldbs (d a o p l : Nat)
  /-- LDH (R221): Loads a halfword, zero-extended. -/
  | ldh (d a o p l : Nat)
  /-- LDHS (R221): Loads a halfword, sign-extended. -/
  | ldhs (d a o p l : Nat)
  /-- LDW (R221): Loads a 32-bit word. -/
  | ldw (d a o p l : Nat)
  /-- LDD (R221): Loads 8 bytes into a pair. -/
  | ldd (d a o p l : Nat)
  /-- LDQ (R221): Loads 16 bytes into a quad. -/
  | ldq (d a o p l : Nat)
  /-- STB (R222): Stores a byte. -/
  | stb (d a o p : Nat)
  /-- STH (R222): Stores a halfword. -/
  | sth (d a o p : Nat)
  /-- STW (R222): Stores a 32-bit word. -/
  | stw (d a o p : Nat)
  /-- STD (R222): Stores 8 bytes from a pair. -/
  | std (d a o p : Nat)
  /-- STQ (R222): Stores 16 bytes from a quad. -/
  | stq (d a o p : Nat)
  /-- ATADD (R224): Atomic integer add at the home point. -/
  | atadd (d a b l w : Nat)
  /-- ATFADD (R228): Atomic floating add rounded RNE. -/
  | atfadd (d a b l w : Nat)
  /-- ATMIN (R224): Atomic signed minimum. -/
  | atmin (d a b l w : Nat)
  /-- ATMAX (R224): Atomic signed maximum. -/
  | atmax (d a b l w : Nat)
  /-- ATMINN (R224): Atomic unsigned minimum. -/
  | atminn (d a b l w : Nat)
  /-- ATMAXN (R224): Atomic unsigned maximum. -/
  | atmaxn (d a b l w : Nat)
  /-- ATAND (R224): Atomic AND. -/
  | atand (d a b l w : Nat)
  /-- ATOR (R224): Atomic OR. -/
  | ator (d a b l w : Nat)
  /-- ATXOR (R224): Atomic XOR. -/
  | atxor (d a b l w : Nat)
  /-- ATXCH (R224): Atomic exchange. -/
  | atxch (d a b l w : Nat)
  /-- ATCAS (R224): Atomic compare-and-swap. -/
  | atcas (d a b l w : Nat)
  /-- FELDW (R238): Waits for a full word and reads it without emptying it. -/
  | feldw (d a o l : Nat)
  /-- FELDW_TRY (R239): Tests once for a full word, reads it if full, and pushes the outcome. -/
  | feldwTry (d a o : Nat)
  /-- FELDC (R238): Waits for a full word, reads it and empties it. -/
  | feldc (d a o l : Nat)
  /-- FELDC_TRY (R239): Tests once and consumes a full word, pushing the outcome. -/
  | feldcTry (d a o : Nat)
  /-- FESTF (R238): Waits for an empty word, writes it and fills it. -/
  | festf (d a o : Nat)
  /-- FESTF_TRY (R239): Tests once and fills an empty word, pushing the outcome. -/
  | festfTry (d a o : Nat)
  /-- FESTS (R238): Writes a word and sets it full unconditionally. -/
  | fests (d a o : Nat)
  /-- FEQRY (R240): Returns the full/empty mask of 64 words of a 512-byte block. -/
  | feqry (d a : Nat)
  /-- FESET (R240): Sets a run of full/empty bits to full. -/
  | feset (a b : Nat)
  /-- FECLR (R240): Sets a run of full/empty bits to empty. -/
  | feclr (a b : Nat)
  /-- BR (R284): Relative branch, optionally conditional on the top predicate entry and optionally popping. -/
  | br (k p o : Nat)
  /-- CALL (R286): Relative call that pushes the next block boundary onto the call stack. -/
  | call (k p o : Nat)
  /-- JR (R284): Register jump, optionally a call. -/
  | jr (k c a : Nat)
  /-- MMA (R158): Issues one matrix multiply-accumulate step to the engine. -/
  | mma (a b : Nat)
  /-- MLOOP (R158): Issues a multi-step matrix loop over weight-buffer records. -/
  | mloop (a b : Nat)
  /-- MSPA (R159): Issues a 2:4 sparse matrix step with per-lane metadata. -/
  | mspa (s a b : Nat)
  /-- MMAQ (R158): Issues one modular matrix step modulo MODQ. -/
  | mmaq (a b : Nat)
  /-- MLOOPQ (R158): Issues a multi-step modular matrix loop. -/
  | mloopq (a b : Nat)
  /-- WBLD (R156): Issues a copy of a checked-tile image into the weight buffer. -/
  | wbld (a b : Nat)
  /-- MZERO (R160): Issues a command that zeroes the accumulator footprint. -/
  | mzero (b : Nat)
  /-- TLD (R161): Issues a load of a checked tile into a view. -/
  | tld (a b : Nat)
  /-- TST (R161): Issues a store of a view as a checked-tile image. -/
  | tst (a b : Nat)
  /-- COPY (R254): Issues a strided copy described by a scratchpad descriptor. -/
  | copy (a b : Nat)
  /-- GATHER (R254): Issues an indexed gather. -/
  | gather (a b : Nat)
  /-- SCATTER (R254): Issues an indexed scatter. -/
  | scatter (a b : Nat)
  /-- PUT (R254): Issues a fabric write to another package. -/
  | put (a b : Nat)
  /-- GET (R254): Issues a fabric read from another package. -/
  | get (a b : Nat)
  /-- TSUM (R186): Issues a recomputation of a tile's checksums. -/
  | tsum (a b : Nat)
  /-- TCHK (R186): Issues a verification of a tile's checksums. -/
  | tchk (a b : Nat)
  /-- TFIX (R186): Issues a verification that corrects a single wrong element. -/
  | tfix (a b : Nat)
  /-- FENCE (R229): Performs acquire and/or release steps at the encoded scope. -/
  | fence (k s : Nat)
  /-- SETSCOPE (R230): Writes the encoded scope into SCOPE of each active thread. -/
  | setscope (s : Nat)
  /-- BAR (R269): Arrives at a hardware barrier of the given scope and id and parks until it opens. -/
  | bar (s i : Nat)
  /-- WAITC (R258): Parks until the bundle's class counter is at most n, then raises the oldest held fault. -/
  | waitc (c n : Nat)
  /-- ARRIVE (R260): Adds arrivals to an arrival barrier. -/
  | arrive (a b : Nat)
  /-- EXPECT (R260): Adds expected bytes to an arrival barrier's current phase. -/
  | expect (a b : Nat)
  /-- BWAIT (R262): Parks until the barrier's phase differs from the waited phase. -/
  | bwait (d a : Nat)
  /-- BWAITT (R262): Barrier wait with a cycle limit. -/
  | bwaitt (d a b : Nat)
  /-- MWATCH (R233): Arms a line monitor in each active thread. -/
  | mwatch (a : Nat)
  /-- MWAIT (R234): Parks until a monitor event or a cycle limit. -/
  | mwait (d b : Nat)
  /-- SLEEP (R283): Parks each active thread for a number of core cycles. -/
  | sleep (b : Nat)
  /-- YIELD (R282): Makes active threads not ready for up to 64 groups. -/
  | yield
  /-- REGION (R408): Closes the commit region and nothing else. -/
  | region
  /-- QPUSH (R265): Pushes a tile handle onto a named queue, blocking when it cannot. -/
  | qpush (q b : Nat)
  /-- QPOP (R265): Pops a tile handle from a named queue, blocking when empty. -/
  | qpop (d q : Nat)
  /-- QTRYPUSH (R265): Tries once to push a handle and pushes the outcome. -/
  | qtrypush (q b : Nat)
  /-- QTRYPOP (R265): Tries once to pop a handle and pushes the outcome. -/
  | qtrypop (d q : Nat)
  /-- ACQR (R207): Acquire with remote-scope promotion across the VD's caches. -/
  | acqr
  /-- RELR (R208): Release with remote-scope promotion that invalidates the VD's caches. -/
  | relr
  /-- SPAWN (R272): Creates a child thread for each active thread and sends it to a bin. -/
  | spawn (a b : Nat)
  /-- EXIT (R276): Ends each active thread after committing its region. -/
  | exit
  /-- RET (R287): Pops the return address from the call stack and jumps to it. -/
  | ret
  /-- RALLOC (R290): Bundle-convergent request to grow ALLOC to a target. -/
  | ralloc (a : Nat)
  /-- RFREE (R293): Bundle-convergent shrink of ALLOC to a target. -/
  | rfree (a : Nat)
  /-- WBASE (R294): Bundle-convergent write of the register window base. -/
  | wbase (a : Nat)
  /-- VIEW (R295): Bundle-convergent write of a view register. -/
  | view (a s : Nat)
  /-- BINFLUSH (R274): Makes every non-empty bin of the block due for launch. -/
  | binflush
  /-- TRAP (R404): Raises a precise TRAP with a 14-bit code. -/
  | trap (h l : Nat)
  /-- TRET (R403): Returns from a trap handler to TRAPPC, restoring the predicate stack. -/
  | tret
  /-- SVC (R405): Writes an SVC entry to the fault queue after a SYS release. -/
  | svc (h l : Nat)
  /-- BRK (R404): Raises a precise BRK with a 14-bit code. -/
  | brk (h l : Nat)
  /-- NOP (R406): Does nothing. -/
  | nop
  /-- RDCYC (R406): Reads the die's CYCLE count into a pair. -/
  | rdcyc (d : Nat)
  /-- RNGSEED (R406): Seeds RNGS from a shared seed and THREAD. -/
  | rngseed (a : Nat)
  /-- FE_PRESENT (R244): Presents a woken full/empty operation again at its point. -/
  | fePresent (t : TRef)
  /-- CONVERGENCE_ROUND (R127): Executes the parked bundle-convergent groups of a converged bundle in address order. -/
  | convergenceRound (blk bun : Nat)
  /-- LONG_LATENCY_RESULT (R141): Writes a long-latency result to its destination and ORs its flags. -/
  | longLatencyResult (t : TRef) (k : Nat)
  /-- ACTIVE_SET_EXCHANGE (R281): Exchanges a parked active bundle for a ready pending one. -/
  | activeSetExchange (core sub : Nat)
  /-- PENDING_BUNDLE_TIMEOUT (R281): After 1,024 ready cycles a pending bundle replaces the longest-active one. -/
  | pendingBundleTimeout (core sub : Nat)
  /-- YIELD_END (R282): A yielding thread becomes ready again. -/
  | yieldEnd (t : TRef)
  /-- SLEEP_EXPIRE (R283): A sleeping thread's count runs out and it becomes ready. -/
  | sleepExpire (t : TRef)
  /-- MONITOR_DISPLACEMENT (R233): The device latches a monitor event with no write, e.g. by registration displacement. -/
  | monitorDisplacement (t : TRef)
  /-- MWAIT_LIMIT_EXPIRE (R234): An MWAIT limit expires and returns status 1. -/
  | mwaitLimitExpire (t : TRef)
  /-- BWAITT_LIMIT_EXPIRE (R262): A BWAITT limit expires and returns status 2. -/
  | bwaittLimitExpire (t : TRef)
  /-- BINWAIT_EXPIRE (R274): A bin becomes due 4,096 core cycles after its first thread joined. -/
  | binwaitExpire (core bin : Nat)
  /-- BIN_LAUNCH (R274): Launches a due bin as a new bundle once an index, slot and rows are free. -/
  | binLaunch (core : Nat)
  /-- RALLOC_GRANT (R291): Grants the oldest waiting row request from free, claimed or taken rows. -/
  | rallocGrant (core sub : Nat)
  /-- RFREE_RELEASE (R293): Returns freed rows once no in-flight command's footprint covers them. -/
  | rfreeRelease (blk bun : Nat)
  /-- ENGINE_COMMAND_START (R148): An engine starts the next queued command in issue order. -/
  | engineCommandStart (e : EngId)
  /-- ENGINE_UNIT_COMPLETE (R164): An engine finishes one unit and advances the command's tidemark. -/
  | engineUnitComplete (cmd : Nat)
  /-- ENGINE_COMMAND_COMPLETE (R158): A command writes its results, arrives at its barrier and is reported to its counter. -/
  | engineCommandComplete (cmd : Nat)
  /-- ENGINE_FAULT (R166): A fault found during execution ends, sets aside or discards a command. -/
  | engineFault (cmd : Nat)
  /-- ENGINE_COMMAND_RESUME (R166): A set-aside command resumes from its tidemark once its page is resident. -/
  | engineCommandResume (cmd : Nat)
  /-- SHADOW_ISSUE (R426): Issues a shadow group that recomputes and compares a leader group. -/
  | shadowIssue (core sub : Nat) (mismatch : Bool)
  /-- L1_EVICTION (R189): A cache evicts a line, writing back its dirty bytes. -/
  | l1Eviction (c : CacheId) (vd line : Nat)
  /-- GROYNE_WINDOW_REFILL (R334): Refills each metered VD's tokens at the start of a 1,024-cycle window. -/
  | groyneWindowRefill (die : Nat)
  /-- GROYNE_SERVE (R334): A home slice port serves one waiting request, charging a token. -/
  | groyneServe (die slice : Nat)
  /-- NOTIFY (R297): Host write of a queue's write index, taken when valid. -/
  | notify (vd q : Nat) (value : Word) (tbit : Bool)
  /-- QUEUE_ENABLE (R298): Setting QCTL.EN zeroes the indexes or records a CONFIG error. -/
  | queueEnable (vd q : Nat) (value : Word) (tbit : Bool)
  /-- QUEUE_DISABLE (R298): Clearing QCTL.EN stops fetching after the packet being accepted. -/
  | queueDisable (vd q : Nat) (value : Word) (tbit : Bool)
  /-- QERR_CLEAR (R306): Writing 1 to QERR.ERR clears the error and skips a failed packet. -/
  | qerrClear (vd q : Nat) (value : Word) (tbit : Bool)
  /-- REGISTER_WRITE (R5): Write to a device register with no behaviour of its own, under its access code. -/
  | registerWrite (r : DevReg) (value : DWord) (tbit : Bool)
  /-- PACKET_POLL (R301): Quay rereads a packet header whose VALID is 0, on a write or every 1,024 cycles. -/
  | packetPoll (vd q : Nat)
  /-- PACKET_ACCEPT (R301): Quay reads and checks a packet, then clears VALID and increments RDIDX. -/
  | packetAccept (vd q : Nat)
  /-- DSIG_POLL (R302): Quay rereads a dependency signal until its value is at most DVAL. -/
  | dsigPoll (vd q : Nat)
  /-- KERNEL_PACKET (R307): Starts a kernel packet, cutting it into gangs for placement. -/
  | kernelPacket (vd q : Nat)
  /-- COPY_PACKET (R309): Starts a copy packet through the VD's stage-1 translation. -/
  | copyPacket (vd q : Nat)
  /-- WAIT_PACKET (R309): A wait packet completes as soon as it starts. -/
  | waitPacket (vd q : Nat)
  /-- SET_PACKET (R309): A set packet exchanges KARG into CSIG. -/
  | setPacket (vd q : Nat)
  /-- GANG_PLACEMENT (R308): Places a waiting gang on the lowest logical quad it fits, in strict order. -/
  | gangPlacement (die vd : Nat)
  /-- KERNEL_COMPLETION (R309): Updates CSIG as a SYS release after a packet completes, and raises its IRQ. -/
  | kernelCompletion (kernel : Nat)
  /-- TURN_END (R310): Ends a VD's turn on a quad when its deficit runs out. -/
  | turnEnd (quad : Nat)
  /-- IDLE_TURN_END (R310): Ends a turn after 4,096 cycles with no issue and no engine work. -/
  | idleTurnEnd (quad : Nat)
  /-- TURN_START (R310): The next eligible VD takes its turn once the halt is complete. -/
  | turnStart (quad : Nat)
  /-- BLOCK_RESUME (R313): A halted block resumes on its logical quad, restoring claimed state. -/
  | blockResume (blk : Nat)
  /-- CRNOTIFY (R327): Host write of the call ring's write index. -/
  | crnotify (ring : Nat) (value : Word) (tbit : Bool)
  /-- CALL_RING_ENABLE (R326): Setting CRCTL.EN zeroes the call write index and CRDONE. -/
  | callRingEnable (ring : Nat) (value : Word) (tbit : Bool)
  /-- FAULT_QUEUE_ENABLE (R326): Setting FQCTL.EN zeroes FQTAIL and FQHEAD. -/
  | faultQueueEnable (ring : Nat) (value : Word) (tbit : Bool)
  /-- FQHEAD_WRITE (R416): Software consumes fault-queue entries, ignored if it would overrun FQTAIL. -/
  | fqheadWrite (ring : Nat) (value : Word) (tbit : Bool)
  /-- SERVICE_PERIOD (R330): Refills each ring's service budget every 1,048,576 service cycles. -/
  | servicePeriod
  /-- CREATE_VD (R324): Harbour call that builds a VD in a partition. -/
  | createVd (c : CallSlot)
  /-- DESTROY_VD (R325): Harbour call that drains, zeroes and scrubs a VD. -/
  | destroyVd (c : CallSlot)
  /-- RESET_VD (R430): Harbour call that resets a VD's execution state. -/
  | resetVd (c : CallSlot)
  /-- SET_WEIGHT (R328): Sets a VD's scheduling and service weights. -/
  | setWeight (c : CallSlot)
  /-- SET_METER (R328): Sets a VD's Groyne RATE and BURST. -/
  | setMeter (c : CallSlot)
  /-- SET_IRQ (R332): Replaces an interrupt remap entry, returning the old one. -/
  | setIrq (c : CallSlot)
  /-- SET_PART (R318): Grows or shrinks a partition one quad at a time. -/
  | setPart (c : CallSlot)
  /-- MOVE_BLOCK (R336): Moves a 2 GiB memory block between partitions or VDs. -/
  | moveBlock (c : CallSlot)
  /-- BLOCK_ACK (R337): Tenant accepts or refuses a block removal. -/
  | blockAck (c : CallSlot)
  /-- MOVE_DEADLINE_EXPIRE (R337): A move's deadline passes, timing out or forcing a reset. -/
  | moveDeadlineExpire (blk : Nat)
  /-- QUERY (R328): Returns one entry of a Headland table. -/
  | query (c : CallSlot)
  /-- SET_RANK (R397): Writes one entry of a partition's rank table. -/
  | setRank (c : CallSlot)
  /-- SET_ROOT (R368): Sets the stage-1 root after a whole-VD shoot-down. -/
  | setRoot (c : CallSlot)
  /-- TLB_INVAL (R368): Shoots down translations of a range or the whole VD. -/
  | tlbInval (c : CallSlot)
  /-- PF_RESOLVE (R355): Resolves a fault record with RETRY or DENY. -/
  | pfResolve (c : CallSlot)
  /-- POOL_ADD (R368): Adds frames to the device-managed paging pool. -/
  | poolAdd (c : CallSlot)
  /-- SET_BACKING (R368): Sets the backing store and zeroes the version table. -/
  | setBacking (c : CallSlot)
  /-- SET_APERTURE (R368): Writes a host-memory aperture entry. -/
  | setAperture (c : CallSlot)
  /-- SET_SHARED (R388): Marks a GPA block shared or private for a confidential VD. -/
  | setShared (c : CallSlot)
  /-- QUERY_SCRUB (R388): Returns a scrub job register. -/
  | queryScrub (c : CallSlot)
  /-- PAGE_IN (R359): Harbour supplies a zero or backed page into a frame and resolves with RETRY. -/
  | pageIn (vd fid : Nat)
  /-- INVALIDATION (R364): A translation unit receives a shoot-down, clears state and acknowledges. -/
  | invalidation (u : UnitId) (vd : Nat) (lo hi : Nat)
  /-- HOST_READ (R391): A host memory read in BAR2 performed at the home slice. -/
  | hostRead (fn off size : Nat) (c : Carry)
  /-- HOST_WRITE (R213): A posted host write performed at the home slice in arrival order. -/
  | hostWrite (fn off : Nat) (data : List Byte) (c : Carry)
  /-- HOST_FETCHADD (R204): Host FetchAdd AtomicOp at the home slice. -/
  | hostFetchadd (fn off size : Nat) (x : Nat) (c : Carry)
  /-- HOST_SWAP (R204): Host Swap AtomicOp at the home slice. -/
  | hostSwap (fn off size : Nat) (x : Nat) (c : Carry)
  /-- HOST_CAS (R204): Host CAS AtomicOp at the home slice. -/
  | hostCas (fn off size : Nat) (cmp x : Nat) (c : Carry)
  /-- CXL_MEM_ACCESS (R393): A CXL.mem access mapped through an HDM decoder to a VD. -/
  | cxlMemAccess (ep : Nat) (haddr : Nat) (size : Nat) (data : Option (List Byte)) (c : Carry)
  /-- HOST_COMPLETION (R367): A completion for a device-issued host request arrives. -/
  | hostCompletion (tag : Nat) (c : Completion)
  /-- COMPLETION_TIMEOUT (R389): A non-posted host request times out after 33,554,432 service cycles. -/
  | completionTimeout (tag : Nat)
  /-- ATS_TRANSLATION_COMPLETION (R366): An ATS Translation Completion fills or denies a translation. -/
  | atsTranslationCompletion (tag : Nat) (haddr : Option Nat)
  /-- ATS_INVALIDATION_REQUEST (R367): An ATS Invalidation Request for a host range. -/
  | atsInvalidationRequest (port fn lo hi : Nat)
  /-- FUNCTION_LEVEL_RESET (R392): An FLR of a VF resets its VD. -/
  | functionLevelReset (vfn : Nat)
  /-- LINK_DOWN (R373): A host link goes down, zeroising its IDE key slots. -/
  | linkDown (port : Nat)
  /-- KEY_PROG (R373): IDE_KM message that loads an IDE stream key set. -/
  | keyProg (k : KeyProg)
  /-- K_SET_GO (R379): IDE_KM message that switches a stream to a key set. -/
  | kSetGo (stream : Nat) (set : Nat)
  /-- K_SET_STOP (R373): IDE_KM message that zeroises one key set. -/
  | kSetStop (stream : Nat) (set : Nat)
  /-- LINK_KM (R396): Vendor message that loads a partition's Longshore link keys. -/
  | linkKm (part : Nat) (key : BitVec 256)
  /-- LOCK_INTERFACE_REQUEST (R375): TDISP request that locks a confidential VD's interface. -/
  | lockInterfaceRequest (vd : Nat)
  /-- START_INTERFACE_REQUEST (R375): TDISP request that moves a locked interface to RUN. -/
  | startInterfaceRequest (vd : Nat) (nonce : BitVec 256)
  /-- STOP_INTERFACE_REQUEST (R375): TDISP request that unlocks the interface. -/
  | stopInterfaceRequest (vd : Nat)
  /-- GET_DEVICE_INTERFACE_STATE (R378): TDISP request that reports the interface state. -/
  | getDeviceInterfaceState (vd : Nat)
  /-- GET_VERSION (R384): SPDM request that resets the mailbox's connection state. -/
  | getVersion (mb : Nat) (msg : List Byte)
  /-- GET_CAPABILITIES (R384): SPDM capabilities exchange. -/
  | getCapabilities (mb : Nat) (msg : List Byte)
  /-- NEGOTIATE_ALGORITHMS (R384): SPDM algorithm negotiation. -/
  | negotiateAlgorithms (mb : Nat) (msg : List Byte)
  /-- GET_DIGESTS (R384): SPDM request for certificate digests. -/
  | getDigests (mb : Nat) (msg : List Byte)
  /-- GET_CERTIFICATE (R384): SPDM request for a certificate chunk. -/
  | getCertificate (mb : Nat) (msg : List Byte)
  /-- CHALLENGE (R386): SPDM challenge answered with a signed CHALLENGE_AUTH over the transcript. -/
  | challenge (mb : Nat) (msg : List Byte)
  /-- GET_MEASUREMENTS (R385): SPDM request for measurement indices. -/
  | getMeasurements (mb : Nat) (msg : List Byte)
  /-- KEY_EXCHANGE (R384): SPDM ECDH key exchange opening a session. -/
  | keyExchange (mb : Nat) (msg : List Byte)
  /-- FINISH (R384): SPDM FINISH completing a secured session. -/
  | finish (mb : Nat) (msg : List Byte)
  /-- END_SESSION (R384): SPDM request ending a secured session. -/
  | endSession (mb : Nat) (msg : List Byte)
  /-- FLIT_PUT_DATA (R398): A received PUT data flit writes one line at the target. -/
  | flitPutData (f : Flit)
  /-- FLIT_PUT_ACK (R398): A received PUT acknowledgement flit. -/
  | flitPutAck (f : Flit)
  /-- FLIT_GET_REQUEST (R398): A received GET request flit reads a line at the target. -/
  | flitGetRequest (f : Flit)
  /-- FLIT_GET_DATA (R398): A received GET data flit writes a line for the issuer. -/
  | flitGetData (f : Flit)
  /-- FLIT_BARRIER_ARRIVAL (R399): A received pod barrier arrival flit. -/
  | flitBarrierArrival (f : Flit)
  /-- FLIT_BARRIER_OPEN (R399): A received pod barrier open flit. -/
  | flitBarrierOpen (f : Flit)
  /-- FLIT_ERROR (R398): A received error flit ends the issuer's command with LINK. -/
  | flitError (f : Flit)
  /-- FLIT_REPLAY (R395): A flit whose link CRC fails is replayed from the retry buffer. -/
  | flitReplay (port : Nat)
  /-- FABRIC_RESPONSE_TIMEOUT (R398): A fabric command with no response for 16,777,216 cycles ends with LINK. -/
  | fabricResponseTimeout (cmd : Nat)
  /-- SCRUB_JOB_START (R381): Writing RUN starts or restarts a scrub job at its tidemark. -/
  | scrubJobStart (job : Nat)
  /-- SCRUB_UNIT (R381): A scrub job finishes examining or rewriting one 2 MiB unit. -/
  | scrubUnit (job : Nat)
  /-- SCRUB_JOB_END (R381): A scrub job ends, clearing RUN and the block's SCRUB. -/
  | scrubJobEnd (job : Nat)
  /-- HARBOUR_WARM_RESTART (R383): A Harbour warm restart halts running scrub jobs. -/
  | harbourWarmRestart
  /-- COLD_RESET (R435): Cold reset runs measured boot. -/
  | coldReset (cfg : BootCfg)
  /-- BACKWASH_SWEEP (R424): A sweeper reads one idle-cycle word, correcting or poisoning it, or an access finds its
  errors. -/
  | backwashSweep (a : SweepTarget) (o : SweepFind)
  /-- ARRAY_ECC_TARGET_WRITE (R425): Writing a new TARGET starts re-encoding of an array. -/
  | arrayEccTargetWrite (entry : Nat) (target : Bool)
  /-- ENGINE_KILL (R428): Writing KILL starts a kill-and-drain of an engine. -/
  | engineKill (e : EngId) (all : Bool) (vd : Nat)
  /-- ENGINE_SLACK (R428): A draining engine reaches the SLACK state. -/
  | engineSlack (e : EngId)
  /-- ENGINE_GO (R428): Writing GO in SLACK returns the engine to RUN. -/
  | engineGo (e : EngWrite)
  /-- ENGINE_FENCE_TIMEOUT (R429): An engine not in SLACK after 1,048,576 cycles becomes FENCED. -/
  | engineFenceTimeout (e : EngId)
  /-- MONITOR_UPDATE (R439): Updates the temperature, clock and power monitor dwords every 65,536 service cycles. -/
  | monitorUpdate (tempA tempB power : Nat)
  /-- CLOCK_STEP_DOWN (R440): A die steps its clock down at once when its target rises. -/
  | clockStepDown (die : Nat)
  /-- CLOCK_STEP_UP (R440): A die steps up after 2^24 service cycles below target. -/
  | clockStepUp (die : Nat)
  /-- VOLTAGE_DROOP (R440): A voltage droop lowers a die by one step until it clears. -/
  | voltageDroop (die : Nat)
  /-- THERMAL_SHUTDOWN (R440): At 115 C the package stops every clock. -/
  | thermalShutdown
  /-- ILLEGAL_WORD (R77): A thread issues a word that encodes no instruction (unassigned major, fn or modifier, or a nonzero must-be-zero field) and every thread of the group raises ILLEGAL with TRAPVAL set to the word. -/
  | illegalWord (w : Nat)
  /-- LINK_UP (R389): A host port's link trains in Flit mode and comes up again after going down. -/
  | linkUp (port : Nat)
  /-- VOLTAGE_DROOP_CLEARS (R440): A voltage droop below the safe limit clears and the die's extra step down is removed. -/
  | voltageDroopClears (die : Nat)
  deriving DecidableEq, Repr

/-- The part's steps that are not instruction words, as the agenda of the machine holds them: the outside world's
inputs and the steps that units of the part are due to take. -/
inductive Event where
  /-- FE_PRESENT (R244). -/
  | fePresent (t : TRef)
  /-- CONVERGENCE_ROUND (R127). -/
  | convergenceRound (blk bun : Nat)
  /-- LONG_LATENCY_RESULT (R141). -/
  | longLatencyResult (t : TRef) (k : Nat)
  /-- ACTIVE_SET_EXCHANGE (R281). -/
  | activeSetExchange (core sub : Nat)
  /-- PENDING_BUNDLE_TIMEOUT (R281). -/
  | pendingBundleTimeout (core sub : Nat)
  /-- YIELD_END (R282). -/
  | yieldEnd (t : TRef)
  /-- SLEEP_EXPIRE (R283). -/
  | sleepExpire (t : TRef)
  /-- MONITOR_DISPLACEMENT (R233). -/
  | monitorDisplacement (t : TRef)
  /-- MWAIT_LIMIT_EXPIRE (R234). -/
  | mwaitLimitExpire (t : TRef)
  /-- BWAITT_LIMIT_EXPIRE (R262). -/
  | bwaittLimitExpire (t : TRef)
  /-- BINWAIT_EXPIRE (R274). -/
  | binwaitExpire (core bin : Nat)
  /-- BIN_LAUNCH (R274). -/
  | binLaunch (core : Nat)
  /-- RALLOC_GRANT (R291). -/
  | rallocGrant (core sub : Nat)
  /-- RFREE_RELEASE (R293). -/
  | rfreeRelease (blk bun : Nat)
  /-- ENGINE_COMMAND_START (R148). -/
  | engineCommandStart (e : EngId)
  /-- ENGINE_UNIT_COMPLETE (R164). -/
  | engineUnitComplete (cmd : Nat)
  /-- ENGINE_COMMAND_COMPLETE (R158). -/
  | engineCommandComplete (cmd : Nat)
  /-- ENGINE_FAULT (R166). -/
  | engineFault (cmd : Nat)
  /-- ENGINE_COMMAND_RESUME (R166). -/
  | engineCommandResume (cmd : Nat)
  /-- SHADOW_ISSUE (R426). -/
  | shadowIssue (core sub : Nat) (mismatch : Bool)
  /-- L1_EVICTION (R189). -/
  | l1Eviction (c : CacheId) (vd line : Nat)
  /-- GROYNE_WINDOW_REFILL (R334). -/
  | groyneWindowRefill (die : Nat)
  /-- GROYNE_SERVE (R334). -/
  | groyneServe (die slice : Nat)
  /-- NOTIFY (R297). -/
  | notify (vd q : Nat) (value : Word) (tbit : Bool)
  /-- QUEUE_ENABLE (R298). -/
  | queueEnable (vd q : Nat) (value : Word) (tbit : Bool)
  /-- QUEUE_DISABLE (R298). -/
  | queueDisable (vd q : Nat) (value : Word) (tbit : Bool)
  /-- QERR_CLEAR (R306). -/
  | qerrClear (vd q : Nat) (value : Word) (tbit : Bool)
  /-- REGISTER_WRITE (R5). -/
  | registerWrite (r : DevReg) (value : DWord) (tbit : Bool)
  /-- PACKET_POLL (R301). -/
  | packetPoll (vd q : Nat)
  /-- PACKET_ACCEPT (R301). -/
  | packetAccept (vd q : Nat)
  /-- DSIG_POLL (R302). -/
  | dsigPoll (vd q : Nat)
  /-- KERNEL_PACKET (R307). -/
  | kernelPacket (vd q : Nat)
  /-- COPY_PACKET (R309). -/
  | copyPacket (vd q : Nat)
  /-- WAIT_PACKET (R309). -/
  | waitPacket (vd q : Nat)
  /-- SET_PACKET (R309). -/
  | setPacket (vd q : Nat)
  /-- GANG_PLACEMENT (R308). -/
  | gangPlacement (die vd : Nat)
  /-- KERNEL_COMPLETION (R309). -/
  | kernelCompletion (kernel : Nat)
  /-- TURN_END (R310). -/
  | turnEnd (quad : Nat)
  /-- IDLE_TURN_END (R310). -/
  | idleTurnEnd (quad : Nat)
  /-- TURN_START (R310). -/
  | turnStart (quad : Nat)
  /-- BLOCK_RESUME (R313). -/
  | blockResume (blk : Nat)
  /-- CRNOTIFY (R327). -/
  | crnotify (ring : Nat) (value : Word) (tbit : Bool)
  /-- CALL_RING_ENABLE (R326). -/
  | callRingEnable (ring : Nat) (value : Word) (tbit : Bool)
  /-- FAULT_QUEUE_ENABLE (R326). -/
  | faultQueueEnable (ring : Nat) (value : Word) (tbit : Bool)
  /-- FQHEAD_WRITE (R416). -/
  | fqheadWrite (ring : Nat) (value : Word) (tbit : Bool)
  /-- SERVICE_PERIOD (R330). -/
  | servicePeriod
  /-- CREATE_VD (R324). -/
  | createVd (c : CallSlot)
  /-- DESTROY_VD (R325). -/
  | destroyVd (c : CallSlot)
  /-- RESET_VD (R430). -/
  | resetVd (c : CallSlot)
  /-- SET_WEIGHT (R328). -/
  | setWeight (c : CallSlot)
  /-- SET_METER (R328). -/
  | setMeter (c : CallSlot)
  /-- SET_IRQ (R332). -/
  | setIrq (c : CallSlot)
  /-- SET_PART (R318). -/
  | setPart (c : CallSlot)
  /-- MOVE_BLOCK (R336). -/
  | moveBlock (c : CallSlot)
  /-- BLOCK_ACK (R337). -/
  | blockAck (c : CallSlot)
  /-- MOVE_DEADLINE_EXPIRE (R337). -/
  | moveDeadlineExpire (blk : Nat)
  /-- QUERY (R328). -/
  | query (c : CallSlot)
  /-- SET_RANK (R397). -/
  | setRank (c : CallSlot)
  /-- SET_ROOT (R368). -/
  | setRoot (c : CallSlot)
  /-- TLB_INVAL (R368). -/
  | tlbInval (c : CallSlot)
  /-- PF_RESOLVE (R355). -/
  | pfResolve (c : CallSlot)
  /-- POOL_ADD (R368). -/
  | poolAdd (c : CallSlot)
  /-- SET_BACKING (R368). -/
  | setBacking (c : CallSlot)
  /-- SET_APERTURE (R368). -/
  | setAperture (c : CallSlot)
  /-- SET_SHARED (R388). -/
  | setShared (c : CallSlot)
  /-- QUERY_SCRUB (R388). -/
  | queryScrub (c : CallSlot)
  /-- PAGE_IN (R359). -/
  | pageIn (vd fid : Nat)
  /-- INVALIDATION (R364). -/
  | invalidation (u : UnitId) (vd : Nat) (lo hi : Nat)
  /-- HOST_READ (R391). -/
  | hostRead (fn off size : Nat) (c : Carry)
  /-- HOST_WRITE (R213). -/
  | hostWrite (fn off : Nat) (data : List Byte) (c : Carry)
  /-- HOST_FETCHADD (R204). -/
  | hostFetchadd (fn off size : Nat) (x : Nat) (c : Carry)
  /-- HOST_SWAP (R204). -/
  | hostSwap (fn off size : Nat) (x : Nat) (c : Carry)
  /-- HOST_CAS (R204). -/
  | hostCas (fn off size : Nat) (cmp x : Nat) (c : Carry)
  /-- CXL_MEM_ACCESS (R393). -/
  | cxlMemAccess (ep : Nat) (haddr : Nat) (size : Nat) (data : Option (List Byte)) (c : Carry)
  /-- HOST_COMPLETION (R367). -/
  | hostCompletion (tag : Nat) (c : Completion)
  /-- COMPLETION_TIMEOUT (R389). -/
  | completionTimeout (tag : Nat)
  /-- ATS_TRANSLATION_COMPLETION (R366). -/
  | atsTranslationCompletion (tag : Nat) (haddr : Option Nat)
  /-- ATS_INVALIDATION_REQUEST (R367). -/
  | atsInvalidationRequest (port fn lo hi : Nat)
  /-- FUNCTION_LEVEL_RESET (R392). -/
  | functionLevelReset (vfn : Nat)
  /-- LINK_DOWN (R373). -/
  | linkDown (port : Nat)
  /-- KEY_PROG (R373). -/
  | keyProg (k : KeyProg)
  /-- K_SET_GO (R379). -/
  | kSetGo (stream : Nat) (set : Nat)
  /-- K_SET_STOP (R373). -/
  | kSetStop (stream : Nat) (set : Nat)
  /-- LINK_KM (R396). -/
  | linkKm (part : Nat) (key : BitVec 256)
  /-- LOCK_INTERFACE_REQUEST (R375). -/
  | lockInterfaceRequest (vd : Nat)
  /-- START_INTERFACE_REQUEST (R375). -/
  | startInterfaceRequest (vd : Nat) (nonce : BitVec 256)
  /-- STOP_INTERFACE_REQUEST (R375). -/
  | stopInterfaceRequest (vd : Nat)
  /-- GET_DEVICE_INTERFACE_STATE (R378). -/
  | getDeviceInterfaceState (vd : Nat)
  /-- GET_VERSION (R384). -/
  | getVersion (mb : Nat) (msg : List Byte)
  /-- GET_CAPABILITIES (R384). -/
  | getCapabilities (mb : Nat) (msg : List Byte)
  /-- NEGOTIATE_ALGORITHMS (R384). -/
  | negotiateAlgorithms (mb : Nat) (msg : List Byte)
  /-- GET_DIGESTS (R384). -/
  | getDigests (mb : Nat) (msg : List Byte)
  /-- GET_CERTIFICATE (R384). -/
  | getCertificate (mb : Nat) (msg : List Byte)
  /-- CHALLENGE (R386). -/
  | challenge (mb : Nat) (msg : List Byte)
  /-- GET_MEASUREMENTS (R385). -/
  | getMeasurements (mb : Nat) (msg : List Byte)
  /-- KEY_EXCHANGE (R384). -/
  | keyExchange (mb : Nat) (msg : List Byte)
  /-- FINISH (R384). -/
  | finish (mb : Nat) (msg : List Byte)
  /-- END_SESSION (R384). -/
  | endSession (mb : Nat) (msg : List Byte)
  /-- FLIT_PUT_DATA (R398). -/
  | flitPutData (f : Flit)
  /-- FLIT_PUT_ACK (R398). -/
  | flitPutAck (f : Flit)
  /-- FLIT_GET_REQUEST (R398). -/
  | flitGetRequest (f : Flit)
  /-- FLIT_GET_DATA (R398). -/
  | flitGetData (f : Flit)
  /-- FLIT_BARRIER_ARRIVAL (R399). -/
  | flitBarrierArrival (f : Flit)
  /-- FLIT_BARRIER_OPEN (R399). -/
  | flitBarrierOpen (f : Flit)
  /-- FLIT_ERROR (R398). -/
  | flitError (f : Flit)
  /-- FLIT_REPLAY (R395). -/
  | flitReplay (port : Nat)
  /-- FABRIC_RESPONSE_TIMEOUT (R398). -/
  | fabricResponseTimeout (cmd : Nat)
  /-- SCRUB_JOB_START (R381). -/
  | scrubJobStart (job : Nat)
  /-- SCRUB_UNIT (R381). -/
  | scrubUnit (job : Nat)
  /-- SCRUB_JOB_END (R381). -/
  | scrubJobEnd (job : Nat)
  /-- HARBOUR_WARM_RESTART (R383). -/
  | harbourWarmRestart
  /-- COLD_RESET (R435). -/
  | coldReset (cfg : BootCfg)
  /-- BACKWASH_SWEEP (R424). -/
  | backwashSweep (a : SweepTarget) (o : SweepFind)
  /-- ARRAY_ECC_TARGET_WRITE (R425). -/
  | arrayEccTargetWrite (entry : Nat) (target : Bool)
  /-- ENGINE_KILL (R428). -/
  | engineKill (e : EngId) (all : Bool) (vd : Nat)
  /-- ENGINE_SLACK (R428). -/
  | engineSlack (e : EngId)
  /-- ENGINE_GO (R428). -/
  | engineGo (e : EngWrite)
  /-- ENGINE_FENCE_TIMEOUT (R429). -/
  | engineFenceTimeout (e : EngId)
  /-- MONITOR_UPDATE (R439). -/
  | monitorUpdate (tempA tempB power : Nat)
  /-- CLOCK_STEP_DOWN (R440). -/
  | clockStepDown (die : Nat)
  /-- CLOCK_STEP_UP (R440). -/
  | clockStepUp (die : Nat)
  /-- VOLTAGE_DROOP (R440). -/
  | voltageDroop (die : Nat)
  /-- THERMAL_SHUTDOWN (R440). -/
  | thermalShutdown
  /-- ILLEGAL_WORD (R77). -/
  | illegalWord (w : Nat)
  /-- LINK_UP (R389). -/
  | linkUp (port : Nat)
  /-- VOLTAGE_DROOP_CLEARS (R440). -/
  | voltageDroopClears (die : Nat)
  deriving DecidableEq, Repr

end Sys2Proof
end

