-- ==== Sys2Proof/WellFormed.lean ====
section
/-! DEFINITION. Which instructions are well formed: field ranges (R51), operand roles (R52, R29), and the
combination rules of R54 and R62 to R76. -/

namespace Sys2Proof

/-- The 64-bit special registers of R39. -/
def spec64 : List Nat := [0x010, 0x011, 0x016, 0x01A, 0x01B, 0x020, 0x021, 0x030, 0x032, 0x033]

/-- The 32-bit special registers of R39. -/
def spec32 : List Nat :=
  [0x000, 0x001, 0x002, 0x003, 0x004, 0x005, 0x006, 0x007, 0x008, 0x009, 0x00A, 0x00B, 0x00C, 0x00D, 0x012,
   0x013, 0x014, 0x015, 0x018, 0x019, 0x01C, 0x031, 0x040, 0x041, 0x042, 0x043, 0x050, 0x060]

/-- The special registers that MTS may write: RW in R39. -/
def specRw : List Nat := [0x011, 0x014, 0x018, 0x019, 0x01A, 0x01C, 0x030, 0x031, 0x032, 0x033]

/-- The privileged numbers 0x100 to 0x1FF (R40), which decode and then raise PRIV. -/
def specPriv (s : Nat) : Bool := 0x100 <= s && s < 0x200

/-- How many vector registers a special register moves through (R40): a pair for a 64-bit one. -/
def specWidth (s : Nat) : Nat := if spec64.contains s then 2 else 1

/-- An MFS number that decodes: listed in R39, or privileged (R77). -/
def specReadable (s : Nat) : Bool := specPriv s || spec64.contains s || spec32.contains s

/-- An MTS number that decodes: a register that is RW in R39, or privileged (R77). -/
def specWritable (s : Nat) : Bool := specPriv s || specRw.contains s

/-- The registers of a compare operand by ty5: pairs for s64 and f64 (R63). -/
def cmpWidth (t : Nat) : Nat := if t == 1 || t == 3 then 2 else 1

/-- The combinations of cc4, pm3 and ty5 that CMP allows (R63). -/
def cmpAllowed (c m t : Nat) : Bool :=
  m < 3 && t < 6 &&
    (if c < 6 then true
     else if c < 10 || c == 12 then t < 2
     else if c == 10 || c == 11 then 2 <= t
     else false)

/-- The combinations of cc4 and pm3 that CMPI allows (R63). -/
def cmpiAllowed (c m : Nat) : Bool := m < 3 && c < 13 && c != 10 && c != 11

/-- The scopes and ids that BAR allows (R75). -/
def barAllowed (s i : Nat) : Bool :=
  if s == 0 then i < 16 else if s == 1 then i < 4 else if s < 5 then i < 2 else false

/-- The register fields of an atomic's vd and va: none for vd when it equals va, a reduction (R72). -/
def atomicRegs (d a w : Nat) : List (Nat × Nat) := if d = a then [(a, 2)] else [(d, w + 1), (a, 2)]

/-- The completion barrier's pair, none when vb is 0 (R74). -/
def barRegs (b : Nat) : List (Nat × Nat) := if b = 0 then [] else [(b, 2)]

namespace Instr

/-- The registers an instruction names, as (first, count) in the order vd, va, vb, then x10 (R52, R78). Counts
2 and 4 are a pair and a quad. MSPA's metadata registers are checked at step 6 instead (R163). -/
def regs : Instr → List (Nat × Nat)
  | .add d a b => [(d, 1), (a, 1), (b, 1)]
  | .sub d a b => [(d, 1), (a, 1), (b, 1)]
  | .carry d a b => [(d, 1), (a, 1), (b, 1)]
  | .borrow d a b => [(d, 1), (a, 1), (b, 1)]
  | .mul d a b => [(d, 1), (a, 1), (b, 1)]
  | .mulh d a b => [(d, 1), (a, 1), (b, 1)]
  | .mulhn d a b => [(d, 1), (a, 1), (b, 1)]
  | .mad d a b => [(d, 1), (a, 1), (b, 1)]
  | .and d a b => [(d, 1), (a, 1), (b, 1)]
  | .or d a b => [(d, 1), (a, 1), (b, 1)]
  | .xor d a b => [(d, 1), (a, 1), (b, 1)]
  | .andn d a b => [(d, 1), (a, 1), (b, 1)]
  | .shl d a b => [(d, 1), (a, 1), (b, 1)]
  | .shr d a b => [(d, 1), (a, 1), (b, 1)]
  | .sra d a b => [(d, 1), (a, 1), (b, 1)]
  | .rol d a b => [(d, 1), (a, 1), (b, 1)]
  | .ror d a b => [(d, 1), (a, 1), (b, 1)]
  | .min d a b => [(d, 1), (a, 1), (b, 1)]
  | .max d a b => [(d, 1), (a, 1), (b, 1)]
  | .minn d a b => [(d, 1), (a, 1), (b, 1)]
  | .maxn d a b => [(d, 1), (a, 1), (b, 1)]
  | .addd d a b => [(d, 2), (a, 2), (b, 2)]
  | .subd d a b => [(d, 2), (a, 2), (b, 2)]
  | .muld d a b => [(d, 2), (a, 2), (b, 2)]
  | .shld d a b => [(d, 2), (a, 2), (b, 1)]
  | .shrd d a b => [(d, 2), (a, 2), (b, 1)]
  | .srad d a b => [(d, 2), (a, 2), (b, 1)]
  | .bsel d a b => [(d, 1), (a, 1), (b, 1)]
  | .sel d a b => [(d, 1), (a, 1), (b, 1)]
  | .absdiff d a b => [(d, 1), (a, 1), (b, 1)]
  | .mulhsn d a b => [(d, 1), (a, 1), (b, 1)]
  | .mov d a => [(d, 1), (a, 1)]
  | .not d a => [(d, 1), (a, 1)]
  | .neg d a => [(d, 1), (a, 1)]
  | .abs d a => [(d, 1), (a, 1)]
  | .clz d a => [(d, 1), (a, 1)]
  | .ctz d a => [(d, 1), (a, 1)]
  | .popc d a => [(d, 1), (a, 1)]
  | .brev d a => [(d, 1), (a, 1)]
  | .bswap d a => [(d, 1), (a, 1)]
  | .sextb d a => [(d, 1), (a, 1)]
  | .sexth d a => [(d, 1), (a, 1)]
  | .zextb d a => [(d, 1), (a, 1)]
  | .zexth d a => [(d, 1), (a, 1)]
  | .movd d a => [(d, 2), (a, 2)]
  | .negd d a => [(d, 2), (a, 2)]
  | .clzd d a => [(d, 1), (a, 2)]
  | .popcd d a => [(d, 1), (a, 2)]
  | .addi d a _ => [(d, 1), (a, 1)]
  | .andi d a _ => [(d, 1), (a, 1)]
  | .ori d a _ => [(d, 1), (a, 1)]
  | .xori d a _ => [(d, 1), (a, 1)]
  | .shli d a _ => [(d, 1), (a, 1)]
  | .shri d a _ => [(d, 1), (a, 1)]
  | .srai d a _ => [(d, 1), (a, 1)]
  | .rori d a _ => [(d, 1), (a, 1)]
  | .muli d a _ => [(d, 1), (a, 1)]
  | .lui d _ => [(d, 1)]
  | .bfeN32 d a _ _ => [(d, 1), (a, 1)]
  | .bfeS32 d a _ _ => [(d, 1), (a, 1)]
  | .bfi d a _ _ => [(d, 1), (a, 1)]
  | .cmp _ _ a b t => [(a, cmpWidth t), (b, cmpWidth t)]
  | .cmpi _ _ a _ => [(a, 1)]
  | .pelse => []
  | .pend => []
  | .pget d => [(d, 1)]
  | .ppush a => [(a, 1)]
  | .pdepth d => [(d, 1)]
  | .bvotea a => [(a, 1)]
  | .bvotey a => [(a, 1)]
  | .ballot d a => [(d, 1), (a, 1)]
  | .bsync => []
  | .aadd _ _ _ => []
  | .asub _ _ _ => []
  | .ashl _ _ _ => []
  | .amuli _ _ _ => []
  | .amov _ _ => []
  | .asetb _ v => [(v, 2)]
  | .asets _ v => [(v, 1)]
  | .aget _ v => [(v, 2)]
  | .aaddi _ _ _ => []
  | .movi d _ => [(d, 1)]
  | .mfs d s => [(d, specWidth s)]
  | .mts a s => [(a, specWidth s)]
  | .xlgetIdx d a b => [(d, 1), (a, 1), (b, 1)]
  | .xlgetUp d a b => [(d, 1), (a, 1), (b, 1)]
  | .xlgetDn d a b => [(d, 1), (a, 1), (b, 1)]
  | .xlgetXor d a b => [(d, 1), (a, 1), (b, 1)]
  | .rdlane d a b => [(d, 1), (a, 1), (b, 1)]
  | .redadd d a => [(d, 1), (a, 1)]
  | .redmin d a => [(d, 1), (a, 1)]
  | .redmax d a => [(d, 1), (a, 1)]
  | .scanadd d a => [(d, 1), (a, 1)]
  | .cvtF32S32 d a _ => [(d, 1), (a, 1)]
  | .cvtF32N32 d a _ => [(d, 1), (a, 1)]
  | .cvtS32F32 d a _ _ => [(d, 1), (a, 1)]
  | .cvtN32F32 d a _ _ => [(d, 1), (a, 1)]
  | .cvtF64F32 d a => [(d, 2), (a, 1)]
  | .cvtF32F64 d a _ _ => [(d, 1), (a, 2)]
  | .cvtF16F32 d a _ _ _ => [(d, 1), (a, 1)]
  | .cvtF32F16 d a _ => [(d, 1), (a, 1)]
  | .cvtBf16F32 d a _ _ _ => [(d, 1), (a, 1)]
  | .cvtF32Bf16 d a _ => [(d, 1), (a, 1)]
  | .cvtE4m3F32 d a _ _ _ => [(d, 1), (a, 1)]
  | .cvtE5m2F32 d a _ _ _ => [(d, 1), (a, 1)]
  | .cvtF32E4m3 d a _ => [(d, 1), (a, 1)]
  | .cvtF32E5m2 d a _ => [(d, 1), (a, 1)]
  | .cvtE2m1F32 d a _ _ _ => [(d, 1), (a, 1)]
  | .cvtF32E2m1 d a _ => [(d, 1), (a, 1)]
  | .cvtF64S64 d a _ => [(d, 2), (a, 2)]
  | .cvtS64F64 d a _ _ => [(d, 2), (a, 2)]
  | .cvtF64N64 d a _ => [(d, 2), (a, 2)]
  | .cvtN64F64 d a _ _ => [(d, 2), (a, 2)]
  | .cvtS8S32 d a _ _ => [(d, 1), (a, 1)]
  | .cvtN8S32 d a _ _ => [(d, 1), (a, 1)]
  | .frnd d a _ => [(d, 1), (a, 1)]
  | .frndd d a _ => [(d, 2), (a, 2)]
  | .bscale d a => [(d, 1), (a, 1)]
  | .faddF32 d a b => [(d, 1), (a, 1), (b, 1)]
  | .fsubF32 d a b => [(d, 1), (a, 1), (b, 1)]
  | .fmulF32 d a b => [(d, 1), (a, 1), (b, 1)]
  | .ffmaF32 d a b => [(d, 1), (a, 1), (b, 1)]
  | .ffmsF32 d a b => [(d, 1), (a, 1), (b, 1)]
  | .fnfmaF32 d a b => [(d, 1), (a, 1), (b, 1)]
  | .fminF32 d a b => [(d, 1), (a, 1), (b, 1)]
  | .fmaxF32 d a b => [(d, 1), (a, 1), (b, 1)]
  | .fminmF32 d a b => [(d, 1), (a, 1), (b, 1)]
  | .fmaxmF32 d a b => [(d, 1), (a, 1), (b, 1)]
  | .fabsF32 d a => [(d, 1), (a, 1)]
  | .fnegF32 d a => [(d, 1), (a, 1)]
  | .fsgnjF32 d a b => [(d, 1), (a, 1), (b, 1)]
  | .fclassF32 d a => [(d, 1), (a, 1)]
  | .faddF64 d a b => [(d, 2), (a, 2), (b, 2)]
  | .fsubF64 d a b => [(d, 2), (a, 2), (b, 2)]
  | .fmulF64 d a b => [(d, 2), (a, 2), (b, 2)]
  | .ffmaF64 d a b => [(d, 2), (a, 2), (b, 2)]
  | .ffmsF64 d a b => [(d, 2), (a, 2), (b, 2)]
  | .fnfmaF64 d a b => [(d, 2), (a, 2), (b, 2)]
  | .fminF64 d a b => [(d, 2), (a, 2), (b, 2)]
  | .fmaxF64 d a b => [(d, 2), (a, 2), (b, 2)]
  | .fminmF64 d a b => [(d, 2), (a, 2), (b, 2)]
  | .fmaxmF64 d a b => [(d, 2), (a, 2), (b, 2)]
  | .fabsF64 d a => [(d, 2), (a, 2)]
  | .fnegF64 d a => [(d, 2), (a, 2)]
  | .fsgnjF64 d a b => [(d, 2), (a, 2), (b, 2)]
  | .fclassF64 d a => [(d, 1), (a, 2)]
  | .f2add d a b _ => [(d, 1), (a, 1), (b, 1)]
  | .f2sub d a b _ => [(d, 1), (a, 1), (b, 1)]
  | .f2mul d a b _ => [(d, 1), (a, 1), (b, 1)]
  | .f2fma d a b _ => [(d, 1), (a, 1), (b, 1)]
  | .f2min d a b _ => [(d, 1), (a, 1), (b, 1)]
  | .f2max d a b _ => [(d, 1), (a, 1), (b, 1)]
  | .f2abs d a _ => [(d, 1), (a, 1)]
  | .f2neg d a _ => [(d, 1), (a, 1)]
  | .fsqrt d a _ t => [(d, t + 1), (a, t + 1)]
  | .frcp d a _ t => [(d, t + 1), (a, t + 1)]
  | .frsq d a _ => [(d, 1), (a, 1)]
  | .fexp2 d a _ => [(d, 1), (a, 1)]
  | .flog2 d a _ => [(d, 1), (a, 1)]
  | .fsint d a _ => [(d, 1), (a, 1)]
  | .fcost d a _ => [(d, 1), (a, 1)]
  | .ftanh d a _ => [(d, 1), (a, 1)]
  | .fdiv d a b _ t => [(d, t + 1), (a, t + 1), (b, t + 1)]
  | .div d a b _ _ => [(d, 1), (a, 1), (b, 1)]
  | .rem d a b _ _ => [(d, 1), (a, 1), (b, 1)]
  | .maddm d a b => [(d, 2), (a, 2), (b, 2)]
  | .msubm d a b => [(d, 2), (a, 2), (b, 2)]
  | .mmulm d a b => [(d, 2), (a, 2), (b, 2)]
  | .mtom d a => [(d, 2), (a, 2)]
  | .mfromm d a => [(d, 2), (a, 2)]
  | .mulw d a b => [(d, 4), (a, 2), (b, 2)]
  | .bflyc d a => [(d, 4), (a, 2)]
  | .bflyg d a => [(d, 4), (a, 2)]
  | .mredb d a => [(d, 2), (a, 4)]
  | .mneg d a => [(d, 2), (a, 2)]
  | .ldb d a _ _ _ => [(d, 1), (a, 2)]
  | .ldbs d a _ _ _ => [(d, 1), (a, 2)]
  | .ldh d a _ _ _ => [(d, 1), (a, 2)]
  | .ldhs d a _ _ _ => [(d, 1), (a, 2)]
  | .ldw d a _ _ _ => [(d, 1), (a, 2)]
  | .ldd d a _ _ _ => [(d, 2), (a, 2)]
  | .ldq d a _ _ _ => [(d, 4), (a, 2)]
  | .stb d a _ _ => [(d, 1), (a, 2)]
  | .sth d a _ _ => [(d, 1), (a, 2)]
  | .stw d a _ _ => [(d, 1), (a, 2)]
  | .std d a _ _ => [(d, 2), (a, 2)]
  | .stq d a _ _ => [(d, 4), (a, 2)]
  | .atadd d a b _ w => atomicRegs d a w ++ [(b, w + 1)]
  | .atfadd d a b _ w => atomicRegs d a w ++ [(b, w + 1)]
  | .atmin d a b _ w => atomicRegs d a w ++ [(b, w + 1)]
  | .atmax d a b _ w => atomicRegs d a w ++ [(b, w + 1)]
  | .atminn d a b _ w => atomicRegs d a w ++ [(b, w + 1)]
  | .atmaxn d a b _ w => atomicRegs d a w ++ [(b, w + 1)]
  | .atand d a b _ w => atomicRegs d a w ++ [(b, w + 1)]
  | .ator d a b _ w => atomicRegs d a w ++ [(b, w + 1)]
  | .atxor d a b _ w => atomicRegs d a w ++ [(b, w + 1)]
  | .atxch d a b _ w => atomicRegs d a w ++ [(b, w + 1)]
  | .atcas d a b _ w => atomicRegs d a w ++ [(b, 2 * (w + 1))]
  | .feldw d a _ _ => [(d, 2), (a, 2)]
  | .feldwTry d a _ => [(d, 2), (a, 2)]
  | .feldc d a _ _ => [(d, 2), (a, 2)]
  | .feldcTry d a _ => [(d, 2), (a, 2)]
  | .festf d a _ => [(d, 2), (a, 2)]
  | .festfTry d a _ => [(d, 2), (a, 2)]
  | .fests d a _ => [(d, 2), (a, 2)]
  | .feqry d a => [(d, 2), (a, 2)]
  | .feset a b => [(a, 2), (b, 1)]
  | .feclr a b => [(a, 2), (b, 1)]
  | .br _ _ _ => []
  | .call _ _ _ => []
  | .jr _ _ a => [(a, 2)]
  | .mma a b => [(a, 4)] ++ barRegs b
  | .mloop a b => [(a, 4)] ++ barRegs b
  | .mspa _ a b => [(a, 4)] ++ barRegs b
  | .mmaq a b => [(a, 4)] ++ barRegs b
  | .mloopq a b => [(a, 4)] ++ barRegs b
  | .wbld a b => [(a, 4)] ++ barRegs b
  | .mzero b => barRegs b
  | .tld a b => [(a, 4)] ++ barRegs b
  | .tst a b => [(a, 4)] ++ barRegs b
  | .copy a b => [(a, 2)] ++ barRegs b
  | .gather a b => [(a, 2)] ++ barRegs b
  | .scatter a b => [(a, 2)] ++ barRegs b
  | .put a b => [(a, 2)] ++ barRegs b
  | .get a b => [(a, 2)] ++ barRegs b
  | .tsum a b => [(a, 4)] ++ barRegs b
  | .tchk a b => [(a, 4)] ++ barRegs b
  | .tfix a b => [(a, 4)] ++ barRegs b
  | .fence _ _ => []
  | .setscope _ => []
  | .bar _ _ => []
  | .waitc _ _ => []
  | .arrive a b => [(a, 2), (b, 1)]
  | .expect a b => [(a, 2), (b, 1)]
  | .bwait d a => [(d, 1), (a, 2)]
  | .bwaitt d a b => [(d, 1), (a, 2), (b, 1)]
  | .mwatch a => [(a, 2)]
  | .mwait d b => [(d, 1), (b, 1)]
  | .sleep b => [(b, 1)]
  | .yield => []
  | .region => []
  | .qpush _ b => [(b, 2)]
  | .qpop d _ => [(d, 2)]
  | .qtrypush _ b => [(b, 2)]
  | .qtrypop d _ => [(d, 2)]
  | .acqr => []
  | .relr => []
  | .spawn a b => [(a, 2), (b, 1)]
  | .exit => []
  | .ret => []
  | .ralloc a => [(a, 1)]
  | .rfree a => [(a, 1)]
  | .wbase a => [(a, 1)]
  | .view a _ => [(a, 1)]
  | .binflush => []
  | .trap _ _ => []
  | .tret => []
  | .svc _ _ => []
  | .brk _ _ => []
  | .nop => []
  | .rdcyc d => [(d, 2)]
  | .rngseed a => [(a, 1)]
  | .fePresent _ => []
  | .convergenceRound _ _ => []
  | .longLatencyResult _ _ => []
  | .activeSetExchange _ _ => []
  | .pendingBundleTimeout _ _ => []
  | .yieldEnd _ => []
  | .sleepExpire _ => []
  | .monitorDisplacement _ => []
  | .mwaitLimitExpire _ => []
  | .bwaittLimitExpire _ => []
  | .binwaitExpire _ _ => []
  | .binLaunch _ => []
  | .rallocGrant _ _ => []
  | .rfreeRelease _ _ => []
  | .engineCommandStart _ => []
  | .engineUnitComplete _ => []
  | .engineCommandComplete _ => []
  | .engineFault _ => []
  | .engineCommandResume _ => []
  | .shadowIssue _ _ _ => []
  | .l1Eviction _ _ _ => []
  | .groyneWindowRefill _ => []
  | .groyneServe _ _ => []
  | .notify _ _ _ _ => []
  | .queueEnable _ _ _ _ => []
  | .queueDisable _ _ _ _ => []
  | .qerrClear _ _ _ _ => []
  | .registerWrite _ _ _ => []
  | .packetPoll _ _ => []
  | .packetAccept _ _ => []
  | .dsigPoll _ _ => []
  | .kernelPacket _ _ => []
  | .copyPacket _ _ => []
  | .waitPacket _ _ => []
  | .setPacket _ _ => []
  | .gangPlacement _ _ => []
  | .kernelCompletion _ => []
  | .turnEnd _ => []
  | .idleTurnEnd _ => []
  | .turnStart _ => []
  | .blockResume _ => []
  | .crnotify _ _ _ => []
  | .callRingEnable _ _ _ => []
  | .faultQueueEnable _ _ _ => []
  | .fqheadWrite _ _ _ => []
  | .servicePeriod => []
  | .createVd _ => []
  | .destroyVd _ => []
  | .resetVd _ => []
  | .setWeight _ => []
  | .setMeter _ => []
  | .setIrq _ => []
  | .setPart _ => []
  | .moveBlock _ => []
  | .blockAck _ => []
  | .moveDeadlineExpire _ => []
  | .query _ => []
  | .setRank _ => []
  | .setRoot _ => []
  | .tlbInval _ => []
  | .pfResolve _ => []
  | .poolAdd _ => []
  | .setBacking _ => []
  | .setAperture _ => []
  | .setShared _ => []
  | .queryScrub _ => []
  | .pageIn _ _ => []
  | .invalidation _ _ _ _ => []
  | .hostRead _ _ _ _ => []
  | .hostWrite _ _ _ _ => []
  | .hostFetchadd _ _ _ _ _ => []
  | .hostSwap _ _ _ _ _ => []
  | .hostCas _ _ _ _ _ _ => []
  | .cxlMemAccess _ _ _ _ _ => []
  | .hostCompletion _ _ => []
  | .completionTimeout _ => []
  | .atsTranslationCompletion _ _ => []
  | .atsInvalidationRequest _ _ _ _ => []
  | .functionLevelReset _ => []
  | .linkDown _ => []
  | .keyProg _ => []
  | .kSetGo _ _ => []
  | .kSetStop _ _ => []
  | .linkKm _ _ => []
  | .lockInterfaceRequest _ => []
  | .startInterfaceRequest _ _ => []
  | .stopInterfaceRequest _ => []
  | .getDeviceInterfaceState _ => []
  | .getVersion _ _ => []
  | .getCapabilities _ _ => []
  | .negotiateAlgorithms _ _ => []
  | .getDigests _ _ => []
  | .getCertificate _ _ => []
  | .challenge _ _ => []
  | .getMeasurements _ _ => []
  | .keyExchange _ _ => []
  | .finish _ _ => []
  | .endSession _ _ => []
  | .flitPutData _ => []
  | .flitPutAck _ => []
  | .flitGetRequest _ => []
  | .flitGetData _ => []
  | .flitBarrierArrival _ => []
  | .flitBarrierOpen _ => []
  | .flitError _ => []
  | .flitReplay _ => []
  | .fabricResponseTimeout _ => []
  | .scrubJobStart _ => []
  | .scrubUnit _ => []
  | .scrubJobEnd _ => []
  | .harbourWarmRestart => []
  | .coldReset _ => []
  | .backwashSweep _ _ => []
  | .arrayEccTargetWrite _ _ => []
  | .engineKill _ _ _ => []
  | .engineSlack _ => []
  | .engineGo _ => []
  | .engineFenceTimeout _ => []
  | .monitorUpdate _ _ _ => []
  | .clockStepDown _ => []
  | .clockStepUp _ => []
  | .voltageDroop _ => []
  | .thermalShutdown => []
  | .illegalWord _ => []
  | .linkUp _ => []
  | .voltageDroopClears _ => []

/-- Every field fits its bits (R51). -/
def inRange : Instr → Bool
  | .add d a b => d < 128 && a < 128 && b < 128
  | .sub d a b => d < 128 && a < 128 && b < 128
  | .carry d a b => d < 128 && a < 128 && b < 128
  | .borrow d a b => d < 128 && a < 128 && b < 128
  | .mul d a b => d < 128 && a < 128 && b < 128
  | .mulh d a b => d < 128 && a < 128 && b < 128
  | .mulhn d a b => d < 128 && a < 128 && b < 128
  | .mad d a b => d < 128 && a < 128 && b < 128
  | .and d a b => d < 128 && a < 128 && b < 128
  | .or d a b => d < 128 && a < 128 && b < 128
  | .xor d a b => d < 128 && a < 128 && b < 128
  | .andn d a b => d < 128 && a < 128 && b < 128
  | .shl d a b => d < 128 && a < 128 && b < 128
  | .shr d a b => d < 128 && a < 128 && b < 128
  | .sra d a b => d < 128 && a < 128 && b < 128
  | .rol d a b => d < 128 && a < 128 && b < 128
  | .ror d a b => d < 128 && a < 128 && b < 128
  | .min d a b => d < 128 && a < 128 && b < 128
  | .max d a b => d < 128 && a < 128 && b < 128
  | .minn d a b => d < 128 && a < 128 && b < 128
  | .maxn d a b => d < 128 && a < 128 && b < 128
  | .addd d a b => d < 128 && a < 128 && b < 128
  | .subd d a b => d < 128 && a < 128 && b < 128
  | .muld d a b => d < 128 && a < 128 && b < 128
  | .shld d a b => d < 128 && a < 128 && b < 128
  | .shrd d a b => d < 128 && a < 128 && b < 128
  | .srad d a b => d < 128 && a < 128 && b < 128
  | .bsel d a b => d < 128 && a < 128 && b < 128
  | .sel d a b => d < 128 && a < 128 && b < 128
  | .absdiff d a b => d < 128 && a < 128 && b < 128
  | .mulhsn d a b => d < 128 && a < 128 && b < 128
  | .mov d a => d < 128 && a < 128
  | .not d a => d < 128 && a < 128
  | .neg d a => d < 128 && a < 128
  | .abs d a => d < 128 && a < 128
  | .clz d a => d < 128 && a < 128
  | .ctz d a => d < 128 && a < 128
  | .popc d a => d < 128 && a < 128
  | .brev d a => d < 128 && a < 128
  | .bswap d a => d < 128 && a < 128
  | .sextb d a => d < 128 && a < 128
  | .sexth d a => d < 128 && a < 128
  | .zextb d a => d < 128 && a < 128
  | .zexth d a => d < 128 && a < 128
  | .movd d a => d < 128 && a < 128
  | .negd d a => d < 128 && a < 128
  | .clzd d a => d < 128 && a < 128
  | .popcd d a => d < 128 && a < 128
  | .addi d a i => d < 128 && a < 128 && i < 4096
  | .andi d a i => d < 128 && a < 128 && i < 4096
  | .ori d a i => d < 128 && a < 128 && i < 4096
  | .xori d a i => d < 128 && a < 128 && i < 4096
  | .shli d a n => d < 128 && a < 128 && n < 32
  | .shri d a n => d < 128 && a < 128 && n < 32
  | .srai d a n => d < 128 && a < 128 && n < 32
  | .rori d a n => d < 128 && a < 128 && n < 32
  | .muli d a i => d < 128 && a < 128 && i < 4096
  | .lui d h => d < 128 && h < 524288
  | .bfeN32 d a p l => d < 128 && a < 128 && p < 32 && l < 32
  | .bfeS32 d a p l => d < 128 && a < 128 && p < 32 && l < 32
  | .bfi d a p l => d < 128 && a < 128 && p < 32 && l < 32
  | .cmp c m a b t => c < 16 && m < 8 && a < 128 && b < 128 && t < 32
  | .cmpi c m a i => c < 16 && m < 8 && a < 128 && i < 4096
  | .pelse => true
  | .pend => true
  | .pget d => d < 128
  | .ppush a => a < 128
  | .pdepth d => d < 128
  | .bvotea a => a < 128
  | .bvotey a => a < 128
  | .ballot d a => d < 128 && a < 128
  | .bsync => true
  | .aadd d a b => d < 16 && a < 16 && b < 16
  | .asub d a b => d < 16 && a < 16 && b < 16
  | .ashl d a n => d < 16 && a < 16 && n < 64
  | .amuli d a i => d < 16 && a < 16 && i < 1024
  | .amov d a => d < 16 && a < 16
  | .asetb d v => d < 16 && v < 128
  | .asets d v => d < 16 && v < 128
  | .aget a v => a < 16 && v < 128
  | .aaddi d a i => d < 16 && a < 16 && i < 1024
  | .movi d i => d < 128 && i < 524288
  | .mfs d s => d < 128 && s < 2048
  | .mts a s => a < 128 && s < 2048
  | .xlgetIdx d a b => d < 128 && a < 128 && b < 128
  | .xlgetUp d a b => d < 128 && a < 128 && b < 128
  | .xlgetDn d a b => d < 128 && a < 128 && b < 128
  | .xlgetXor d a b => d < 128 && a < 128 && b < 128
  | .rdlane d a b => d < 128 && a < 128 && b < 128
  | .redadd d a => d < 128 && a < 128
  | .redmin d a => d < 128 && a < 128
  | .redmax d a => d < 128 && a < 128
  | .scanadd d a => d < 128 && a < 128
  | .cvtF32S32 d a r => d < 128 && a < 128 && r < 8
  | .cvtF32N32 d a r => d < 128 && a < 128 && r < 8
  | .cvtS32F32 d a r s => d < 128 && a < 128 && r < 8 && s < 2
  | .cvtN32F32 d a r s => d < 128 && a < 128 && r < 8 && s < 2
  | .cvtF64F32 d a => d < 128 && a < 128
  | .cvtF32F64 d a r s => d < 128 && a < 128 && r < 8 && s < 2
  | .cvtF16F32 d a r s k => d < 128 && a < 128 && r < 8 && s < 2 && k < 2
  | .cvtF32F16 d a k => d < 128 && a < 128 && k < 2
  | .cvtBf16F32 d a r s k => d < 128 && a < 128 && r < 8 && s < 2 && k < 2
  | .cvtF32Bf16 d a k => d < 128 && a < 128 && k < 2
  | .cvtE4m3F32 d a r s k => d < 128 && a < 128 && r < 8 && s < 2 && k < 2
  | .cvtE5m2F32 d a r s k => d < 128 && a < 128 && r < 8 && s < 2 && k < 2
  | .cvtF32E4m3 d a k => d < 128 && a < 128 && k < 2
  | .cvtF32E5m2 d a k => d < 128 && a < 128 && k < 2
  | .cvtE2m1F32 d a r s k => d < 128 && a < 128 && r < 8 && s < 2 && k < 2
  | .cvtF32E2m1 d a k => d < 128 && a < 128 && k < 2
  | .cvtF64S64 d a r => d < 128 && a < 128 && r < 8
  | .cvtS64F64 d a r s => d < 128 && a < 128 && r < 8 && s < 2
  | .cvtF64N64 d a r => d < 128 && a < 128 && r < 8
  | .cvtN64F64 d a r s => d < 128 && a < 128 && r < 8 && s < 2
  | .cvtS8S32 d a s k => d < 128 && a < 128 && s < 2 && k < 2
  | .cvtN8S32 d a s k => d < 128 && a < 128 && s < 2 && k < 2
  | .frnd d a r => d < 128 && a < 128 && r < 8
  | .frndd d a r => d < 128 && a < 128 && r < 8
  | .bscale d a => d < 128 && a < 128
  | .faddF32 d a b => d < 128 && a < 128 && b < 128
  | .fsubF32 d a b => d < 128 && a < 128 && b < 128
  | .fmulF32 d a b => d < 128 && a < 128 && b < 128
  | .ffmaF32 d a b => d < 128 && a < 128 && b < 128
  | .ffmsF32 d a b => d < 128 && a < 128 && b < 128
  | .fnfmaF32 d a b => d < 128 && a < 128 && b < 128
  | .fminF32 d a b => d < 128 && a < 128 && b < 128
  | .fmaxF32 d a b => d < 128 && a < 128 && b < 128
  | .fminmF32 d a b => d < 128 && a < 128 && b < 128
  | .fmaxmF32 d a b => d < 128 && a < 128 && b < 128
  | .fabsF32 d a => d < 128 && a < 128
  | .fnegF32 d a => d < 128 && a < 128
  | .fsgnjF32 d a b => d < 128 && a < 128 && b < 128
  | .fclassF32 d a => d < 128 && a < 128
  | .faddF64 d a b => d < 128 && a < 128 && b < 128
  | .fsubF64 d a b => d < 128 && a < 128 && b < 128
  | .fmulF64 d a b => d < 128 && a < 128 && b < 128
  | .ffmaF64 d a b => d < 128 && a < 128 && b < 128
  | .ffmsF64 d a b => d < 128 && a < 128 && b < 128
  | .fnfmaF64 d a b => d < 128 && a < 128 && b < 128
  | .fminF64 d a b => d < 128 && a < 128 && b < 128
  | .fmaxF64 d a b => d < 128 && a < 128 && b < 128
  | .fminmF64 d a b => d < 128 && a < 128 && b < 128
  | .fmaxmF64 d a b => d < 128 && a < 128 && b < 128
  | .fabsF64 d a => d < 128 && a < 128
  | .fnegF64 d a => d < 128 && a < 128
  | .fsgnjF64 d a b => d < 128 && a < 128 && b < 128
  | .fclassF64 d a => d < 128 && a < 128
  | .f2add d a b t => d < 128 && a < 128 && b < 128 && t < 2
  | .f2sub d a b t => d < 128 && a < 128 && b < 128 && t < 2
  | .f2mul d a b t => d < 128 && a < 128 && b < 128 && t < 2
  | .f2fma d a b t => d < 128 && a < 128 && b < 128 && t < 2
  | .f2min d a b t => d < 128 && a < 128 && b < 128 && t < 2
  | .f2max d a b t => d < 128 && a < 128 && b < 128 && t < 2
  | .f2abs d a t => d < 128 && a < 128 && t < 2
  | .f2neg d a t => d < 128 && a < 128 && t < 2
  | .fsqrt d a l t => d < 128 && a < 128 && l < 16 && t < 2
  | .frcp d a l t => d < 128 && a < 128 && l < 16 && t < 2
  | .frsq d a l => d < 128 && a < 128 && l < 16
  | .fexp2 d a l => d < 128 && a < 128 && l < 16
  | .flog2 d a l => d < 128 && a < 128 && l < 16
  | .fsint d a l => d < 128 && a < 128 && l < 16
  | .fcost d a l => d < 128 && a < 128 && l < 16
  | .ftanh d a l => d < 128 && a < 128 && l < 16
  | .fdiv d a b l t => d < 128 && a < 128 && b < 128 && l < 16 && t < 2
  | .div d a b l t => d < 128 && a < 128 && b < 128 && l < 16 && t < 2
  | .rem d a b l t => d < 128 && a < 128 && b < 128 && l < 16 && t < 2
  | .maddm d a b => d < 128 && a < 128 && b < 128
  | .msubm d a b => d < 128 && a < 128 && b < 128
  | .mmulm d a b => d < 128 && a < 128 && b < 128
  | .mtom d a => d < 128 && a < 128
  | .mfromm d a => d < 128 && a < 128
  | .mulw d a b => d < 128 && a < 128 && b < 128
  | .bflyc d a => d < 128 && a < 128
  | .bflyg d a => d < 128 && a < 128
  | .mredb d a => d < 128 && a < 128
  | .mneg d a => d < 128 && a < 128
  | .ldb d a o p l => d < 128 && a < 128 && o < 32 && p < 8 && l < 16
  | .ldbs d a o p l => d < 128 && a < 128 && o < 32 && p < 8 && l < 16
  | .ldh d a o p l => d < 128 && a < 128 && o < 32 && p < 8 && l < 16
  | .ldhs d a o p l => d < 128 && a < 128 && o < 32 && p < 8 && l < 16
  | .ldw d a o p l => d < 128 && a < 128 && o < 32 && p < 8 && l < 16
  | .ldd d a o p l => d < 128 && a < 128 && o < 32 && p < 8 && l < 16
  | .ldq d a o p l => d < 128 && a < 128 && o < 32 && p < 8 && l < 16
  | .stb d a o p => d < 128 && a < 128 && o < 32 && p < 8
  | .sth d a o p => d < 128 && a < 128 && o < 32 && p < 8
  | .stw d a o p => d < 128 && a < 128 && o < 32 && p < 8
  | .std d a o p => d < 128 && a < 128 && o < 32 && p < 8
  | .stq d a o p => d < 128 && a < 128 && o < 32 && p < 8
  | .atadd d a b l w => d < 128 && a < 128 && b < 128 && l < 16 && w < 2
  | .atfadd d a b l w => d < 128 && a < 128 && b < 128 && l < 16 && w < 2
  | .atmin d a b l w => d < 128 && a < 128 && b < 128 && l < 16 && w < 2
  | .atmax d a b l w => d < 128 && a < 128 && b < 128 && l < 16 && w < 2
  | .atminn d a b l w => d < 128 && a < 128 && b < 128 && l < 16 && w < 2
  | .atmaxn d a b l w => d < 128 && a < 128 && b < 128 && l < 16 && w < 2
  | .atand d a b l w => d < 128 && a < 128 && b < 128 && l < 16 && w < 2
  | .ator d a b l w => d < 128 && a < 128 && b < 128 && l < 16 && w < 2
  | .atxor d a b l w => d < 128 && a < 128 && b < 128 && l < 16 && w < 2
  | .atxch d a b l w => d < 128 && a < 128 && b < 128 && l < 16 && w < 2
  | .atcas d a b l w => d < 128 && a < 128 && b < 128 && l < 16 && w < 2
  | .feldw d a o l => d < 128 && a < 128 && o < 32 && l < 16
  | .feldwTry d a o => d < 128 && a < 128 && o < 32
  | .feldc d a o l => d < 128 && a < 128 && o < 32 && l < 16
  | .feldcTry d a o => d < 128 && a < 128 && o < 32
  | .festf d a o => d < 128 && a < 128 && o < 32
  | .festfTry d a o => d < 128 && a < 128 && o < 32
  | .fests d a o => d < 128 && a < 128 && o < 32
  | .feqry d a => d < 128 && a < 128
  | .feset a b => a < 128 && b < 128
  | .feclr a b => a < 128 && b < 128
  | .br k p o => k < 4 && p < 2 && o < 8388608
  | .call k p o => k < 4 && p < 2 && o < 8388608
  | .jr k c a => k < 4 && c < 2 && a < 128
  | .mma a b => a < 128 && b < 128
  | .mloop a b => a < 128 && b < 128
  | .mspa s a b => s < 128 && a < 128 && b < 128
  | .mmaq a b => a < 128 && b < 128
  | .mloopq a b => a < 128 && b < 128
  | .wbld a b => a < 128 && b < 128
  | .mzero b => b < 128
  | .tld a b => a < 128 && b < 128
  | .tst a b => a < 128 && b < 128
  | .copy a b => a < 128 && b < 128
  | .gather a b => a < 128 && b < 128
  | .scatter a b => a < 128 && b < 128
  | .put a b => a < 128 && b < 128
  | .get a b => a < 128 && b < 128
  | .tsum a b => a < 128 && b < 128
  | .tchk a b => a < 128 && b < 128
  | .tfix a b => a < 128 && b < 128
  | .fence k s => k < 8 && s < 8
  | .setscope s => s < 8
  | .bar s i => s < 8 && i < 16
  | .waitc c n => c < 4 && n < 64
  | .arrive a b => a < 128 && b < 128
  | .expect a b => a < 128 && b < 128
  | .bwait d a => d < 128 && a < 128
  | .bwaitt d a b => d < 128 && a < 128 && b < 128
  | .mwatch a => a < 128
  | .mwait d b => d < 128 && b < 128
  | .sleep b => b < 128
  | .yield => true
  | .region => true
  | .qpush q b => q < 16 && b < 128
  | .qpop d q => d < 128 && q < 16
  | .qtrypush q b => q < 16 && b < 128
  | .qtrypop d q => d < 128 && q < 16
  | .acqr => true
  | .relr => true
  | .spawn a b => a < 128 && b < 128
  | .exit => true
  | .ret => true
  | .ralloc a => a < 128
  | .rfree a => a < 128
  | .wbase a => a < 128
  | .view a s => a < 128 && s < 4
  | .binflush => true
  | .trap h l => h < 128 && l < 128
  | .tret => true
  | .svc h l => h < 128 && l < 128
  | .brk h l => h < 128 && l < 128
  | .nop => true
  | .rdcyc d => d < 128
  | .rngseed a => a < 128
  | .fePresent _ => true
  | .convergenceRound _ _ => true
  | .longLatencyResult _ _ => true
  | .activeSetExchange _ _ => true
  | .pendingBundleTimeout _ _ => true
  | .yieldEnd _ => true
  | .sleepExpire _ => true
  | .monitorDisplacement _ => true
  | .mwaitLimitExpire _ => true
  | .bwaittLimitExpire _ => true
  | .binwaitExpire _ _ => true
  | .binLaunch _ => true
  | .rallocGrant _ _ => true
  | .rfreeRelease _ _ => true
  | .engineCommandStart _ => true
  | .engineUnitComplete _ => true
  | .engineCommandComplete _ => true
  | .engineFault _ => true
  | .engineCommandResume _ => true
  | .shadowIssue _ _ _ => true
  | .l1Eviction _ _ _ => true
  | .groyneWindowRefill _ => true
  | .groyneServe _ _ => true
  | .notify _ _ _ _ => true
  | .queueEnable _ _ _ _ => true
  | .queueDisable _ _ _ _ => true
  | .qerrClear _ _ _ _ => true
  | .registerWrite _ _ _ => true
  | .packetPoll _ _ => true
  | .packetAccept _ _ => true
  | .dsigPoll _ _ => true
  | .kernelPacket _ _ => true
  | .copyPacket _ _ => true
  | .waitPacket _ _ => true
  | .setPacket _ _ => true
  | .gangPlacement _ _ => true
  | .kernelCompletion _ => true
  | .turnEnd _ => true
  | .idleTurnEnd _ => true
  | .turnStart _ => true
  | .blockResume _ => true
  | .crnotify _ _ _ => true
  | .callRingEnable _ _ _ => true
  | .faultQueueEnable _ _ _ => true
  | .fqheadWrite _ _ _ => true
  | .servicePeriod => true
  | .createVd _ => true
  | .destroyVd _ => true
  | .resetVd _ => true
  | .setWeight _ => true
  | .setMeter _ => true
  | .setIrq _ => true
  | .setPart _ => true
  | .moveBlock _ => true
  | .blockAck _ => true
  | .moveDeadlineExpire _ => true
  | .query _ => true
  | .setRank _ => true
  | .setRoot _ => true
  | .tlbInval _ => true
  | .pfResolve _ => true
  | .poolAdd _ => true
  | .setBacking _ => true
  | .setAperture _ => true
  | .setShared _ => true
  | .queryScrub _ => true
  | .pageIn _ _ => true
  | .invalidation _ _ _ _ => true
  | .hostRead _ _ _ _ => true
  | .hostWrite _ _ _ _ => true
  | .hostFetchadd _ _ _ _ _ => true
  | .hostSwap _ _ _ _ _ => true
  | .hostCas _ _ _ _ _ _ => true
  | .cxlMemAccess _ _ _ _ _ => true
  | .hostCompletion _ _ => true
  | .completionTimeout _ => true
  | .atsTranslationCompletion _ _ => true
  | .atsInvalidationRequest _ _ _ _ => true
  | .functionLevelReset _ => true
  | .linkDown _ => true
  | .keyProg _ => true
  | .kSetGo _ _ => true
  | .kSetStop _ _ => true
  | .linkKm _ _ => true
  | .lockInterfaceRequest _ => true
  | .startInterfaceRequest _ _ => true
  | .stopInterfaceRequest _ => true
  | .getDeviceInterfaceState _ => true
  | .getVersion _ _ => true
  | .getCapabilities _ _ => true
  | .negotiateAlgorithms _ _ => true
  | .getDigests _ _ => true
  | .getCertificate _ _ => true
  | .challenge _ _ => true
  | .getMeasurements _ _ => true
  | .keyExchange _ _ => true
  | .finish _ _ => true
  | .endSession _ _ => true
  | .flitPutData _ => true
  | .flitPutAck _ => true
  | .flitGetRequest _ => true
  | .flitGetData _ => true
  | .flitBarrierArrival _ => true
  | .flitBarrierOpen _ => true
  | .flitError _ => true
  | .flitReplay _ => true
  | .fabricResponseTimeout _ => true
  | .scrubJobStart _ => true
  | .scrubUnit _ => true
  | .scrubJobEnd _ => true
  | .harbourWarmRestart => true
  | .coldReset _ => true
  | .backwashSweep _ _ => true
  | .arrayEccTargetWrite _ _ => true
  | .engineKill _ _ _ => true
  | .engineSlack _ => true
  | .engineGo _ => true
  | .engineFenceTimeout _ => true
  | .monitorUpdate _ _ _ => true
  | .clockStepDown _ => true
  | .clockStepUp _ => true
  | .voltageDroop _ => true
  | .thermalShutdown => true
  | .illegalWord _ => true
  | .linkUp _ => true
  | .voltageDroopClears _ => true

/-- The combination rules of R54, R62, R63, R66, R67, R71, R72 and R75. -/
def combination : Instr → Bool
  | .add _ _ _ => true
  | .sub _ _ _ => true
  | .carry _ _ _ => true
  | .borrow _ _ _ => true
  | .mul _ _ _ => true
  | .mulh _ _ _ => true
  | .mulhn _ _ _ => true
  | .mad _ _ _ => true
  | .and _ _ _ => true
  | .or _ _ _ => true
  | .xor _ _ _ => true
  | .andn _ _ _ => true
  | .shl _ _ _ => true
  | .shr _ _ _ => true
  | .sra _ _ _ => true
  | .rol _ _ _ => true
  | .ror _ _ _ => true
  | .min _ _ _ => true
  | .max _ _ _ => true
  | .minn _ _ _ => true
  | .maxn _ _ _ => true
  | .addd _ _ _ => true
  | .subd _ _ _ => true
  | .muld _ _ _ => true
  | .shld _ _ _ => true
  | .shrd _ _ _ => true
  | .srad _ _ _ => true
  | .bsel _ _ _ => true
  | .sel _ _ _ => true
  | .absdiff _ _ _ => true
  | .mulhsn _ _ _ => true
  | .mov _ _ => true
  | .not _ _ => true
  | .neg _ _ => true
  | .abs _ _ => true
  | .clz _ _ => true
  | .ctz _ _ => true
  | .popc _ _ => true
  | .brev _ _ => true
  | .bswap _ _ => true
  | .sextb _ _ => true
  | .sexth _ _ => true
  | .zextb _ _ => true
  | .zexth _ _ => true
  | .movd _ _ => true
  | .negd _ _ => true
  | .clzd _ _ => true
  | .popcd _ _ => true
  | .addi _ _ _ => true
  | .andi _ _ _ => true
  | .ori _ _ _ => true
  | .xori _ _ _ => true
  | .shli _ _ _ => true
  | .shri _ _ _ => true
  | .srai _ _ _ => true
  | .rori _ _ _ => true
  | .muli _ _ _ => true
  | .lui _ _ => true
  | .bfeN32 _ _ p l => p + l < 32
  | .bfeS32 _ _ p l => p + l < 32
  | .bfi _ _ p l => p + l < 32
  | .cmp c m _ _ t => cmpAllowed c m t
  | .cmpi c m _ _ => cmpiAllowed c m
  | .pelse => true
  | .pend => true
  | .pget _ => true
  | .ppush _ => true
  | .pdepth _ => true
  | .bvotea _ => true
  | .bvotey _ => true
  | .ballot _ _ => true
  | .bsync => true
  | .aadd _ _ _ => true
  | .asub _ _ _ => true
  | .ashl _ _ _ => true
  | .amuli _ _ _ => true
  | .amov _ _ => true
  | .asetb _ _ => true
  | .asets _ _ => true
  | .aget _ _ => true
  | .aaddi _ _ _ => true
  | .movi _ _ => true
  | .mfs _ s => specReadable s
  | .mts _ s => specWritable s
  | .xlgetIdx _ _ _ => true
  | .xlgetUp _ _ _ => true
  | .xlgetDn _ _ _ => true
  | .xlgetXor _ _ _ => true
  | .rdlane _ _ _ => true
  | .redadd _ _ => true
  | .redmin _ _ => true
  | .redmax _ _ => true
  | .scanadd _ _ => true
  | .cvtF32S32 _ _ r => r != 7
  | .cvtF32N32 _ _ r => r != 7
  | .cvtS32F32 _ _ r _ => r != 7
  | .cvtN32F32 _ _ r _ => r != 7
  | .cvtF64F32 _ _ => true
  | .cvtF32F64 _ _ r _ => r != 7
  | .cvtF16F32 _ _ r _ _ => r != 7
  | .cvtF32F16 _ _ _ => true
  | .cvtBf16F32 _ _ r _ _ => r != 7
  | .cvtF32Bf16 _ _ _ => true
  | .cvtE4m3F32 _ _ r _ _ => r != 7
  | .cvtE5m2F32 _ _ r _ _ => r != 7
  | .cvtF32E4m3 _ _ _ => true
  | .cvtF32E5m2 _ _ _ => true
  | .cvtE2m1F32 _ _ r _ _ => r != 7
  | .cvtF32E2m1 _ _ _ => true
  | .cvtF64S64 _ _ r => r != 7
  | .cvtS64F64 _ _ r _ => r != 7
  | .cvtF64N64 _ _ r => r != 7
  | .cvtN64F64 _ _ r _ => r != 7
  | .cvtS8S32 _ _ _ _ => true
  | .cvtN8S32 _ _ _ _ => true
  | .frnd _ _ r => r != 7
  | .frndd _ _ r => r != 7
  | .bscale _ _ => true
  | .faddF32 _ _ _ => true
  | .fsubF32 _ _ _ => true
  | .fmulF32 _ _ _ => true
  | .ffmaF32 _ _ _ => true
  | .ffmsF32 _ _ _ => true
  | .fnfmaF32 _ _ _ => true
  | .fminF32 _ _ _ => true
  | .fmaxF32 _ _ _ => true
  | .fminmF32 _ _ _ => true
  | .fmaxmF32 _ _ _ => true
  | .fabsF32 _ _ => true
  | .fnegF32 _ _ => true
  | .fsgnjF32 _ _ _ => true
  | .fclassF32 _ _ => true
  | .faddF64 _ _ _ => true
  | .fsubF64 _ _ _ => true
  | .fmulF64 _ _ _ => true
  | .ffmaF64 _ _ _ => true
  | .ffmsF64 _ _ _ => true
  | .fnfmaF64 _ _ _ => true
  | .fminF64 _ _ _ => true
  | .fmaxF64 _ _ _ => true
  | .fminmF64 _ _ _ => true
  | .fmaxmF64 _ _ _ => true
  | .fabsF64 _ _ => true
  | .fnegF64 _ _ => true
  | .fsgnjF64 _ _ _ => true
  | .fclassF64 _ _ => true
  | .f2add _ _ _ _ => true
  | .f2sub _ _ _ _ => true
  | .f2mul _ _ _ _ => true
  | .f2fma _ _ _ _ => true
  | .f2min _ _ _ _ => true
  | .f2max _ _ _ _ => true
  | .f2abs _ _ _ => true
  | .f2neg _ _ _ => true
  | .fsqrt _ _ _ _ => true
  | .frcp _ _ _ _ => true
  | .frsq _ _ _ => true
  | .fexp2 _ _ _ => true
  | .flog2 _ _ _ => true
  | .fsint _ _ _ => true
  | .fcost _ _ _ => true
  | .ftanh _ _ _ => true
  | .fdiv _ _ _ _ _ => true
  | .div _ _ _ _ _ => true
  | .rem _ _ _ _ _ => true
  | .maddm _ _ _ => true
  | .msubm _ _ _ => true
  | .mmulm _ _ _ => true
  | .mtom _ _ => true
  | .mfromm _ _ => true
  | .mulw _ _ _ => true
  | .bflyc _ _ => true
  | .bflyg _ _ => true
  | .mredb _ _ => true
  | .mneg _ _ => true
  | .ldb _ _ _ p _ => p < 6
  | .ldbs _ _ _ p _ => p < 6
  | .ldh _ _ _ p _ => p < 6
  | .ldhs _ _ _ p _ => p < 6
  | .ldw _ _ _ p _ => p < 6
  | .ldd _ _ _ p _ => p < 6
  | .ldq _ _ _ p _ => p < 6
  | .stb _ _ _ p => p < 6
  | .sth _ _ _ p => p < 6
  | .stw _ _ _ p => p < 6
  | .std _ _ _ p => p < 6
  | .stq _ _ _ p => p < 6
  | .atadd d a _ l _ => (d != a || l == 0)
  | .atfadd d a _ l _ => (d != a || l == 0)
  | .atmin d a _ l _ => (d != a || l == 0)
  | .atmax d a _ l _ => (d != a || l == 0)
  | .atminn d a _ l _ => (d != a || l == 0)
  | .atmaxn d a _ l _ => (d != a || l == 0)
  | .atand d a _ l _ => (d != a || l == 0)
  | .ator d a _ l _ => (d != a || l == 0)
  | .atxor d a _ l _ => (d != a || l == 0)
  | .atxch d a _ l _ => (d != a || l == 0)
  | .atcas d a _ l _ => (d != a || l == 0)
  | .feldw _ _ _ _ => true
  | .feldwTry _ _ _ => true
  | .feldc _ _ _ _ => true
  | .feldcTry _ _ _ => true
  | .festf _ _ _ => true
  | .festfTry _ _ _ => true
  | .fests _ _ _ => true
  | .feqry _ _ => true
  | .feset _ _ => true
  | .feclr _ _ => true
  | .br k _ _ => k != 3
  | .call k _ _ => k != 3
  | .jr k _ _ => k != 3
  | .mma _ _ => true
  | .mloop _ _ => true
  | .mspa _ _ _ => true
  | .mmaq _ _ => true
  | .mloopq _ _ => true
  | .wbld _ _ => true
  | .mzero _ => true
  | .tld _ _ => true
  | .tst _ _ => true
  | .copy _ _ => true
  | .gather _ _ => true
  | .scatter _ _ => true
  | .put _ _ => true
  | .get _ _ => true
  | .tsum _ _ => true
  | .tchk _ _ => true
  | .tfix _ _ => true
  | .fence k s => k < 4 && s < 6
  | .setscope s => s < 6
  | .bar s i => barAllowed s i
  | .waitc _ _ => true
  | .arrive _ _ => true
  | .expect _ _ => true
  | .bwait _ _ => true
  | .bwaitt _ _ _ => true
  | .mwatch _ => true
  | .mwait _ _ => true
  | .sleep _ => true
  | .yield => true
  | .region => true
  | .qpush _ _ => true
  | .qpop _ _ => true
  | .qtrypush _ _ => true
  | .qtrypop _ _ => true
  | .acqr => true
  | .relr => true
  | .spawn _ _ => true
  | .exit => true
  | .ret => true
  | .ralloc _ => true
  | .rfree _ => true
  | .wbase _ => true
  | .view _ _ => true
  | .binflush => true
  | .trap _ _ => true
  | .tret => true
  | .svc _ _ => true
  | .brk _ _ => true
  | .nop => true
  | .rdcyc _ => true
  | .rngseed _ => true
  | .fePresent _ => true
  | .convergenceRound _ _ => true
  | .longLatencyResult _ _ => true
  | .activeSetExchange _ _ => true
  | .pendingBundleTimeout _ _ => true
  | .yieldEnd _ => true
  | .sleepExpire _ => true
  | .monitorDisplacement _ => true
  | .mwaitLimitExpire _ => true
  | .bwaittLimitExpire _ => true
  | .binwaitExpire _ _ => true
  | .binLaunch _ => true
  | .rallocGrant _ _ => true
  | .rfreeRelease _ _ => true
  | .engineCommandStart _ => true
  | .engineUnitComplete _ => true
  | .engineCommandComplete _ => true
  | .engineFault _ => true
  | .engineCommandResume _ => true
  | .shadowIssue _ _ _ => true
  | .l1Eviction _ _ _ => true
  | .groyneWindowRefill _ => true
  | .groyneServe _ _ => true
  | .notify _ _ _ _ => true
  | .queueEnable _ _ _ _ => true
  | .queueDisable _ _ _ _ => true
  | .qerrClear _ _ _ _ => true
  | .registerWrite _ _ _ => true
  | .packetPoll _ _ => true
  | .packetAccept _ _ => true
  | .dsigPoll _ _ => true
  | .kernelPacket _ _ => true
  | .copyPacket _ _ => true
  | .waitPacket _ _ => true
  | .setPacket _ _ => true
  | .gangPlacement _ _ => true
  | .kernelCompletion _ => true
  | .turnEnd _ => true
  | .idleTurnEnd _ => true
  | .turnStart _ => true
  | .blockResume _ => true
  | .crnotify _ _ _ => true
  | .callRingEnable _ _ _ => true
  | .faultQueueEnable _ _ _ => true
  | .fqheadWrite _ _ _ => true
  | .servicePeriod => true
  | .createVd _ => true
  | .destroyVd _ => true
  | .resetVd _ => true
  | .setWeight _ => true
  | .setMeter _ => true
  | .setIrq _ => true
  | .setPart _ => true
  | .moveBlock _ => true
  | .blockAck _ => true
  | .moveDeadlineExpire _ => true
  | .query _ => true
  | .setRank _ => true
  | .setRoot _ => true
  | .tlbInval _ => true
  | .pfResolve _ => true
  | .poolAdd _ => true
  | .setBacking _ => true
  | .setAperture _ => true
  | .setShared _ => true
  | .queryScrub _ => true
  | .pageIn _ _ => true
  | .invalidation _ _ _ _ => true
  | .hostRead _ _ _ _ => true
  | .hostWrite _ _ _ _ => true
  | .hostFetchadd _ _ _ _ _ => true
  | .hostSwap _ _ _ _ _ => true
  | .hostCas _ _ _ _ _ _ => true
  | .cxlMemAccess _ _ _ _ _ => true
  | .hostCompletion _ _ => true
  | .completionTimeout _ => true
  | .atsTranslationCompletion _ _ => true
  | .atsInvalidationRequest _ _ _ _ => true
  | .functionLevelReset _ => true
  | .linkDown _ => true
  | .keyProg _ => true
  | .kSetGo _ _ => true
  | .kSetStop _ _ => true
  | .linkKm _ _ => true
  | .lockInterfaceRequest _ => true
  | .startInterfaceRequest _ _ => true
  | .stopInterfaceRequest _ => true
  | .getDeviceInterfaceState _ => true
  | .getVersion _ _ => true
  | .getCapabilities _ _ => true
  | .negotiateAlgorithms _ _ => true
  | .getDigests _ _ => true
  | .getCertificate _ _ => true
  | .challenge _ _ => true
  | .getMeasurements _ _ => true
  | .keyExchange _ _ => true
  | .finish _ _ => true
  | .endSession _ _ => true
  | .flitPutData _ => true
  | .flitPutAck _ => true
  | .flitGetRequest _ => true
  | .flitGetData _ => true
  | .flitBarrierArrival _ => true
  | .flitBarrierOpen _ => true
  | .flitError _ => true
  | .flitReplay _ => true
  | .fabricResponseTimeout _ => true
  | .scrubJobStart _ => true
  | .scrubUnit _ => true
  | .scrubJobEnd _ => true
  | .harbourWarmRestart => true
  | .coldReset _ => true
  | .backwashSweep _ _ => true
  | .arrayEccTargetWrite _ _ => true
  | .engineKill _ _ _ => true
  | .engineSlack _ => true
  | .engineGo _ => true
  | .engineFenceTimeout _ => true
  | .monitorUpdate _ _ _ => true
  | .clockStepDown _ => true
  | .clockStepUp _ => true
  | .voltageDroop _ => true
  | .thermalShutdown => true
  | .illegalWord _ => true
  | .linkUp _ => true
  | .voltageDroopClears _ => true

/-- Pairs and quads are aligned (R29). -/
def aligned (i : Instr) : Bool := i.regs.all fun r => r.1 % r.2 == 0

/-- Rows of the opcode table that are instruction words; the others are the part's other steps. -/
def isWord : Instr → Bool
  | .add _ _ _ => true
  | .sub _ _ _ => true
  | .carry _ _ _ => true
  | .borrow _ _ _ => true
  | .mul _ _ _ => true
  | .mulh _ _ _ => true
  | .mulhn _ _ _ => true
  | .mad _ _ _ => true
  | .and _ _ _ => true
  | .or _ _ _ => true
  | .xor _ _ _ => true
  | .andn _ _ _ => true
  | .shl _ _ _ => true
  | .shr _ _ _ => true
  | .sra _ _ _ => true
  | .rol _ _ _ => true
  | .ror _ _ _ => true
  | .min _ _ _ => true
  | .max _ _ _ => true
  | .minn _ _ _ => true
  | .maxn _ _ _ => true
  | .addd _ _ _ => true
  | .subd _ _ _ => true
  | .muld _ _ _ => true
  | .shld _ _ _ => true
  | .shrd _ _ _ => true
  | .srad _ _ _ => true
  | .bsel _ _ _ => true
  | .sel _ _ _ => true
  | .absdiff _ _ _ => true
  | .mulhsn _ _ _ => true
  | .mov _ _ => true
  | .not _ _ => true
  | .neg _ _ => true
  | .abs _ _ => true
  | .clz _ _ => true
  | .ctz _ _ => true
  | .popc _ _ => true
  | .brev _ _ => true
  | .bswap _ _ => true
  | .sextb _ _ => true
  | .sexth _ _ => true
  | .zextb _ _ => true
  | .zexth _ _ => true
  | .movd _ _ => true
  | .negd _ _ => true
  | .clzd _ _ => true
  | .popcd _ _ => true
  | .addi _ _ _ => true
  | .andi _ _ _ => true
  | .ori _ _ _ => true
  | .xori _ _ _ => true
  | .shli _ _ _ => true
  | .shri _ _ _ => true
  | .srai _ _ _ => true
  | .rori _ _ _ => true
  | .muli _ _ _ => true
  | .lui _ _ => true
  | .bfeN32 _ _ _ _ => true
  | .bfeS32 _ _ _ _ => true
  | .bfi _ _ _ _ => true
  | .cmp _ _ _ _ _ => true
  | .cmpi _ _ _ _ => true
  | .pelse => true
  | .pend => true
  | .pget _ => true
  | .ppush _ => true
  | .pdepth _ => true
  | .bvotea _ => true
  | .bvotey _ => true
  | .ballot _ _ => true
  | .bsync => true
  | .aadd _ _ _ => true
  | .asub _ _ _ => true
  | .ashl _ _ _ => true
  | .amuli _ _ _ => true
  | .amov _ _ => true
  | .asetb _ _ => true
  | .asets _ _ => true
  | .aget _ _ => true
  | .aaddi _ _ _ => true
  | .movi _ _ => true
  | .mfs _ _ => true
  | .mts _ _ => true
  | .xlgetIdx _ _ _ => true
  | .xlgetUp _ _ _ => true
  | .xlgetDn _ _ _ => true
  | .xlgetXor _ _ _ => true
  | .rdlane _ _ _ => true
  | .redadd _ _ => true
  | .redmin _ _ => true
  | .redmax _ _ => true
  | .scanadd _ _ => true
  | .cvtF32S32 _ _ _ => true
  | .cvtF32N32 _ _ _ => true
  | .cvtS32F32 _ _ _ _ => true
  | .cvtN32F32 _ _ _ _ => true
  | .cvtF64F32 _ _ => true
  | .cvtF32F64 _ _ _ _ => true
  | .cvtF16F32 _ _ _ _ _ => true
  | .cvtF32F16 _ _ _ => true
  | .cvtBf16F32 _ _ _ _ _ => true
  | .cvtF32Bf16 _ _ _ => true
  | .cvtE4m3F32 _ _ _ _ _ => true
  | .cvtE5m2F32 _ _ _ _ _ => true
  | .cvtF32E4m3 _ _ _ => true
  | .cvtF32E5m2 _ _ _ => true
  | .cvtE2m1F32 _ _ _ _ _ => true
  | .cvtF32E2m1 _ _ _ => true
  | .cvtF64S64 _ _ _ => true
  | .cvtS64F64 _ _ _ _ => true
  | .cvtF64N64 _ _ _ => true
  | .cvtN64F64 _ _ _ _ => true
  | .cvtS8S32 _ _ _ _ => true
  | .cvtN8S32 _ _ _ _ => true
  | .frnd _ _ _ => true
  | .frndd _ _ _ => true
  | .bscale _ _ => true
  | .faddF32 _ _ _ => true
  | .fsubF32 _ _ _ => true
  | .fmulF32 _ _ _ => true
  | .ffmaF32 _ _ _ => true
  | .ffmsF32 _ _ _ => true
  | .fnfmaF32 _ _ _ => true
  | .fminF32 _ _ _ => true
  | .fmaxF32 _ _ _ => true
  | .fminmF32 _ _ _ => true
  | .fmaxmF32 _ _ _ => true
  | .fabsF32 _ _ => true
  | .fnegF32 _ _ => true
  | .fsgnjF32 _ _ _ => true
  | .fclassF32 _ _ => true
  | .faddF64 _ _ _ => true
  | .fsubF64 _ _ _ => true
  | .fmulF64 _ _ _ => true
  | .ffmaF64 _ _ _ => true
  | .ffmsF64 _ _ _ => true
  | .fnfmaF64 _ _ _ => true
  | .fminF64 _ _ _ => true
  | .fmaxF64 _ _ _ => true
  | .fminmF64 _ _ _ => true
  | .fmaxmF64 _ _ _ => true
  | .fabsF64 _ _ => true
  | .fnegF64 _ _ => true
  | .fsgnjF64 _ _ _ => true
  | .fclassF64 _ _ => true
  | .f2add _ _ _ _ => true
  | .f2sub _ _ _ _ => true
  | .f2mul _ _ _ _ => true
  | .f2fma _ _ _ _ => true
  | .f2min _ _ _ _ => true
  | .f2max _ _ _ _ => true
  | .f2abs _ _ _ => true
  | .f2neg _ _ _ => true
  | .fsqrt _ _ _ _ => true
  | .frcp _ _ _ _ => true
  | .frsq _ _ _ => true
  | .fexp2 _ _ _ => true
  | .flog2 _ _ _ => true
  | .fsint _ _ _ => true
  | .fcost _ _ _ => true
  | .ftanh _ _ _ => true
  | .fdiv _ _ _ _ _ => true
  | .div _ _ _ _ _ => true
  | .rem _ _ _ _ _ => true
  | .maddm _ _ _ => true
  | .msubm _ _ _ => true
  | .mmulm _ _ _ => true
  | .mtom _ _ => true
  | .mfromm _ _ => true
  | .mulw _ _ _ => true
  | .bflyc _ _ => true
  | .bflyg _ _ => true
  | .mredb _ _ => true
  | .mneg _ _ => true
  | .ldb _ _ _ _ _ => true
  | .ldbs _ _ _ _ _ => true
  | .ldh _ _ _ _ _ => true
  | .ldhs _ _ _ _ _ => true
  | .ldw _ _ _ _ _ => true
  | .ldd _ _ _ _ _ => true
  | .ldq _ _ _ _ _ => true
  | .stb _ _ _ _ => true
  | .sth _ _ _ _ => true
  | .stw _ _ _ _ => true
  | .std _ _ _ _ => true
  | .stq _ _ _ _ => true
  | .atadd _ _ _ _ _ => true
  | .atfadd _ _ _ _ _ => true
  | .atmin _ _ _ _ _ => true
  | .atmax _ _ _ _ _ => true
  | .atminn _ _ _ _ _ => true
  | .atmaxn _ _ _ _ _ => true
  | .atand _ _ _ _ _ => true
  | .ator _ _ _ _ _ => true
  | .atxor _ _ _ _ _ => true
  | .atxch _ _ _ _ _ => true
  | .atcas _ _ _ _ _ => true
  | .feldw _ _ _ _ => true
  | .feldwTry _ _ _ => true
  | .feldc _ _ _ _ => true
  | .feldcTry _ _ _ => true
  | .festf _ _ _ => true
  | .festfTry _ _ _ => true
  | .fests _ _ _ => true
  | .feqry _ _ => true
  | .feset _ _ => true
  | .feclr _ _ => true
  | .br _ _ _ => true
  | .call _ _ _ => true
  | .jr _ _ _ => true
  | .mma _ _ => true
  | .mloop _ _ => true
  | .mspa _ _ _ => true
  | .mmaq _ _ => true
  | .mloopq _ _ => true
  | .wbld _ _ => true
  | .mzero _ => true
  | .tld _ _ => true
  | .tst _ _ => true
  | .copy _ _ => true
  | .gather _ _ => true
  | .scatter _ _ => true
  | .put _ _ => true
  | .get _ _ => true
  | .tsum _ _ => true
  | .tchk _ _ => true
  | .tfix _ _ => true
  | .fence _ _ => true
  | .setscope _ => true
  | .bar _ _ => true
  | .waitc _ _ => true
  | .arrive _ _ => true
  | .expect _ _ => true
  | .bwait _ _ => true
  | .bwaitt _ _ _ => true
  | .mwatch _ => true
  | .mwait _ _ => true
  | .sleep _ => true
  | .yield => true
  | .region => true
  | .qpush _ _ => true
  | .qpop _ _ => true
  | .qtrypush _ _ => true
  | .qtrypop _ _ => true
  | .acqr => true
  | .relr => true
  | .spawn _ _ => true
  | .exit => true
  | .ret => true
  | .ralloc _ => true
  | .rfree _ => true
  | .wbase _ => true
  | .view _ _ => true
  | .binflush => true
  | .trap _ _ => true
  | .tret => true
  | .svc _ _ => true
  | .brk _ _ => true
  | .nop => true
  | .rdcyc _ => true
  | .rngseed _ => true
  | .fePresent _ => false
  | .convergenceRound _ _ => false
  | .longLatencyResult _ _ => false
  | .activeSetExchange _ _ => false
  | .pendingBundleTimeout _ _ => false
  | .yieldEnd _ => false
  | .sleepExpire _ => false
  | .monitorDisplacement _ => false
  | .mwaitLimitExpire _ => false
  | .bwaittLimitExpire _ => false
  | .binwaitExpire _ _ => false
  | .binLaunch _ => false
  | .rallocGrant _ _ => false
  | .rfreeRelease _ _ => false
  | .engineCommandStart _ => false
  | .engineUnitComplete _ => false
  | .engineCommandComplete _ => false
  | .engineFault _ => false
  | .engineCommandResume _ => false
  | .shadowIssue _ _ _ => false
  | .l1Eviction _ _ _ => false
  | .groyneWindowRefill _ => false
  | .groyneServe _ _ => false
  | .notify _ _ _ _ => false
  | .queueEnable _ _ _ _ => false
  | .queueDisable _ _ _ _ => false
  | .qerrClear _ _ _ _ => false
  | .registerWrite _ _ _ => false
  | .packetPoll _ _ => false
  | .packetAccept _ _ => false
  | .dsigPoll _ _ => false
  | .kernelPacket _ _ => false
  | .copyPacket _ _ => false
  | .waitPacket _ _ => false
  | .setPacket _ _ => false
  | .gangPlacement _ _ => false
  | .kernelCompletion _ => false
  | .turnEnd _ => false
  | .idleTurnEnd _ => false
  | .turnStart _ => false
  | .blockResume _ => false
  | .crnotify _ _ _ => false
  | .callRingEnable _ _ _ => false
  | .faultQueueEnable _ _ _ => false
  | .fqheadWrite _ _ _ => false
  | .servicePeriod => false
  | .createVd _ => false
  | .destroyVd _ => false
  | .resetVd _ => false
  | .setWeight _ => false
  | .setMeter _ => false
  | .setIrq _ => false
  | .setPart _ => false
  | .moveBlock _ => false
  | .blockAck _ => false
  | .moveDeadlineExpire _ => false
  | .query _ => false
  | .setRank _ => false
  | .setRoot _ => false
  | .tlbInval _ => false
  | .pfResolve _ => false
  | .poolAdd _ => false
  | .setBacking _ => false
  | .setAperture _ => false
  | .setShared _ => false
  | .queryScrub _ => false
  | .pageIn _ _ => false
  | .invalidation _ _ _ _ => false
  | .hostRead _ _ _ _ => false
  | .hostWrite _ _ _ _ => false
  | .hostFetchadd _ _ _ _ _ => false
  | .hostSwap _ _ _ _ _ => false
  | .hostCas _ _ _ _ _ _ => false
  | .cxlMemAccess _ _ _ _ _ => false
  | .hostCompletion _ _ => false
  | .completionTimeout _ => false
  | .atsTranslationCompletion _ _ => false
  | .atsInvalidationRequest _ _ _ _ => false
  | .functionLevelReset _ => false
  | .linkDown _ => false
  | .keyProg _ => false
  | .kSetGo _ _ => false
  | .kSetStop _ _ => false
  | .linkKm _ _ => false
  | .lockInterfaceRequest _ => false
  | .startInterfaceRequest _ _ => false
  | .stopInterfaceRequest _ => false
  | .getDeviceInterfaceState _ => false
  | .getVersion _ _ => false
  | .getCapabilities _ _ => false
  | .negotiateAlgorithms _ _ => false
  | .getDigests _ _ => false
  | .getCertificate _ _ => false
  | .challenge _ _ => false
  | .getMeasurements _ _ => false
  | .keyExchange _ _ => false
  | .finish _ _ => false
  | .endSession _ _ => false
  | .flitPutData _ => false
  | .flitPutAck _ => false
  | .flitGetRequest _ => false
  | .flitGetData _ => false
  | .flitBarrierArrival _ => false
  | .flitBarrierOpen _ => false
  | .flitError _ => false
  | .flitReplay _ => false
  | .fabricResponseTimeout _ => false
  | .scrubJobStart _ => false
  | .scrubUnit _ => false
  | .scrubJobEnd _ => false
  | .harbourWarmRestart => false
  | .coldReset _ => false
  | .backwashSweep _ _ => false
  | .arrayEccTargetWrite _ _ => false
  | .engineKill _ _ _ => false
  | .engineSlack _ => false
  | .engineGo _ => false
  | .engineFenceTimeout _ => false
  | .monitorUpdate _ _ _ => false
  | .clockStepDown _ => false
  | .clockStepUp _ => false
  | .voltageDroop _ => false
  | .thermalShutdown => false
  | .illegalWord _ => false
  | .linkUp _ => false
  | .voltageDroopClears _ => false

/-- An instruction that a word can encode (R77). -/
def wellFormed (i : Instr) : Bool := i.inRange && i.combination && i.aligned

end Instr

end Sys2Proof
end

