-- ==== Sys2Proof/Decode.lean ====
section
/-! DEFINITION. Decoding and encoding of instruction words (R49 to R77): the map from fixed bits to a row of the
opcode table, the checks of R77, and the encoder written from the same tables.

The functions that BUILD an instruction are marked noncomputable for one reason only: Lean's compiler has no
runtime tag for a constructor beyond the 244th that carries fields, and the opcode table has 388 rows. They are
plain total functions, and Lean's kernel evaluates them. -/

namespace Sys2Proof

/-- Major opcode 0x01. -/
noncomputable def parse01 (w : Nat) : Option Instr :=
  if bitsOf w 4 0 = 0 then some (.add (bitsOf w 25 19) (bitsOf w 18 12) (bitsOf w 11 5))
  else if bitsOf w 4 0 = 1 then some (.sub (bitsOf w 25 19) (bitsOf w 18 12) (bitsOf w 11 5))
  else if bitsOf w 4 0 = 2 then some (.carry (bitsOf w 25 19) (bitsOf w 18 12) (bitsOf w 11 5))
  else if bitsOf w 4 0 = 3 then some (.borrow (bitsOf w 25 19) (bitsOf w 18 12) (bitsOf w 11 5))
  else if bitsOf w 4 0 = 4 then some (.mul (bitsOf w 25 19) (bitsOf w 18 12) (bitsOf w 11 5))
  else if bitsOf w 4 0 = 5 then some (.mulh (bitsOf w 25 19) (bitsOf w 18 12) (bitsOf w 11 5))
  else if bitsOf w 4 0 = 6 then some (.mulhn (bitsOf w 25 19) (bitsOf w 18 12) (bitsOf w 11 5))
  else if bitsOf w 4 0 = 7 then some (.mad (bitsOf w 25 19) (bitsOf w 18 12) (bitsOf w 11 5))
  else if bitsOf w 4 0 = 8 then some (.and (bitsOf w 25 19) (bitsOf w 18 12) (bitsOf w 11 5))
  else if bitsOf w 4 0 = 9 then some (.or (bitsOf w 25 19) (bitsOf w 18 12) (bitsOf w 11 5))
  else if bitsOf w 4 0 = 10 then some (.xor (bitsOf w 25 19) (bitsOf w 18 12) (bitsOf w 11 5))
  else if bitsOf w 4 0 = 11 then some (.andn (bitsOf w 25 19) (bitsOf w 18 12) (bitsOf w 11 5))
  else if bitsOf w 4 0 = 12 then some (.shl (bitsOf w 25 19) (bitsOf w 18 12) (bitsOf w 11 5))
  else if bitsOf w 4 0 = 13 then some (.shr (bitsOf w 25 19) (bitsOf w 18 12) (bitsOf w 11 5))
  else if bitsOf w 4 0 = 14 then some (.sra (bitsOf w 25 19) (bitsOf w 18 12) (bitsOf w 11 5))
  else if bitsOf w 4 0 = 15 then some (.rol (bitsOf w 25 19) (bitsOf w 18 12) (bitsOf w 11 5))
  else if bitsOf w 4 0 = 16 then some (.ror (bitsOf w 25 19) (bitsOf w 18 12) (bitsOf w 11 5))
  else if bitsOf w 4 0 = 17 then some (.min (bitsOf w 25 19) (bitsOf w 18 12) (bitsOf w 11 5))
  else if bitsOf w 4 0 = 18 then some (.max (bitsOf w 25 19) (bitsOf w 18 12) (bitsOf w 11 5))
  else if bitsOf w 4 0 = 19 then some (.minn (bitsOf w 25 19) (bitsOf w 18 12) (bitsOf w 11 5))
  else if bitsOf w 4 0 = 20 then some (.maxn (bitsOf w 25 19) (bitsOf w 18 12) (bitsOf w 11 5))
  else if bitsOf w 4 0 = 21 then some (.addd (bitsOf w 25 19) (bitsOf w 18 12) (bitsOf w 11 5))
  else if bitsOf w 4 0 = 22 then some (.subd (bitsOf w 25 19) (bitsOf w 18 12) (bitsOf w 11 5))
  else if bitsOf w 4 0 = 23 then some (.muld (bitsOf w 25 19) (bitsOf w 18 12) (bitsOf w 11 5))
  else if bitsOf w 4 0 = 24 then some (.shld (bitsOf w 25 19) (bitsOf w 18 12) (bitsOf w 11 5))
  else if bitsOf w 4 0 = 25 then some (.shrd (bitsOf w 25 19) (bitsOf w 18 12) (bitsOf w 11 5))
  else if bitsOf w 4 0 = 26 then some (.srad (bitsOf w 25 19) (bitsOf w 18 12) (bitsOf w 11 5))
  else if bitsOf w 4 0 = 27 then some (.bsel (bitsOf w 25 19) (bitsOf w 18 12) (bitsOf w 11 5))
  else if bitsOf w 4 0 = 28 then some (.sel (bitsOf w 25 19) (bitsOf w 18 12) (bitsOf w 11 5))
  else if bitsOf w 4 0 = 29 then some (.absdiff (bitsOf w 25 19) (bitsOf w 18 12) (bitsOf w 11 5))
  else if bitsOf w 4 0 = 30 then some (.mulhsn (bitsOf w 25 19) (bitsOf w 18 12) (bitsOf w 11 5))
  else none

/-- Major opcode 0x02. -/
noncomputable def parse02 (w : Nat) : Option Instr :=
  if bitsOf w 11 0 = 0 then some (.mov (bitsOf w 25 19) (bitsOf w 18 12))
  else if bitsOf w 11 0 = 1 then some (.not (bitsOf w 25 19) (bitsOf w 18 12))
  else if bitsOf w 11 0 = 2 then some (.neg (bitsOf w 25 19) (bitsOf w 18 12))
  else if bitsOf w 11 0 = 3 then some (.abs (bitsOf w 25 19) (bitsOf w 18 12))
  else if bitsOf w 11 0 = 4 then some (.clz (bitsOf w 25 19) (bitsOf w 18 12))
  else if bitsOf w 11 0 = 5 then some (.ctz (bitsOf w 25 19) (bitsOf w 18 12))
  else if bitsOf w 11 0 = 6 then some (.popc (bitsOf w 25 19) (bitsOf w 18 12))
  else if bitsOf w 11 0 = 7 then some (.brev (bitsOf w 25 19) (bitsOf w 18 12))
  else if bitsOf w 11 0 = 8 then some (.bswap (bitsOf w 25 19) (bitsOf w 18 12))
  else if bitsOf w 11 0 = 9 then some (.sextb (bitsOf w 25 19) (bitsOf w 18 12))
  else if bitsOf w 11 0 = 10 then some (.sexth (bitsOf w 25 19) (bitsOf w 18 12))
  else if bitsOf w 11 0 = 11 then some (.zextb (bitsOf w 25 19) (bitsOf w 18 12))
  else if bitsOf w 11 0 = 12 then some (.zexth (bitsOf w 25 19) (bitsOf w 18 12))
  else if bitsOf w 11 0 = 13 then some (.movd (bitsOf w 25 19) (bitsOf w 18 12))
  else if bitsOf w 11 0 = 14 then some (.negd (bitsOf w 25 19) (bitsOf w 18 12))
  else if bitsOf w 11 0 = 15 then some (.clzd (bitsOf w 25 19) (bitsOf w 18 12))
  else if bitsOf w 11 0 = 16 then some (.popcd (bitsOf w 25 19) (bitsOf w 18 12))
  else none

/-- Major opcode 0x03. -/
noncomputable def parse03 (w : Nat) : Option Instr :=
  some (.addi (bitsOf w 25 19) (bitsOf w 18 12) (bitsOf w 11 0))

/-- Major opcode 0x04. -/
noncomputable def parse04 (w : Nat) : Option Instr :=
  some (.andi (bitsOf w 25 19) (bitsOf w 18 12) (bitsOf w 11 0))

/-- Major opcode 0x05. -/
noncomputable def parse05 (w : Nat) : Option Instr :=
  some (.ori (bitsOf w 25 19) (bitsOf w 18 12) (bitsOf w 11 0))

/-- Major opcode 0x06. -/
noncomputable def parse06 (w : Nat) : Option Instr :=
  some (.xori (bitsOf w 25 19) (bitsOf w 18 12) (bitsOf w 11 0))

/-- Major opcode 0x07. -/
noncomputable def parse07 (w : Nat) : Option Instr :=
  if bitsOf w 11 5 = 0 then some (.shli (bitsOf w 25 19) (bitsOf w 18 12) (bitsOf w 4 0))
  else if bitsOf w 11 5 = 32 then some (.shri (bitsOf w 25 19) (bitsOf w 18 12) (bitsOf w 4 0))
  else if bitsOf w 11 5 = 64 then some (.srai (bitsOf w 25 19) (bitsOf w 18 12) (bitsOf w 4 0))
  else if bitsOf w 11 5 = 96 then some (.rori (bitsOf w 25 19) (bitsOf w 18 12) (bitsOf w 4 0))
  else none

/-- Major opcode 0x08. -/
noncomputable def parse08 (w : Nat) : Option Instr :=
  some (.muli (bitsOf w 25 19) (bitsOf w 18 12) (bitsOf w 11 0))

/-- Major opcode 0x09. -/
noncomputable def parse09 (w : Nat) : Option Instr :=
  some (.lui (bitsOf w 25 19) (bitsOf w 18 0))

/-- Major opcode 0x0A. -/
noncomputable def parse0A (w : Nat) : Option Instr :=
  if bitsOf w 11 10 = 0 then some (.bfeN32 (bitsOf w 25 19) (bitsOf w 18 12) (bitsOf w 9 5) (bitsOf w 4 0))
  else if bitsOf w 11 10 = 1 then some (.bfeS32 (bitsOf w 25 19) (bitsOf w 18 12) (bitsOf w 9 5) (bitsOf w 4 0))
  else if bitsOf w 11 10 = 2 then some (.bfi (bitsOf w 25 19) (bitsOf w 18 12) (bitsOf w 9 5) (bitsOf w 4 0))
  else none

/-- Major opcode 0x0B. -/
noncomputable def parse0B (w : Nat) : Option Instr :=
  some (.cmp (bitsOf w 25 22) (bitsOf w 21 19) (bitsOf w 18 12) (bitsOf w 11 5) (bitsOf w 4 0))

/-- Major opcode 0x0C. -/
noncomputable def parse0C (w : Nat) : Option Instr :=
  some (.cmpi (bitsOf w 25 22) (bitsOf w 21 19) (bitsOf w 18 12) (bitsOf w 11 0))

/-- Major opcode 0x0D. -/
noncomputable def parse0D (w : Nat) : Option Instr :=
  if bitsOf w 25 0 = 0 then some (.pelse)
  else if bitsOf w 25 0 = 1 then some (.pend)
  else if bitsOf w 18 0 = 2 then some (.pget (bitsOf w 25 19))
  else if bitsOf w 25 19 = 0 ∧ bitsOf w 11 0 = 3 then some (.ppush (bitsOf w 18 12))
  else if bitsOf w 18 0 = 4 then some (.pdepth (bitsOf w 25 19))
  else if bitsOf w 25 19 = 0 ∧ bitsOf w 11 0 = 5 then some (.bvotea (bitsOf w 18 12))
  else if bitsOf w 25 19 = 0 ∧ bitsOf w 11 0 = 6 then some (.bvotey (bitsOf w 18 12))
  else if bitsOf w 11 0 = 7 then some (.ballot (bitsOf w 25 19) (bitsOf w 18 12))
  else if bitsOf w 25 0 = 8 then some (.bsync)
  else none

/-- Major opcode 0x0E. -/
noncomputable def parse0E (w : Nat) : Option Instr :=
  if bitsOf w 25 22 = 0 ∧ bitsOf w 9 0 = 0 then some (.aadd (bitsOf w 21 18) (bitsOf w 17 14) (bitsOf w 13 10))
  else if bitsOf w 25 22 = 1 ∧ bitsOf w 9 0 = 0 then some (.asub (bitsOf w 21 18) (bitsOf w 17 14) (bitsOf w 13 10))
  else if bitsOf w 25 22 = 2 ∧ bitsOf w 13 6 = 0 then some (.ashl (bitsOf w 21 18) (bitsOf w 17 14) (bitsOf w 5 0))
  else if bitsOf w 25 22 = 3 ∧ bitsOf w 13 10 = 0 then some (.amuli (bitsOf w 21 18) (bitsOf w 17 14) (bitsOf w 9 0))
  else if bitsOf w 25 22 = 4 ∧ bitsOf w 13 0 = 0 then some (.amov (bitsOf w 21 18) (bitsOf w 17 14))
  else if bitsOf w 25 22 = 5 ∧ bitsOf w 17 7 = 0 then some (.asetb (bitsOf w 21 18) (bitsOf w 6 0))
  else if bitsOf w 25 22 = 6 ∧ bitsOf w 17 7 = 0 then some (.asets (bitsOf w 21 18) (bitsOf w 6 0))
  else if bitsOf w 25 18 = 112 ∧ bitsOf w 13 7 = 0 then some (.aget (bitsOf w 17 14) (bitsOf w 6 0))
  else if bitsOf w 25 22 = 8 ∧ bitsOf w 13 10 = 0 then some (.aaddi (bitsOf w 21 18) (bitsOf w 17 14) (bitsOf w 9 0))
  else none

/-- Major opcode 0x0F. -/
noncomputable def parse0F (w : Nat) : Option Instr :=
  some (.movi (bitsOf w 25 19) (bitsOf w 18 0))

/-- Major opcode 0x10. -/
noncomputable def parse10 (w : Nat) : Option Instr :=
  if bitsOf w 18 11 = 0 then some (.mfs (bitsOf w 25 19) (bitsOf w 10 0))
  else if bitsOf w 25 19 = 0 ∧ bitsOf w 11 11 = 1 then some (.mts (bitsOf w 18 12) (bitsOf w 10 0))
  else none

/-- Major opcode 0x11. -/
noncomputable def parse11 (w : Nat) : Option Instr :=
  if bitsOf w 4 0 = 0 then some (.xlgetIdx (bitsOf w 25 19) (bitsOf w 18 12) (bitsOf w 11 5))
  else if bitsOf w 4 0 = 1 then some (.xlgetUp (bitsOf w 25 19) (bitsOf w 18 12) (bitsOf w 11 5))
  else if bitsOf w 4 0 = 2 then some (.xlgetDn (bitsOf w 25 19) (bitsOf w 18 12) (bitsOf w 11 5))
  else if bitsOf w 4 0 = 3 then some (.xlgetXor (bitsOf w 25 19) (bitsOf w 18 12) (bitsOf w 11 5))
  else if bitsOf w 4 0 = 4 then some (.rdlane (bitsOf w 25 19) (bitsOf w 18 12) (bitsOf w 11 5))
  else if bitsOf w 11 0 = 5 then some (.redadd (bitsOf w 25 19) (bitsOf w 18 12))
  else if bitsOf w 11 0 = 6 then some (.redmin (bitsOf w 25 19) (bitsOf w 18 12))
  else if bitsOf w 11 0 = 7 then some (.redmax (bitsOf w 25 19) (bitsOf w 18 12))
  else if bitsOf w 11 0 = 8 then some (.scanadd (bitsOf w 25 19) (bitsOf w 18 12))
  else none

/-- Major opcode 0x12. -/
noncomputable def parse12 (w : Nat) : Option Instr :=
  if bitsOf w 8 0 = 0 then some (.cvtF32S32 (bitsOf w 25 19) (bitsOf w 18 12) (bitsOf w 11 9))
  else if bitsOf w 8 0 = 1 then some (.cvtF32N32 (bitsOf w 25 19) (bitsOf w 18 12) (bitsOf w 11 9))
  else if bitsOf w 7 0 = 2 then some (.cvtS32F32 (bitsOf w 25 19) (bitsOf w 18 12) (bitsOf w 11 9) (bitsOf w 8 8))
  else if bitsOf w 7 0 = 3 then some (.cvtN32F32 (bitsOf w 25 19) (bitsOf w 18 12) (bitsOf w 11 9) (bitsOf w 8 8))
  else if bitsOf w 11 0 = 4 then some (.cvtF64F32 (bitsOf w 25 19) (bitsOf w 18 12))
  else if bitsOf w 7 0 = 5 then some (.cvtF32F64 (bitsOf w 25 19) (bitsOf w 18 12) (bitsOf w 11 9) (bitsOf w 8 8))
  else if bitsOf w 6 0 = 6 then some (.cvtF16F32 (bitsOf w 25 19) (bitsOf w 18 12) (bitsOf w 11 9) (bitsOf w 8 8) (bitsOf w 7 7))
  else if bitsOf w 11 8 = 0 ∧ bitsOf w 6 0 = 7 then some (.cvtF32F16 (bitsOf w 25 19) (bitsOf w 18 12) (bitsOf w 7 7))
  else if bitsOf w 6 0 = 8 then some (.cvtBf16F32 (bitsOf w 25 19) (bitsOf w 18 12) (bitsOf w 11 9) (bitsOf w 8 8) (bitsOf w 7 7))
  else if bitsOf w 11 8 = 0 ∧ bitsOf w 6 0 = 9 then some (.cvtF32Bf16 (bitsOf w 25 19) (bitsOf w 18 12) (bitsOf w 7 7))
  else if bitsOf w 6 0 = 10 then some (.cvtE4m3F32 (bitsOf w 25 19) (bitsOf w 18 12) (bitsOf w 11 9) (bitsOf w 8 8) (bitsOf w 7 7))
  else if bitsOf w 6 0 = 11 then some (.cvtE5m2F32 (bitsOf w 25 19) (bitsOf w 18 12) (bitsOf w 11 9) (bitsOf w 8 8) (bitsOf w 7 7))
  else if bitsOf w 11 8 = 0 ∧ bitsOf w 6 0 = 12 then some (.cvtF32E4m3 (bitsOf w 25 19) (bitsOf w 18 12) (bitsOf w 7 7))
  else if bitsOf w 11 8 = 0 ∧ bitsOf w 6 0 = 13 then some (.cvtF32E5m2 (bitsOf w 25 19) (bitsOf w 18 12) (bitsOf w 7 7))
  else if bitsOf w 6 0 = 14 then some (.cvtE2m1F32 (bitsOf w 25 19) (bitsOf w 18 12) (bitsOf w 11 9) (bitsOf w 8 8) (bitsOf w 7 7))
  else if bitsOf w 11 8 = 0 ∧ bitsOf w 6 0 = 15 then some (.cvtF32E2m1 (bitsOf w 25 19) (bitsOf w 18 12) (bitsOf w 7 7))
  else if bitsOf w 8 0 = 16 then some (.cvtF64S64 (bitsOf w 25 19) (bitsOf w 18 12) (bitsOf w 11 9))
  else if bitsOf w 7 0 = 17 then some (.cvtS64F64 (bitsOf w 25 19) (bitsOf w 18 12) (bitsOf w 11 9) (bitsOf w 8 8))
  else if bitsOf w 8 0 = 18 then some (.cvtF64N64 (bitsOf w 25 19) (bitsOf w 18 12) (bitsOf w 11 9))
  else if bitsOf w 7 0 = 19 then some (.cvtN64F64 (bitsOf w 25 19) (bitsOf w 18 12) (bitsOf w 11 9) (bitsOf w 8 8))
  else if bitsOf w 11 9 = 0 ∧ bitsOf w 6 0 = 20 then some (.cvtS8S32 (bitsOf w 25 19) (bitsOf w 18 12) (bitsOf w 8 8) (bitsOf w 7 7))
  else if bitsOf w 11 9 = 0 ∧ bitsOf w 6 0 = 21 then some (.cvtN8S32 (bitsOf w 25 19) (bitsOf w 18 12) (bitsOf w 8 8) (bitsOf w 7 7))
  else if bitsOf w 8 0 = 22 then some (.frnd (bitsOf w 25 19) (bitsOf w 18 12) (bitsOf w 11 9))
  else if bitsOf w 8 0 = 23 then some (.frndd (bitsOf w 25 19) (bitsOf w 18 12) (bitsOf w 11 9))
  else if bitsOf w 11 0 = 24 then some (.bscale (bitsOf w 25 19) (bitsOf w 18 12))
  else none

/-- Major opcode 0x13. -/
noncomputable def parse13 (w : Nat) : Option Instr :=
  if bitsOf w 4 0 = 0 then some (.faddF32 (bitsOf w 25 19) (bitsOf w 18 12) (bitsOf w 11 5))
  else if bitsOf w 4 0 = 1 then some (.fsubF32 (bitsOf w 25 19) (bitsOf w 18 12) (bitsOf w 11 5))
  else if bitsOf w 4 0 = 2 then some (.fmulF32 (bitsOf w 25 19) (bitsOf w 18 12) (bitsOf w 11 5))
  else if bitsOf w 4 0 = 3 then some (.ffmaF32 (bitsOf w 25 19) (bitsOf w 18 12) (bitsOf w 11 5))
  else if bitsOf w 4 0 = 4 then some (.ffmsF32 (bitsOf w 25 19) (bitsOf w 18 12) (bitsOf w 11 5))
  else if bitsOf w 4 0 = 5 then some (.fnfmaF32 (bitsOf w 25 19) (bitsOf w 18 12) (bitsOf w 11 5))
  else if bitsOf w 4 0 = 6 then some (.fminF32 (bitsOf w 25 19) (bitsOf w 18 12) (bitsOf w 11 5))
  else if bitsOf w 4 0 = 7 then some (.fmaxF32 (bitsOf w 25 19) (bitsOf w 18 12) (bitsOf w 11 5))
  else if bitsOf w 4 0 = 8 then some (.fminmF32 (bitsOf w 25 19) (bitsOf w 18 12) (bitsOf w 11 5))
  else if bitsOf w 4 0 = 9 then some (.fmaxmF32 (bitsOf w 25 19) (bitsOf w 18 12) (bitsOf w 11 5))
  else if bitsOf w 11 0 = 10 then some (.fabsF32 (bitsOf w 25 19) (bitsOf w 18 12))
  else if bitsOf w 11 0 = 11 then some (.fnegF32 (bitsOf w 25 19) (bitsOf w 18 12))
  else if bitsOf w 4 0 = 12 then some (.fsgnjF32 (bitsOf w 25 19) (bitsOf w 18 12) (bitsOf w 11 5))
  else if bitsOf w 11 0 = 13 then some (.fclassF32 (bitsOf w 25 19) (bitsOf w 18 12))
  else none

/-- Major opcode 0x14. -/
noncomputable def parse14 (w : Nat) : Option Instr :=
  if bitsOf w 4 0 = 0 then some (.faddF64 (bitsOf w 25 19) (bitsOf w 18 12) (bitsOf w 11 5))
  else if bitsOf w 4 0 = 1 then some (.fsubF64 (bitsOf w 25 19) (bitsOf w 18 12) (bitsOf w 11 5))
  else if bitsOf w 4 0 = 2 then some (.fmulF64 (bitsOf w 25 19) (bitsOf w 18 12) (bitsOf w 11 5))
  else if bitsOf w 4 0 = 3 then some (.ffmaF64 (bitsOf w 25 19) (bitsOf w 18 12) (bitsOf w 11 5))
  else if bitsOf w 4 0 = 4 then some (.ffmsF64 (bitsOf w 25 19) (bitsOf w 18 12) (bitsOf w 11 5))
  else if bitsOf w 4 0 = 5 then some (.fnfmaF64 (bitsOf w 25 19) (bitsOf w 18 12) (bitsOf w 11 5))
  else if bitsOf w 4 0 = 6 then some (.fminF64 (bitsOf w 25 19) (bitsOf w 18 12) (bitsOf w 11 5))
  else if bitsOf w 4 0 = 7 then some (.fmaxF64 (bitsOf w 25 19) (bitsOf w 18 12) (bitsOf w 11 5))
  else if bitsOf w 4 0 = 8 then some (.fminmF64 (bitsOf w 25 19) (bitsOf w 18 12) (bitsOf w 11 5))
  else if bitsOf w 4 0 = 9 then some (.fmaxmF64 (bitsOf w 25 19) (bitsOf w 18 12) (bitsOf w 11 5))
  else if bitsOf w 11 0 = 10 then some (.fabsF64 (bitsOf w 25 19) (bitsOf w 18 12))
  else if bitsOf w 11 0 = 11 then some (.fnegF64 (bitsOf w 25 19) (bitsOf w 18 12))
  else if bitsOf w 4 0 = 12 then some (.fsgnjF64 (bitsOf w 25 19) (bitsOf w 18 12) (bitsOf w 11 5))
  else if bitsOf w 11 0 = 13 then some (.fclassF64 (bitsOf w 25 19) (bitsOf w 18 12))
  else none

/-- Major opcode 0x15. -/
noncomputable def parse15 (w : Nat) : Option Instr :=
  if bitsOf w 3 0 = 0 then some (.f2add (bitsOf w 25 19) (bitsOf w 18 12) (bitsOf w 11 5) (bitsOf w 4 4))
  else if bitsOf w 3 0 = 1 then some (.f2sub (bitsOf w 25 19) (bitsOf w 18 12) (bitsOf w 11 5) (bitsOf w 4 4))
  else if bitsOf w 3 0 = 2 then some (.f2mul (bitsOf w 25 19) (bitsOf w 18 12) (bitsOf w 11 5) (bitsOf w 4 4))
  else if bitsOf w 3 0 = 3 then some (.f2fma (bitsOf w 25 19) (bitsOf w 18 12) (bitsOf w 11 5) (bitsOf w 4 4))
  else if bitsOf w 3 0 = 4 then some (.f2min (bitsOf w 25 19) (bitsOf w 18 12) (bitsOf w 11 5) (bitsOf w 4 4))
  else if bitsOf w 3 0 = 5 then some (.f2max (bitsOf w 25 19) (bitsOf w 18 12) (bitsOf w 11 5) (bitsOf w 4 4))
  else if bitsOf w 11 5 = 0 ∧ bitsOf w 3 0 = 6 then some (.f2abs (bitsOf w 25 19) (bitsOf w 18 12) (bitsOf w 4 4))
  else if bitsOf w 11 5 = 0 ∧ bitsOf w 3 0 = 7 then some (.f2neg (bitsOf w 25 19) (bitsOf w 18 12) (bitsOf w 4 4))
  else none

/-- Major opcode 0x16. -/
noncomputable def parse16 (w : Nat) : Option Instr :=
  if bitsOf w 11 5 = 0 then some (.fsqrt (bitsOf w 25 19) (bitsOf w 18 12) (bitsOf w 4 1) (bitsOf w 0 0))
  else if bitsOf w 11 5 = 1 then some (.frcp (bitsOf w 25 19) (bitsOf w 18 12) (bitsOf w 4 1) (bitsOf w 0 0))
  else if bitsOf w 11 5 = 2 ∧ bitsOf w 0 0 = 0 then some (.frsq (bitsOf w 25 19) (bitsOf w 18 12) (bitsOf w 4 1))
  else if bitsOf w 11 5 = 3 ∧ bitsOf w 0 0 = 0 then some (.fexp2 (bitsOf w 25 19) (bitsOf w 18 12) (bitsOf w 4 1))
  else if bitsOf w 11 5 = 4 ∧ bitsOf w 0 0 = 0 then some (.flog2 (bitsOf w 25 19) (bitsOf w 18 12) (bitsOf w 4 1))
  else if bitsOf w 11 5 = 5 ∧ bitsOf w 0 0 = 0 then some (.fsint (bitsOf w 25 19) (bitsOf w 18 12) (bitsOf w 4 1))
  else if bitsOf w 11 5 = 6 ∧ bitsOf w 0 0 = 0 then some (.fcost (bitsOf w 25 19) (bitsOf w 18 12) (bitsOf w 4 1))
  else if bitsOf w 11 5 = 7 ∧ bitsOf w 0 0 = 0 then some (.ftanh (bitsOf w 25 19) (bitsOf w 18 12) (bitsOf w 4 1))
  else none

/-- Major opcode 0x17. -/
noncomputable def parse17 (w : Nat) : Option Instr :=
  some (.fdiv (bitsOf w 25 19) (bitsOf w 18 12) (bitsOf w 11 5) (bitsOf w 4 1) (bitsOf w 0 0))

/-- Major opcode 0x18. -/
noncomputable def parse18 (w : Nat) : Option Instr :=
  some (.div (bitsOf w 25 19) (bitsOf w 18 12) (bitsOf w 11 5) (bitsOf w 4 1) (bitsOf w 0 0))

/-- Major opcode 0x19. -/
noncomputable def parse19 (w : Nat) : Option Instr :=
  some (.rem (bitsOf w 25 19) (bitsOf w 18 12) (bitsOf w 11 5) (bitsOf w 4 1) (bitsOf w 0 0))

/-- Major opcode 0x1A. -/
noncomputable def parse1A (w : Nat) : Option Instr :=
  if bitsOf w 4 0 = 0 then some (.maddm (bitsOf w 25 19) (bitsOf w 18 12) (bitsOf w 11 5))
  else if bitsOf w 4 0 = 1 then some (.msubm (bitsOf w 25 19) (bitsOf w 18 12) (bitsOf w 11 5))
  else if bitsOf w 4 0 = 2 then some (.mmulm (bitsOf w 25 19) (bitsOf w 18 12) (bitsOf w 11 5))
  else if bitsOf w 11 0 = 3 then some (.mtom (bitsOf w 25 19) (bitsOf w 18 12))
  else if bitsOf w 11 0 = 4 then some (.mfromm (bitsOf w 25 19) (bitsOf w 18 12))
  else if bitsOf w 4 0 = 5 then some (.mulw (bitsOf w 25 19) (bitsOf w 18 12) (bitsOf w 11 5))
  else if bitsOf w 11 0 = 6 then some (.bflyc (bitsOf w 25 19) (bitsOf w 18 12))
  else if bitsOf w 11 0 = 7 then some (.bflyg (bitsOf w 25 19) (bitsOf w 18 12))
  else if bitsOf w 11 0 = 8 then some (.mredb (bitsOf w 25 19) (bitsOf w 18 12))
  else if bitsOf w 11 0 = 9 then some (.mneg (bitsOf w 25 19) (bitsOf w 18 12))
  else none

/-- Major opcode 0x1B. -/
noncomputable def parse1B (w : Nat) : Option Instr :=
  some (.ldb (bitsOf w 25 19) (bitsOf w 18 12) (bitsOf w 11 7) (bitsOf w 6 4) (bitsOf w 3 0))

/-- Major opcode 0x1C. -/
noncomputable def parse1C (w : Nat) : Option Instr :=
  some (.ldbs (bitsOf w 25 19) (bitsOf w 18 12) (bitsOf w 11 7) (bitsOf w 6 4) (bitsOf w 3 0))

/-- Major opcode 0x1D. -/
noncomputable def parse1D (w : Nat) : Option Instr :=
  some (.ldh (bitsOf w 25 19) (bitsOf w 18 12) (bitsOf w 11 7) (bitsOf w 6 4) (bitsOf w 3 0))

/-- Major opcode 0x1E. -/
noncomputable def parse1E (w : Nat) : Option Instr :=
  some (.ldhs (bitsOf w 25 19) (bitsOf w 18 12) (bitsOf w 11 7) (bitsOf w 6 4) (bitsOf w 3 0))

/-- Major opcode 0x1F. -/
noncomputable def parse1F (w : Nat) : Option Instr :=
  some (.ldw (bitsOf w 25 19) (bitsOf w 18 12) (bitsOf w 11 7) (bitsOf w 6 4) (bitsOf w 3 0))

/-- Major opcode 0x20. -/
noncomputable def parse20 (w : Nat) : Option Instr :=
  some (.ldd (bitsOf w 25 19) (bitsOf w 18 12) (bitsOf w 11 7) (bitsOf w 6 4) (bitsOf w 3 0))

/-- Major opcode 0x21. -/
noncomputable def parse21 (w : Nat) : Option Instr :=
  some (.ldq (bitsOf w 25 19) (bitsOf w 18 12) (bitsOf w 11 7) (bitsOf w 6 4) (bitsOf w 3 0))

/-- Major opcode 0x22. -/
noncomputable def parse22 (w : Nat) : Option Instr :=
  if bitsOf w 3 0 = 0 then some (.stb (bitsOf w 25 19) (bitsOf w 18 12) (bitsOf w 11 7) (bitsOf w 6 4))
  else none

/-- Major opcode 0x23. -/
noncomputable def parse23 (w : Nat) : Option Instr :=
  if bitsOf w 3 0 = 0 then some (.sth (bitsOf w 25 19) (bitsOf w 18 12) (bitsOf w 11 7) (bitsOf w 6 4))
  else none

/-- Major opcode 0x24. -/
noncomputable def parse24 (w : Nat) : Option Instr :=
  if bitsOf w 3 0 = 0 then some (.stw (bitsOf w 25 19) (bitsOf w 18 12) (bitsOf w 11 7) (bitsOf w 6 4))
  else none

/-- Major opcode 0x25. -/
noncomputable def parse25 (w : Nat) : Option Instr :=
  if bitsOf w 3 0 = 0 then some (.std (bitsOf w 25 19) (bitsOf w 18 12) (bitsOf w 11 7) (bitsOf w 6 4))
  else none

/-- Major opcode 0x26. -/
noncomputable def parse26 (w : Nat) : Option Instr :=
  if bitsOf w 3 0 = 0 then some (.stq (bitsOf w 25 19) (bitsOf w 18 12) (bitsOf w 11 7) (bitsOf w 6 4))
  else none

/-- Major opcode 0x27. -/
noncomputable def parse27 (w : Nat) : Option Instr :=
  some (.atadd (bitsOf w 25 19) (bitsOf w 18 12) (bitsOf w 11 5) (bitsOf w 4 1) (bitsOf w 0 0))

/-- Major opcode 0x28. -/
noncomputable def parse28 (w : Nat) : Option Instr :=
  some (.atfadd (bitsOf w 25 19) (bitsOf w 18 12) (bitsOf w 11 5) (bitsOf w 4 1) (bitsOf w 0 0))

/-- Major opcode 0x29. -/
noncomputable def parse29 (w : Nat) : Option Instr :=
  some (.atmin (bitsOf w 25 19) (bitsOf w 18 12) (bitsOf w 11 5) (bitsOf w 4 1) (bitsOf w 0 0))

/-- Major opcode 0x2A. -/
noncomputable def parse2A (w : Nat) : Option Instr :=
  some (.atmax (bitsOf w 25 19) (bitsOf w 18 12) (bitsOf w 11 5) (bitsOf w 4 1) (bitsOf w 0 0))

/-- Major opcode 0x2B. -/
noncomputable def parse2B (w : Nat) : Option Instr :=
  some (.atminn (bitsOf w 25 19) (bitsOf w 18 12) (bitsOf w 11 5) (bitsOf w 4 1) (bitsOf w 0 0))

/-- Major opcode 0x2C. -/
noncomputable def parse2C (w : Nat) : Option Instr :=
  some (.atmaxn (bitsOf w 25 19) (bitsOf w 18 12) (bitsOf w 11 5) (bitsOf w 4 1) (bitsOf w 0 0))

/-- Major opcode 0x2D. -/
noncomputable def parse2D (w : Nat) : Option Instr :=
  some (.atand (bitsOf w 25 19) (bitsOf w 18 12) (bitsOf w 11 5) (bitsOf w 4 1) (bitsOf w 0 0))

/-- Major opcode 0x2E. -/
noncomputable def parse2E (w : Nat) : Option Instr :=
  some (.ator (bitsOf w 25 19) (bitsOf w 18 12) (bitsOf w 11 5) (bitsOf w 4 1) (bitsOf w 0 0))

/-- Major opcode 0x2F. -/
noncomputable def parse2F (w : Nat) : Option Instr :=
  some (.atxor (bitsOf w 25 19) (bitsOf w 18 12) (bitsOf w 11 5) (bitsOf w 4 1) (bitsOf w 0 0))

/-- Major opcode 0x30. -/
noncomputable def parse30 (w : Nat) : Option Instr :=
  some (.atxch (bitsOf w 25 19) (bitsOf w 18 12) (bitsOf w 11 5) (bitsOf w 4 1) (bitsOf w 0 0))

/-- Major opcode 0x31. -/
noncomputable def parse31 (w : Nat) : Option Instr :=
  some (.atcas (bitsOf w 25 19) (bitsOf w 18 12) (bitsOf w 11 5) (bitsOf w 4 1) (bitsOf w 0 0))

/-- Major opcode 0x32. -/
noncomputable def parse32 (w : Nat) : Option Instr :=
  if bitsOf w 6 4 = 0 then some (.feldw (bitsOf w 25 19) (bitsOf w 18 12) (bitsOf w 11 7) (bitsOf w 3 0))
  else if bitsOf w 6 0 = 64 then some (.feldwTry (bitsOf w 25 19) (bitsOf w 18 12) (bitsOf w 11 7))
  else none

/-- Major opcode 0x33. -/
noncomputable def parse33 (w : Nat) : Option Instr :=
  if bitsOf w 6 4 = 0 then some (.feldc (bitsOf w 25 19) (bitsOf w 18 12) (bitsOf w 11 7) (bitsOf w 3 0))
  else if bitsOf w 6 0 = 64 then some (.feldcTry (bitsOf w 25 19) (bitsOf w 18 12) (bitsOf w 11 7))
  else none

/-- Major opcode 0x34. -/
noncomputable def parse34 (w : Nat) : Option Instr :=
  if bitsOf w 6 0 = 0 then some (.festf (bitsOf w 25 19) (bitsOf w 18 12) (bitsOf w 11 7))
  else if bitsOf w 6 0 = 64 then some (.festfTry (bitsOf w 25 19) (bitsOf w 18 12) (bitsOf w 11 7))
  else none

/-- Major opcode 0x35. -/
noncomputable def parse35 (w : Nat) : Option Instr :=
  if bitsOf w 6 0 = 0 then some (.fests (bitsOf w 25 19) (bitsOf w 18 12) (bitsOf w 11 7))
  else none

/-- Major opcode 0x36. -/
noncomputable def parse36 (w : Nat) : Option Instr :=
  if bitsOf w 11 0 = 0 then some (.feqry (bitsOf w 25 19) (bitsOf w 18 12))
  else if bitsOf w 25 19 = 0 ∧ bitsOf w 4 0 = 1 then some (.feset (bitsOf w 18 12) (bitsOf w 11 5))
  else if bitsOf w 25 19 = 0 ∧ bitsOf w 4 0 = 2 then some (.feclr (bitsOf w 18 12) (bitsOf w 11 5))
  else none

/-- Major opcode 0x37. -/
noncomputable def parse37 (w : Nat) : Option Instr :=
  some (.br (bitsOf w 25 24) (bitsOf w 23 23) (bitsOf w 22 0))

/-- Major opcode 0x38. -/
noncomputable def parse38 (w : Nat) : Option Instr :=
  some (.call (bitsOf w 25 24) (bitsOf w 23 23) (bitsOf w 22 0))

/-- Major opcode 0x39. -/
noncomputable def parse39 (w : Nat) : Option Instr :=
  if bitsOf w 22 19 = 0 ∧ bitsOf w 11 0 = 0 then some (.jr (bitsOf w 25 24) (bitsOf w 23 23) (bitsOf w 18 12))
  else none

/-- Major opcode 0x3B. -/
noncomputable def parse3B (w : Nat) : Option Instr :=
  if bitsOf w 25 19 = 0 ∧ bitsOf w 4 0 = 0 then some (.mma (bitsOf w 18 12) (bitsOf w 11 5))
  else if bitsOf w 25 19 = 0 ∧ bitsOf w 4 0 = 1 then some (.mloop (bitsOf w 18 12) (bitsOf w 11 5))
  else if bitsOf w 4 0 = 2 then some (.mspa (bitsOf w 25 19) (bitsOf w 18 12) (bitsOf w 11 5))
  else if bitsOf w 25 19 = 0 ∧ bitsOf w 4 0 = 3 then some (.mmaq (bitsOf w 18 12) (bitsOf w 11 5))
  else if bitsOf w 25 19 = 0 ∧ bitsOf w 4 0 = 4 then some (.mloopq (bitsOf w 18 12) (bitsOf w 11 5))
  else if bitsOf w 25 19 = 0 ∧ bitsOf w 4 0 = 5 then some (.wbld (bitsOf w 18 12) (bitsOf w 11 5))
  else if bitsOf w 25 12 = 0 ∧ bitsOf w 4 0 = 6 then some (.mzero (bitsOf w 11 5))
  else if bitsOf w 25 19 = 0 ∧ bitsOf w 4 0 = 7 then some (.tld (bitsOf w 18 12) (bitsOf w 11 5))
  else if bitsOf w 25 19 = 0 ∧ bitsOf w 4 0 = 8 then some (.tst (bitsOf w 18 12) (bitsOf w 11 5))
  else if bitsOf w 25 19 = 0 ∧ bitsOf w 4 0 = 9 then some (.copy (bitsOf w 18 12) (bitsOf w 11 5))
  else if bitsOf w 25 19 = 0 ∧ bitsOf w 4 0 = 10 then some (.gather (bitsOf w 18 12) (bitsOf w 11 5))
  else if bitsOf w 25 19 = 0 ∧ bitsOf w 4 0 = 11 then some (.scatter (bitsOf w 18 12) (bitsOf w 11 5))
  else if bitsOf w 25 19 = 0 ∧ bitsOf w 4 0 = 12 then some (.put (bitsOf w 18 12) (bitsOf w 11 5))
  else if bitsOf w 25 19 = 0 ∧ bitsOf w 4 0 = 13 then some (.get (bitsOf w 18 12) (bitsOf w 11 5))
  else if bitsOf w 25 19 = 0 ∧ bitsOf w 4 0 = 16 then some (.tsum (bitsOf w 18 12) (bitsOf w 11 5))
  else if bitsOf w 25 19 = 0 ∧ bitsOf w 4 0 = 17 then some (.tchk (bitsOf w 18 12) (bitsOf w 11 5))
  else if bitsOf w 25 19 = 0 ∧ bitsOf w 4 0 = 18 then some (.tfix (bitsOf w 18 12) (bitsOf w 11 5))
  else none

/-- Major opcode 0x3C. -/
noncomputable def parse3C (w : Nat) : Option Instr :=
  if bitsOf w 25 19 = 0 ∧ bitsOf w 15 15 = 0 ∧ bitsOf w 11 0 = 0 then some (.fence (bitsOf w 18 16) (bitsOf w 14 12))
  else if bitsOf w 25 15 = 0 ∧ bitsOf w 11 0 = 1 then some (.setscope (bitsOf w 14 12))
  else if bitsOf w 25 15 = 0 ∧ bitsOf w 11 9 = 0 ∧ bitsOf w 4 0 = 2 then some (.bar (bitsOf w 14 12) (bitsOf w 8 5))
  else if bitsOf w 25 14 = 0 ∧ bitsOf w 11 11 = 0 ∧ bitsOf w 4 0 = 3 then some (.waitc (bitsOf w 13 12) (bitsOf w 10 5))
  else if bitsOf w 25 19 = 0 ∧ bitsOf w 4 0 = 4 then some (.arrive (bitsOf w 18 12) (bitsOf w 11 5))
  else if bitsOf w 25 19 = 0 ∧ bitsOf w 4 0 = 5 then some (.expect (bitsOf w 18 12) (bitsOf w 11 5))
  else if bitsOf w 11 0 = 6 then some (.bwait (bitsOf w 25 19) (bitsOf w 18 12))
  else if bitsOf w 4 0 = 7 then some (.bwaitt (bitsOf w 25 19) (bitsOf w 18 12) (bitsOf w 11 5))
  else if bitsOf w 25 19 = 0 ∧ bitsOf w 11 0 = 8 then some (.mwatch (bitsOf w 18 12))
  else if bitsOf w 18 12 = 0 ∧ bitsOf w 4 0 = 9 then some (.mwait (bitsOf w 25 19) (bitsOf w 11 5))
  else if bitsOf w 25 12 = 0 ∧ bitsOf w 4 0 = 10 then some (.sleep (bitsOf w 11 5))
  else if bitsOf w 25 0 = 11 then some (.yield)
  else if bitsOf w 25 0 = 12 then some (.region)
  else if bitsOf w 25 16 = 0 ∧ bitsOf w 4 0 = 13 then some (.qpush (bitsOf w 15 12) (bitsOf w 11 5))
  else if bitsOf w 18 16 = 0 ∧ bitsOf w 11 0 = 14 then some (.qpop (bitsOf w 25 19) (bitsOf w 15 12))
  else if bitsOf w 25 16 = 0 ∧ bitsOf w 4 0 = 15 then some (.qtrypush (bitsOf w 15 12) (bitsOf w 11 5))
  else if bitsOf w 18 16 = 0 ∧ bitsOf w 11 0 = 16 then some (.qtrypop (bitsOf w 25 19) (bitsOf w 15 12))
  else if bitsOf w 25 0 = 17 then some (.acqr)
  else if bitsOf w 25 0 = 18 then some (.relr)
  else none

/-- Major opcode 0x3D. -/
noncomputable def parse3D (w : Nat) : Option Instr :=
  if bitsOf w 25 19 = 0 ∧ bitsOf w 4 0 = 0 then some (.spawn (bitsOf w 18 12) (bitsOf w 11 5))
  else if bitsOf w 25 0 = 1 then some (.exit)
  else if bitsOf w 25 0 = 2 then some (.ret)
  else if bitsOf w 25 19 = 0 ∧ bitsOf w 11 0 = 3 then some (.ralloc (bitsOf w 18 12))
  else if bitsOf w 25 19 = 0 ∧ bitsOf w 11 0 = 4 then some (.rfree (bitsOf w 18 12))
  else if bitsOf w 25 19 = 0 ∧ bitsOf w 11 0 = 5 then some (.wbase (bitsOf w 18 12))
  else if bitsOf w 25 19 = 0 ∧ bitsOf w 11 7 = 0 ∧ bitsOf w 4 0 = 6 then some (.view (bitsOf w 18 12) (bitsOf w 6 5))
  else if bitsOf w 25 0 = 7 then some (.binflush)
  else none

/-- Major opcode 0x3E. -/
noncomputable def parse3E (w : Nat) : Option Instr :=
  if bitsOf w 25 19 = 0 ∧ bitsOf w 4 0 = 0 then some (.trap (bitsOf w 18 12) (bitsOf w 11 5))
  else if bitsOf w 25 0 = 1 then some (.tret)
  else if bitsOf w 25 19 = 0 ∧ bitsOf w 4 0 = 2 then some (.svc (bitsOf w 18 12) (bitsOf w 11 5))
  else if bitsOf w 25 19 = 0 ∧ bitsOf w 4 0 = 3 then some (.brk (bitsOf w 18 12) (bitsOf w 11 5))
  else if bitsOf w 25 0 = 4 then some (.nop)
  else if bitsOf w 18 0 = 5 then some (.rdcyc (bitsOf w 25 19))
  else if bitsOf w 25 19 = 0 ∧ bitsOf w 11 0 = 6 then some (.rngseed (bitsOf w 18 12))
  else none

/-- The instruction whose fixed bits a word matches (R60); none where no row does. -/
noncomputable def parseWord (w : Nat) : Option Instr :=
  match w / 2 ^ 26 with
  | 0x01 => parse01 w
  | 0x02 => parse02 w
  | 0x03 => parse03 w
  | 0x04 => parse04 w
  | 0x05 => parse05 w
  | 0x06 => parse06 w
  | 0x07 => parse07 w
  | 0x08 => parse08 w
  | 0x09 => parse09 w
  | 0x0A => parse0A w
  | 0x0B => parse0B w
  | 0x0C => parse0C w
  | 0x0D => parse0D w
  | 0x0E => parse0E w
  | 0x0F => parse0F w
  | 0x10 => parse10 w
  | 0x11 => parse11 w
  | 0x12 => parse12 w
  | 0x13 => parse13 w
  | 0x14 => parse14 w
  | 0x15 => parse15 w
  | 0x16 => parse16 w
  | 0x17 => parse17 w
  | 0x18 => parse18 w
  | 0x19 => parse19 w
  | 0x1A => parse1A w
  | 0x1B => parse1B w
  | 0x1C => parse1C w
  | 0x1D => parse1D w
  | 0x1E => parse1E w
  | 0x1F => parse1F w
  | 0x20 => parse20 w
  | 0x21 => parse21 w
  | 0x22 => parse22 w
  | 0x23 => parse23 w
  | 0x24 => parse24 w
  | 0x25 => parse25 w
  | 0x26 => parse26 w
  | 0x27 => parse27 w
  | 0x28 => parse28 w
  | 0x29 => parse29 w
  | 0x2A => parse2A w
  | 0x2B => parse2B w
  | 0x2C => parse2C w
  | 0x2D => parse2D w
  | 0x2E => parse2E w
  | 0x2F => parse2F w
  | 0x30 => parse30 w
  | 0x31 => parse31 w
  | 0x32 => parse32 w
  | 0x33 => parse33 w
  | 0x34 => parse34 w
  | 0x35 => parse35 w
  | 0x36 => parse36 w
  | 0x37 => parse37 w
  | 0x38 => parse38 w
  | 0x39 => parse39 w
  | 0x3B => parse3B w
  | 0x3C => parse3C w
  | 0x3D => parse3D w
  | 0x3E => parse3E w
  | _ => none

/-- Why a word is no instruction (R77). -/
inductive DecodeError where
  /-- Its major opcode or sub-opcode is not assigned, or a must-be-zero field is nonzero. -/
  | unassigned
  /-- A pair or quad field breaks R29. -/
  | misaligned
  /-- It falls under a combination rule, or names a special register that R40 rejects. -/
  | combination
  /-- Fewer than four bytes were given. -/
  | short
  deriving DecidableEq, Repr

/-- The instruction that a 32-bit word encodes, or why it encodes none (R77). -/
noncomputable def decode (w : Nat) : Except DecodeError Instr :=
  match parseWord w with
  | none => .error .unassigned
  | some i =>
    if i.combination = false ∨ i.inRange = false then .error .combination
    else if i.aligned = false then .error .misaligned
    else .ok i

/-- A word as its four bytes, the lowest address first (R49). -/
def wordBytes (w : Nat) : List Byte :=
  [BitVec.ofNat 8 w, BitVec.ofNat 8 (w / 2 ^ 8), BitVec.ofNat 8 (w / 2 ^ 16), BitVec.ofNat 8 (w / 2 ^ 24)]

/-- Four bytes as a word, the lowest address first (R49). -/
def bytesWord : List Byte → Option Nat
  | [b0, b1, b2, b3] => some (b0.toNat + b1.toNat * 2 ^ 8 + b2.toNat * 2 ^ 16 + b3.toNat * 2 ^ 24)
  | _ => none

/-- Decoding of any bytes: the instruction and the bytes after it. -/
noncomputable def decodeBytes (bs : List Byte) : Except DecodeError (Instr × List Byte) :=
  match bytesWord (bs.take 4) with
  | none => .error .short
  | some w =>
    match decode w with
    | .error e => .error e
    | .ok i => .ok (i, bs.drop 4)

/-- The host's question: the instruction read from a word numbered as the opcode table numbers it. Every Ernik
instruction is one 32-bit word (R49), laid out little-endian and given to the decoder of bytes. -/
noncomputable def decodeTableWord (nbits w : Nat) : Option Instr :=
  match decodeBytes (wordBytes (w % 2 ^ nbits)) with
  | .ok (i, _) => some i
  | .error _ => none

/-- A word of fixed bits with each field's value added at its lowest bit (R51). -/
def putFields (base : Nat) : List (Nat × Nat) → Nat
  | [] => base
  | f :: fs => putFields (base + f.1 * 2 ^ f.2) fs

/-- The word of an instruction (R51, R60 to R76). The steps that have no word answer 0, which is illegal. -/
def encode : Instr → Nat
  | .add d a b => putFields 0x04000000 [(d, 19), (a, 12), (b, 5)]
  | .sub d a b => putFields 0x04000001 [(d, 19), (a, 12), (b, 5)]
  | .carry d a b => putFields 0x04000002 [(d, 19), (a, 12), (b, 5)]
  | .borrow d a b => putFields 0x04000003 [(d, 19), (a, 12), (b, 5)]
  | .mul d a b => putFields 0x04000004 [(d, 19), (a, 12), (b, 5)]
  | .mulh d a b => putFields 0x04000005 [(d, 19), (a, 12), (b, 5)]
  | .mulhn d a b => putFields 0x04000006 [(d, 19), (a, 12), (b, 5)]
  | .mad d a b => putFields 0x04000007 [(d, 19), (a, 12), (b, 5)]
  | .and d a b => putFields 0x04000008 [(d, 19), (a, 12), (b, 5)]
  | .or d a b => putFields 0x04000009 [(d, 19), (a, 12), (b, 5)]
  | .xor d a b => putFields 0x0400000A [(d, 19), (a, 12), (b, 5)]
  | .andn d a b => putFields 0x0400000B [(d, 19), (a, 12), (b, 5)]
  | .shl d a b => putFields 0x0400000C [(d, 19), (a, 12), (b, 5)]
  | .shr d a b => putFields 0x0400000D [(d, 19), (a, 12), (b, 5)]
  | .sra d a b => putFields 0x0400000E [(d, 19), (a, 12), (b, 5)]
  | .rol d a b => putFields 0x0400000F [(d, 19), (a, 12), (b, 5)]
  | .ror d a b => putFields 0x04000010 [(d, 19), (a, 12), (b, 5)]
  | .min d a b => putFields 0x04000011 [(d, 19), (a, 12), (b, 5)]
  | .max d a b => putFields 0x04000012 [(d, 19), (a, 12), (b, 5)]
  | .minn d a b => putFields 0x04000013 [(d, 19), (a, 12), (b, 5)]
  | .maxn d a b => putFields 0x04000014 [(d, 19), (a, 12), (b, 5)]
  | .addd d a b => putFields 0x04000015 [(d, 19), (a, 12), (b, 5)]
  | .subd d a b => putFields 0x04000016 [(d, 19), (a, 12), (b, 5)]
  | .muld d a b => putFields 0x04000017 [(d, 19), (a, 12), (b, 5)]
  | .shld d a b => putFields 0x04000018 [(d, 19), (a, 12), (b, 5)]
  | .shrd d a b => putFields 0x04000019 [(d, 19), (a, 12), (b, 5)]
  | .srad d a b => putFields 0x0400001A [(d, 19), (a, 12), (b, 5)]
  | .bsel d a b => putFields 0x0400001B [(d, 19), (a, 12), (b, 5)]
  | .sel d a b => putFields 0x0400001C [(d, 19), (a, 12), (b, 5)]
  | .absdiff d a b => putFields 0x0400001D [(d, 19), (a, 12), (b, 5)]
  | .mulhsn d a b => putFields 0x0400001E [(d, 19), (a, 12), (b, 5)]
  | .mov d a => putFields 0x08000000 [(d, 19), (a, 12)]
  | .not d a => putFields 0x08000001 [(d, 19), (a, 12)]
  | .neg d a => putFields 0x08000002 [(d, 19), (a, 12)]
  | .abs d a => putFields 0x08000003 [(d, 19), (a, 12)]
  | .clz d a => putFields 0x08000004 [(d, 19), (a, 12)]
  | .ctz d a => putFields 0x08000005 [(d, 19), (a, 12)]
  | .popc d a => putFields 0x08000006 [(d, 19), (a, 12)]
  | .brev d a => putFields 0x08000007 [(d, 19), (a, 12)]
  | .bswap d a => putFields 0x08000008 [(d, 19), (a, 12)]
  | .sextb d a => putFields 0x08000009 [(d, 19), (a, 12)]
  | .sexth d a => putFields 0x0800000A [(d, 19), (a, 12)]
  | .zextb d a => putFields 0x0800000B [(d, 19), (a, 12)]
  | .zexth d a => putFields 0x0800000C [(d, 19), (a, 12)]
  | .movd d a => putFields 0x0800000D [(d, 19), (a, 12)]
  | .negd d a => putFields 0x0800000E [(d, 19), (a, 12)]
  | .clzd d a => putFields 0x0800000F [(d, 19), (a, 12)]
  | .popcd d a => putFields 0x08000010 [(d, 19), (a, 12)]
  | .addi d a i => putFields 0x0C000000 [(d, 19), (a, 12), (i, 0)]
  | .andi d a i => putFields 0x10000000 [(d, 19), (a, 12), (i, 0)]
  | .ori d a i => putFields 0x14000000 [(d, 19), (a, 12), (i, 0)]
  | .xori d a i => putFields 0x18000000 [(d, 19), (a, 12), (i, 0)]
  | .shli d a n => putFields 0x1C000000 [(d, 19), (a, 12), (n, 0)]
  | .shri d a n => putFields 0x1C000400 [(d, 19), (a, 12), (n, 0)]
  | .srai d a n => putFields 0x1C000800 [(d, 19), (a, 12), (n, 0)]
  | .rori d a n => putFields 0x1C000C00 [(d, 19), (a, 12), (n, 0)]
  | .muli d a i => putFields 0x20000000 [(d, 19), (a, 12), (i, 0)]
  | .lui d h => putFields 0x24000000 [(d, 19), (h, 0)]
  | .bfeN32 d a p l => putFields 0x28000000 [(d, 19), (a, 12), (p, 5), (l, 0)]
  | .bfeS32 d a p l => putFields 0x28000400 [(d, 19), (a, 12), (p, 5), (l, 0)]
  | .bfi d a p l => putFields 0x28000800 [(d, 19), (a, 12), (p, 5), (l, 0)]
  | .cmp c m a b t => putFields 0x2C000000 [(c, 22), (m, 19), (a, 12), (b, 5), (t, 0)]
  | .cmpi c m a i => putFields 0x30000000 [(c, 22), (m, 19), (a, 12), (i, 0)]
  | .pelse => putFields 0x34000000 []
  | .pend => putFields 0x34000001 []
  | .pget d => putFields 0x34000002 [(d, 19)]
  | .ppush a => putFields 0x34000003 [(a, 12)]
  | .pdepth d => putFields 0x34000004 [(d, 19)]
  | .bvotea a => putFields 0x34000005 [(a, 12)]
  | .bvotey a => putFields 0x34000006 [(a, 12)]
  | .ballot d a => putFields 0x34000007 [(d, 19), (a, 12)]
  | .bsync => putFields 0x34000008 []
  | .aadd d a b => putFields 0x38000000 [(d, 18), (a, 14), (b, 10)]
  | .asub d a b => putFields 0x38400000 [(d, 18), (a, 14), (b, 10)]
  | .ashl d a n => putFields 0x38800000 [(d, 18), (a, 14), (n, 0)]
  | .amuli d a i => putFields 0x38C00000 [(d, 18), (a, 14), (i, 0)]
  | .amov d a => putFields 0x39000000 [(d, 18), (a, 14)]
  | .asetb d v => putFields 0x39400000 [(d, 18), (v, 0)]
  | .asets d v => putFields 0x39800000 [(d, 18), (v, 0)]
  | .aget a v => putFields 0x39C00000 [(a, 14), (v, 0)]
  | .aaddi d a i => putFields 0x3A000000 [(d, 18), (a, 14), (i, 0)]
  | .movi d i => putFields 0x3C000000 [(d, 19), (i, 0)]
  | .mfs d s => putFields 0x40000000 [(d, 19), (s, 0)]
  | .mts a s => putFields 0x40000800 [(a, 12), (s, 0)]
  | .xlgetIdx d a b => putFields 0x44000000 [(d, 19), (a, 12), (b, 5)]
  | .xlgetUp d a b => putFields 0x44000001 [(d, 19), (a, 12), (b, 5)]
  | .xlgetDn d a b => putFields 0x44000002 [(d, 19), (a, 12), (b, 5)]
  | .xlgetXor d a b => putFields 0x44000003 [(d, 19), (a, 12), (b, 5)]
  | .rdlane d a b => putFields 0x44000004 [(d, 19), (a, 12), (b, 5)]
  | .redadd d a => putFields 0x44000005 [(d, 19), (a, 12)]
  | .redmin d a => putFields 0x44000006 [(d, 19), (a, 12)]
  | .redmax d a => putFields 0x44000007 [(d, 19), (a, 12)]
  | .scanadd d a => putFields 0x44000008 [(d, 19), (a, 12)]
  | .cvtF32S32 d a r => putFields 0x48000000 [(d, 19), (a, 12), (r, 9)]
  | .cvtF32N32 d a r => putFields 0x48000001 [(d, 19), (a, 12), (r, 9)]
  | .cvtS32F32 d a r s => putFields 0x48000002 [(d, 19), (a, 12), (r, 9), (s, 8)]
  | .cvtN32F32 d a r s => putFields 0x48000003 [(d, 19), (a, 12), (r, 9), (s, 8)]
  | .cvtF64F32 d a => putFields 0x48000004 [(d, 19), (a, 12)]
  | .cvtF32F64 d a r s => putFields 0x48000005 [(d, 19), (a, 12), (r, 9), (s, 8)]
  | .cvtF16F32 d a r s k => putFields 0x48000006 [(d, 19), (a, 12), (r, 9), (s, 8), (k, 7)]
  | .cvtF32F16 d a k => putFields 0x48000007 [(d, 19), (a, 12), (k, 7)]
  | .cvtBf16F32 d a r s k => putFields 0x48000008 [(d, 19), (a, 12), (r, 9), (s, 8), (k, 7)]
  | .cvtF32Bf16 d a k => putFields 0x48000009 [(d, 19), (a, 12), (k, 7)]
  | .cvtE4m3F32 d a r s k => putFields 0x4800000A [(d, 19), (a, 12), (r, 9), (s, 8), (k, 7)]
  | .cvtE5m2F32 d a r s k => putFields 0x4800000B [(d, 19), (a, 12), (r, 9), (s, 8), (k, 7)]
  | .cvtF32E4m3 d a k => putFields 0x4800000C [(d, 19), (a, 12), (k, 7)]
  | .cvtF32E5m2 d a k => putFields 0x4800000D [(d, 19), (a, 12), (k, 7)]
  | .cvtE2m1F32 d a r s k => putFields 0x4800000E [(d, 19), (a, 12), (r, 9), (s, 8), (k, 7)]
  | .cvtF32E2m1 d a k => putFields 0x4800000F [(d, 19), (a, 12), (k, 7)]
  | .cvtF64S64 d a r => putFields 0x48000010 [(d, 19), (a, 12), (r, 9)]
  | .cvtS64F64 d a r s => putFields 0x48000011 [(d, 19), (a, 12), (r, 9), (s, 8)]
  | .cvtF64N64 d a r => putFields 0x48000012 [(d, 19), (a, 12), (r, 9)]
  | .cvtN64F64 d a r s => putFields 0x48000013 [(d, 19), (a, 12), (r, 9), (s, 8)]
  | .cvtS8S32 d a s k => putFields 0x48000014 [(d, 19), (a, 12), (s, 8), (k, 7)]
  | .cvtN8S32 d a s k => putFields 0x48000015 [(d, 19), (a, 12), (s, 8), (k, 7)]
  | .frnd d a r => putFields 0x48000016 [(d, 19), (a, 12), (r, 9)]
  | .frndd d a r => putFields 0x48000017 [(d, 19), (a, 12), (r, 9)]
  | .bscale d a => putFields 0x48000018 [(d, 19), (a, 12)]
  | .faddF32 d a b => putFields 0x4C000000 [(d, 19), (a, 12), (b, 5)]
  | .fsubF32 d a b => putFields 0x4C000001 [(d, 19), (a, 12), (b, 5)]
  | .fmulF32 d a b => putFields 0x4C000002 [(d, 19), (a, 12), (b, 5)]
  | .ffmaF32 d a b => putFields 0x4C000003 [(d, 19), (a, 12), (b, 5)]
  | .ffmsF32 d a b => putFields 0x4C000004 [(d, 19), (a, 12), (b, 5)]
  | .fnfmaF32 d a b => putFields 0x4C000005 [(d, 19), (a, 12), (b, 5)]
  | .fminF32 d a b => putFields 0x4C000006 [(d, 19), (a, 12), (b, 5)]
  | .fmaxF32 d a b => putFields 0x4C000007 [(d, 19), (a, 12), (b, 5)]
  | .fminmF32 d a b => putFields 0x4C000008 [(d, 19), (a, 12), (b, 5)]
  | .fmaxmF32 d a b => putFields 0x4C000009 [(d, 19), (a, 12), (b, 5)]
  | .fabsF32 d a => putFields 0x4C00000A [(d, 19), (a, 12)]
  | .fnegF32 d a => putFields 0x4C00000B [(d, 19), (a, 12)]
  | .fsgnjF32 d a b => putFields 0x4C00000C [(d, 19), (a, 12), (b, 5)]
  | .fclassF32 d a => putFields 0x4C00000D [(d, 19), (a, 12)]
  | .faddF64 d a b => putFields 0x50000000 [(d, 19), (a, 12), (b, 5)]
  | .fsubF64 d a b => putFields 0x50000001 [(d, 19), (a, 12), (b, 5)]
  | .fmulF64 d a b => putFields 0x50000002 [(d, 19), (a, 12), (b, 5)]
  | .ffmaF64 d a b => putFields 0x50000003 [(d, 19), (a, 12), (b, 5)]
  | .ffmsF64 d a b => putFields 0x50000004 [(d, 19), (a, 12), (b, 5)]
  | .fnfmaF64 d a b => putFields 0x50000005 [(d, 19), (a, 12), (b, 5)]
  | .fminF64 d a b => putFields 0x50000006 [(d, 19), (a, 12), (b, 5)]
  | .fmaxF64 d a b => putFields 0x50000007 [(d, 19), (a, 12), (b, 5)]
  | .fminmF64 d a b => putFields 0x50000008 [(d, 19), (a, 12), (b, 5)]
  | .fmaxmF64 d a b => putFields 0x50000009 [(d, 19), (a, 12), (b, 5)]
  | .fabsF64 d a => putFields 0x5000000A [(d, 19), (a, 12)]
  | .fnegF64 d a => putFields 0x5000000B [(d, 19), (a, 12)]
  | .fsgnjF64 d a b => putFields 0x5000000C [(d, 19), (a, 12), (b, 5)]
  | .fclassF64 d a => putFields 0x5000000D [(d, 19), (a, 12)]
  | .f2add d a b t => putFields 0x54000000 [(d, 19), (a, 12), (b, 5), (t, 4)]
  | .f2sub d a b t => putFields 0x54000001 [(d, 19), (a, 12), (b, 5), (t, 4)]
  | .f2mul d a b t => putFields 0x54000002 [(d, 19), (a, 12), (b, 5), (t, 4)]
  | .f2fma d a b t => putFields 0x54000003 [(d, 19), (a, 12), (b, 5), (t, 4)]
  | .f2min d a b t => putFields 0x54000004 [(d, 19), (a, 12), (b, 5), (t, 4)]
  | .f2max d a b t => putFields 0x54000005 [(d, 19), (a, 12), (b, 5), (t, 4)]
  | .f2abs d a t => putFields 0x54000006 [(d, 19), (a, 12), (t, 4)]
  | .f2neg d a t => putFields 0x54000007 [(d, 19), (a, 12), (t, 4)]
  | .fsqrt d a l t => putFields 0x58000000 [(d, 19), (a, 12), (l, 1), (t, 0)]
  | .frcp d a l t => putFields 0x58000020 [(d, 19), (a, 12), (l, 1), (t, 0)]
  | .frsq d a l => putFields 0x58000040 [(d, 19), (a, 12), (l, 1)]
  | .fexp2 d a l => putFields 0x58000060 [(d, 19), (a, 12), (l, 1)]
  | .flog2 d a l => putFields 0x58000080 [(d, 19), (a, 12), (l, 1)]
  | .fsint d a l => putFields 0x580000A0 [(d, 19), (a, 12), (l, 1)]
  | .fcost d a l => putFields 0x580000C0 [(d, 19), (a, 12), (l, 1)]
  | .ftanh d a l => putFields 0x580000E0 [(d, 19), (a, 12), (l, 1)]
  | .fdiv d a b l t => putFields 0x5C000000 [(d, 19), (a, 12), (b, 5), (l, 1), (t, 0)]
  | .div d a b l t => putFields 0x60000000 [(d, 19), (a, 12), (b, 5), (l, 1), (t, 0)]
  | .rem d a b l t => putFields 0x64000000 [(d, 19), (a, 12), (b, 5), (l, 1), (t, 0)]
  | .maddm d a b => putFields 0x68000000 [(d, 19), (a, 12), (b, 5)]
  | .msubm d a b => putFields 0x68000001 [(d, 19), (a, 12), (b, 5)]
  | .mmulm d a b => putFields 0x68000002 [(d, 19), (a, 12), (b, 5)]
  | .mtom d a => putFields 0x68000003 [(d, 19), (a, 12)]
  | .mfromm d a => putFields 0x68000004 [(d, 19), (a, 12)]
  | .mulw d a b => putFields 0x68000005 [(d, 19), (a, 12), (b, 5)]
  | .bflyc d a => putFields 0x68000006 [(d, 19), (a, 12)]
  | .bflyg d a => putFields 0x68000007 [(d, 19), (a, 12)]
  | .mredb d a => putFields 0x68000008 [(d, 19), (a, 12)]
  | .mneg d a => putFields 0x68000009 [(d, 19), (a, 12)]
  | .ldb d a o p l => putFields 0x6C000000 [(d, 19), (a, 12), (o, 7), (p, 4), (l, 0)]
  | .ldbs d a o p l => putFields 0x70000000 [(d, 19), (a, 12), (o, 7), (p, 4), (l, 0)]
  | .ldh d a o p l => putFields 0x74000000 [(d, 19), (a, 12), (o, 7), (p, 4), (l, 0)]
  | .ldhs d a o p l => putFields 0x78000000 [(d, 19), (a, 12), (o, 7), (p, 4), (l, 0)]
  | .ldw d a o p l => putFields 0x7C000000 [(d, 19), (a, 12), (o, 7), (p, 4), (l, 0)]
  | .ldd d a o p l => putFields 0x80000000 [(d, 19), (a, 12), (o, 7), (p, 4), (l, 0)]
  | .ldq d a o p l => putFields 0x84000000 [(d, 19), (a, 12), (o, 7), (p, 4), (l, 0)]
  | .stb d a o p => putFields 0x88000000 [(d, 19), (a, 12), (o, 7), (p, 4)]
  | .sth d a o p => putFields 0x8C000000 [(d, 19), (a, 12), (o, 7), (p, 4)]
  | .stw d a o p => putFields 0x90000000 [(d, 19), (a, 12), (o, 7), (p, 4)]
  | .std d a o p => putFields 0x94000000 [(d, 19), (a, 12), (o, 7), (p, 4)]
  | .stq d a o p => putFields 0x98000000 [(d, 19), (a, 12), (o, 7), (p, 4)]
  | .atadd d a b l w => putFields 0x9C000000 [(d, 19), (a, 12), (b, 5), (l, 1), (w, 0)]
  | .atfadd d a b l w => putFields 0xA0000000 [(d, 19), (a, 12), (b, 5), (l, 1), (w, 0)]
  | .atmin d a b l w => putFields 0xA4000000 [(d, 19), (a, 12), (b, 5), (l, 1), (w, 0)]
  | .atmax d a b l w => putFields 0xA8000000 [(d, 19), (a, 12), (b, 5), (l, 1), (w, 0)]
  | .atminn d a b l w => putFields 0xAC000000 [(d, 19), (a, 12), (b, 5), (l, 1), (w, 0)]
  | .atmaxn d a b l w => putFields 0xB0000000 [(d, 19), (a, 12), (b, 5), (l, 1), (w, 0)]
  | .atand d a b l w => putFields 0xB4000000 [(d, 19), (a, 12), (b, 5), (l, 1), (w, 0)]
  | .ator d a b l w => putFields 0xB8000000 [(d, 19), (a, 12), (b, 5), (l, 1), (w, 0)]
  | .atxor d a b l w => putFields 0xBC000000 [(d, 19), (a, 12), (b, 5), (l, 1), (w, 0)]
  | .atxch d a b l w => putFields 0xC0000000 [(d, 19), (a, 12), (b, 5), (l, 1), (w, 0)]
  | .atcas d a b l w => putFields 0xC4000000 [(d, 19), (a, 12), (b, 5), (l, 1), (w, 0)]
  | .feldw d a o l => putFields 0xC8000000 [(d, 19), (a, 12), (o, 7), (l, 0)]
  | .feldwTry d a o => putFields 0xC8000040 [(d, 19), (a, 12), (o, 7)]
  | .feldc d a o l => putFields 0xCC000000 [(d, 19), (a, 12), (o, 7), (l, 0)]
  | .feldcTry d a o => putFields 0xCC000040 [(d, 19), (a, 12), (o, 7)]
  | .festf d a o => putFields 0xD0000000 [(d, 19), (a, 12), (o, 7)]
  | .festfTry d a o => putFields 0xD0000040 [(d, 19), (a, 12), (o, 7)]
  | .fests d a o => putFields 0xD4000000 [(d, 19), (a, 12), (o, 7)]
  | .feqry d a => putFields 0xD8000000 [(d, 19), (a, 12)]
  | .feset a b => putFields 0xD8000001 [(a, 12), (b, 5)]
  | .feclr a b => putFields 0xD8000002 [(a, 12), (b, 5)]
  | .br k p o => putFields 0xDC000000 [(k, 24), (p, 23), (o, 0)]
  | .call k p o => putFields 0xE0000000 [(k, 24), (p, 23), (o, 0)]
  | .jr k c a => putFields 0xE4000000 [(k, 24), (c, 23), (a, 12)]
  | .mma a b => putFields 0xEC000000 [(a, 12), (b, 5)]
  | .mloop a b => putFields 0xEC000001 [(a, 12), (b, 5)]
  | .mspa s a b => putFields 0xEC000002 [(s, 19), (a, 12), (b, 5)]
  | .mmaq a b => putFields 0xEC000003 [(a, 12), (b, 5)]
  | .mloopq a b => putFields 0xEC000004 [(a, 12), (b, 5)]
  | .wbld a b => putFields 0xEC000005 [(a, 12), (b, 5)]
  | .mzero b => putFields 0xEC000006 [(b, 5)]
  | .tld a b => putFields 0xEC000007 [(a, 12), (b, 5)]
  | .tst a b => putFields 0xEC000008 [(a, 12), (b, 5)]
  | .copy a b => putFields 0xEC000009 [(a, 12), (b, 5)]
  | .gather a b => putFields 0xEC00000A [(a, 12), (b, 5)]
  | .scatter a b => putFields 0xEC00000B [(a, 12), (b, 5)]
  | .put a b => putFields 0xEC00000C [(a, 12), (b, 5)]
  | .get a b => putFields 0xEC00000D [(a, 12), (b, 5)]
  | .tsum a b => putFields 0xEC000010 [(a, 12), (b, 5)]
  | .tchk a b => putFields 0xEC000011 [(a, 12), (b, 5)]
  | .tfix a b => putFields 0xEC000012 [(a, 12), (b, 5)]
  | .fence k s => putFields 0xF0000000 [(k, 16), (s, 12)]
  | .setscope s => putFields 0xF0000001 [(s, 12)]
  | .bar s i => putFields 0xF0000002 [(s, 12), (i, 5)]
  | .waitc c n => putFields 0xF0000003 [(c, 12), (n, 5)]
  | .arrive a b => putFields 0xF0000004 [(a, 12), (b, 5)]
  | .expect a b => putFields 0xF0000005 [(a, 12), (b, 5)]
  | .bwait d a => putFields 0xF0000006 [(d, 19), (a, 12)]
  | .bwaitt d a b => putFields 0xF0000007 [(d, 19), (a, 12), (b, 5)]
  | .mwatch a => putFields 0xF0000008 [(a, 12)]
  | .mwait d b => putFields 0xF0000009 [(d, 19), (b, 5)]
  | .sleep b => putFields 0xF000000A [(b, 5)]
  | .yield => putFields 0xF000000B []
  | .region => putFields 0xF000000C []
  | .qpush q b => putFields 0xF000000D [(q, 12), (b, 5)]
  | .qpop d q => putFields 0xF000000E [(d, 19), (q, 12)]
  | .qtrypush q b => putFields 0xF000000F [(q, 12), (b, 5)]
  | .qtrypop d q => putFields 0xF0000010 [(d, 19), (q, 12)]
  | .acqr => putFields 0xF0000011 []
  | .relr => putFields 0xF0000012 []
  | .spawn a b => putFields 0xF4000000 [(a, 12), (b, 5)]
  | .exit => putFields 0xF4000001 []
  | .ret => putFields 0xF4000002 []
  | .ralloc a => putFields 0xF4000003 [(a, 12)]
  | .rfree a => putFields 0xF4000004 [(a, 12)]
  | .wbase a => putFields 0xF4000005 [(a, 12)]
  | .view a s => putFields 0xF4000006 [(a, 12), (s, 5)]
  | .binflush => putFields 0xF4000007 []
  | .trap h l => putFields 0xF8000000 [(h, 12), (l, 5)]
  | .tret => putFields 0xF8000001 []
  | .svc h l => putFields 0xF8000002 [(h, 12), (l, 5)]
  | .brk h l => putFields 0xF8000003 [(h, 12), (l, 5)]
  | .nop => putFields 0xF8000004 []
  | .rdcyc d => putFields 0xF8000005 [(d, 19)]
  | .rngseed a => putFields 0xF8000006 [(a, 12)]
  | .fePresent _ => 0
  | .convergenceRound _ _ => 0
  | .longLatencyResult _ _ => 0
  | .activeSetExchange _ _ => 0
  | .pendingBundleTimeout _ _ => 0
  | .yieldEnd _ => 0
  | .sleepExpire _ => 0
  | .monitorDisplacement _ => 0
  | .mwaitLimitExpire _ => 0
  | .bwaittLimitExpire _ => 0
  | .binwaitExpire _ _ => 0
  | .binLaunch _ => 0
  | .rallocGrant _ _ => 0
  | .rfreeRelease _ _ => 0
  | .engineCommandStart _ => 0
  | .engineUnitComplete _ => 0
  | .engineCommandComplete _ => 0
  | .engineFault _ => 0
  | .engineCommandResume _ => 0
  | .shadowIssue _ _ _ => 0
  | .l1Eviction _ _ _ => 0
  | .groyneWindowRefill _ => 0
  | .groyneServe _ _ => 0
  | .notify _ _ _ _ => 0
  | .queueEnable _ _ _ _ => 0
  | .queueDisable _ _ _ _ => 0
  | .qerrClear _ _ _ _ => 0
  | .registerWrite _ _ _ => 0
  | .packetPoll _ _ => 0
  | .packetAccept _ _ => 0
  | .dsigPoll _ _ => 0
  | .kernelPacket _ _ => 0
  | .copyPacket _ _ => 0
  | .waitPacket _ _ => 0
  | .setPacket _ _ => 0
  | .gangPlacement _ _ => 0
  | .kernelCompletion _ => 0
  | .turnEnd _ => 0
  | .idleTurnEnd _ => 0
  | .turnStart _ => 0
  | .blockResume _ => 0
  | .crnotify _ _ _ => 0
  | .callRingEnable _ _ _ => 0
  | .faultQueueEnable _ _ _ => 0
  | .fqheadWrite _ _ _ => 0
  | .servicePeriod => 0
  | .createVd _ => 0
  | .destroyVd _ => 0
  | .resetVd _ => 0
  | .setWeight _ => 0
  | .setMeter _ => 0
  | .setIrq _ => 0
  | .setPart _ => 0
  | .moveBlock _ => 0
  | .blockAck _ => 0
  | .moveDeadlineExpire _ => 0
  | .query _ => 0
  | .setRank _ => 0
  | .setRoot _ => 0
  | .tlbInval _ => 0
  | .pfResolve _ => 0
  | .poolAdd _ => 0
  | .setBacking _ => 0
  | .setAperture _ => 0
  | .setShared _ => 0
  | .queryScrub _ => 0
  | .pageIn _ _ => 0
  | .invalidation _ _ _ _ => 0
  | .hostRead _ _ _ _ => 0
  | .hostWrite _ _ _ _ => 0
  | .hostFetchadd _ _ _ _ _ => 0
  | .hostSwap _ _ _ _ _ => 0
  | .hostCas _ _ _ _ _ _ => 0
  | .cxlMemAccess _ _ _ _ _ => 0
  | .hostCompletion _ _ => 0
  | .completionTimeout _ => 0
  | .atsTranslationCompletion _ _ => 0
  | .atsInvalidationRequest _ _ _ _ => 0
  | .functionLevelReset _ => 0
  | .linkDown _ => 0
  | .keyProg _ => 0
  | .kSetGo _ _ => 0
  | .kSetStop _ _ => 0
  | .linkKm _ _ => 0
  | .lockInterfaceRequest _ => 0
  | .startInterfaceRequest _ _ => 0
  | .stopInterfaceRequest _ => 0
  | .getDeviceInterfaceState _ => 0
  | .getVersion _ _ => 0
  | .getCapabilities _ _ => 0
  | .negotiateAlgorithms _ _ => 0
  | .getDigests _ _ => 0
  | .getCertificate _ _ => 0
  | .challenge _ _ => 0
  | .getMeasurements _ _ => 0
  | .keyExchange _ _ => 0
  | .finish _ _ => 0
  | .endSession _ _ => 0
  | .flitPutData _ => 0
  | .flitPutAck _ => 0
  | .flitGetRequest _ => 0
  | .flitGetData _ => 0
  | .flitBarrierArrival _ => 0
  | .flitBarrierOpen _ => 0
  | .flitError _ => 0
  | .flitReplay _ => 0
  | .fabricResponseTimeout _ => 0
  | .scrubJobStart _ => 0
  | .scrubUnit _ => 0
  | .scrubJobEnd _ => 0
  | .harbourWarmRestart => 0
  | .coldReset _ => 0
  | .backwashSweep _ _ => 0
  | .arrayEccTargetWrite _ _ => 0
  | .engineKill _ _ _ => 0
  | .engineSlack _ => 0
  | .engineGo _ => 0
  | .engineFenceTimeout _ => 0
  | .monitorUpdate _ _ _ => 0
  | .clockStepDown _ => 0
  | .clockStepUp _ => 0
  | .voltageDroop _ => 0
  | .thermalShutdown => 0
  | .illegalWord _ => 0
  | .linkUp _ => 0
  | .voltageDroopClears _ => 0

/-- A step of the part that is no instruction word, as a row of the opcode table. -/
noncomputable def Event.toInstr : Event → Instr
  | .fePresent t => .fePresent t
  | .convergenceRound blk bun => .convergenceRound blk bun
  | .longLatencyResult t k => .longLatencyResult t k
  | .activeSetExchange core sub => .activeSetExchange core sub
  | .pendingBundleTimeout core sub => .pendingBundleTimeout core sub
  | .yieldEnd t => .yieldEnd t
  | .sleepExpire t => .sleepExpire t
  | .monitorDisplacement t => .monitorDisplacement t
  | .mwaitLimitExpire t => .mwaitLimitExpire t
  | .bwaittLimitExpire t => .bwaittLimitExpire t
  | .binwaitExpire core bin => .binwaitExpire core bin
  | .binLaunch core => .binLaunch core
  | .rallocGrant core sub => .rallocGrant core sub
  | .rfreeRelease blk bun => .rfreeRelease blk bun
  | .engineCommandStart e => .engineCommandStart e
  | .engineUnitComplete cmd => .engineUnitComplete cmd
  | .engineCommandComplete cmd => .engineCommandComplete cmd
  | .engineFault cmd => .engineFault cmd
  | .engineCommandResume cmd => .engineCommandResume cmd
  | .shadowIssue core sub mismatch => .shadowIssue core sub mismatch
  | .l1Eviction c vd line => .l1Eviction c vd line
  | .groyneWindowRefill die => .groyneWindowRefill die
  | .groyneServe die slice => .groyneServe die slice
  | .notify vd q value tbit => .notify vd q value tbit
  | .queueEnable vd q value tbit => .queueEnable vd q value tbit
  | .queueDisable vd q value tbit => .queueDisable vd q value tbit
  | .qerrClear vd q value tbit => .qerrClear vd q value tbit
  | .registerWrite r value tbit => .registerWrite r value tbit
  | .packetPoll vd q => .packetPoll vd q
  | .packetAccept vd q => .packetAccept vd q
  | .dsigPoll vd q => .dsigPoll vd q
  | .kernelPacket vd q => .kernelPacket vd q
  | .copyPacket vd q => .copyPacket vd q
  | .waitPacket vd q => .waitPacket vd q
  | .setPacket vd q => .setPacket vd q
  | .gangPlacement die vd => .gangPlacement die vd
  | .kernelCompletion kernel => .kernelCompletion kernel
  | .turnEnd quad => .turnEnd quad
  | .idleTurnEnd quad => .idleTurnEnd quad
  | .turnStart quad => .turnStart quad
  | .blockResume blk => .blockResume blk
  | .crnotify ring value tbit => .crnotify ring value tbit
  | .callRingEnable ring value tbit => .callRingEnable ring value tbit
  | .faultQueueEnable ring value tbit => .faultQueueEnable ring value tbit
  | .fqheadWrite ring value tbit => .fqheadWrite ring value tbit
  | .servicePeriod => .servicePeriod
  | .createVd c => .createVd c
  | .destroyVd c => .destroyVd c
  | .resetVd c => .resetVd c
  | .setWeight c => .setWeight c
  | .setMeter c => .setMeter c
  | .setIrq c => .setIrq c
  | .setPart c => .setPart c
  | .moveBlock c => .moveBlock c
  | .blockAck c => .blockAck c
  | .moveDeadlineExpire blk => .moveDeadlineExpire blk
  | .query c => .query c
  | .setRank c => .setRank c
  | .setRoot c => .setRoot c
  | .tlbInval c => .tlbInval c
  | .pfResolve c => .pfResolve c
  | .poolAdd c => .poolAdd c
  | .setBacking c => .setBacking c
  | .setAperture c => .setAperture c
  | .setShared c => .setShared c
  | .queryScrub c => .queryScrub c
  | .pageIn vd fid => .pageIn vd fid
  | .invalidation u vd lo hi => .invalidation u vd lo hi
  | .hostRead fn off size c => .hostRead fn off size c
  | .hostWrite fn off data c => .hostWrite fn off data c
  | .hostFetchadd fn off size x c => .hostFetchadd fn off size x c
  | .hostSwap fn off size x c => .hostSwap fn off size x c
  | .hostCas fn off size cmp x c => .hostCas fn off size cmp x c
  | .cxlMemAccess ep haddr size data c => .cxlMemAccess ep haddr size data c
  | .hostCompletion tag c => .hostCompletion tag c
  | .completionTimeout tag => .completionTimeout tag
  | .atsTranslationCompletion tag haddr => .atsTranslationCompletion tag haddr
  | .atsInvalidationRequest port fn lo hi => .atsInvalidationRequest port fn lo hi
  | .functionLevelReset vfn => .functionLevelReset vfn
  | .linkDown port => .linkDown port
  | .keyProg k => .keyProg k
  | .kSetGo stream set => .kSetGo stream set
  | .kSetStop stream set => .kSetStop stream set
  | .linkKm part key => .linkKm part key
  | .lockInterfaceRequest vd => .lockInterfaceRequest vd
  | .startInterfaceRequest vd nonce => .startInterfaceRequest vd nonce
  | .stopInterfaceRequest vd => .stopInterfaceRequest vd
  | .getDeviceInterfaceState vd => .getDeviceInterfaceState vd
  | .getVersion mb msg => .getVersion mb msg
  | .getCapabilities mb msg => .getCapabilities mb msg
  | .negotiateAlgorithms mb msg => .negotiateAlgorithms mb msg
  | .getDigests mb msg => .getDigests mb msg
  | .getCertificate mb msg => .getCertificate mb msg
  | .challenge mb msg => .challenge mb msg
  | .getMeasurements mb msg => .getMeasurements mb msg
  | .keyExchange mb msg => .keyExchange mb msg
  | .finish mb msg => .finish mb msg
  | .endSession mb msg => .endSession mb msg
  | .flitPutData f => .flitPutData f
  | .flitPutAck f => .flitPutAck f
  | .flitGetRequest f => .flitGetRequest f
  | .flitGetData f => .flitGetData f
  | .flitBarrierArrival f => .flitBarrierArrival f
  | .flitBarrierOpen f => .flitBarrierOpen f
  | .flitError f => .flitError f
  | .flitReplay port => .flitReplay port
  | .fabricResponseTimeout cmd => .fabricResponseTimeout cmd
  | .scrubJobStart job => .scrubJobStart job
  | .scrubUnit job => .scrubUnit job
  | .scrubJobEnd job => .scrubJobEnd job
  | .harbourWarmRestart => .harbourWarmRestart
  | .coldReset cfg => .coldReset cfg
  | .backwashSweep a o => .backwashSweep a o
  | .arrayEccTargetWrite entry target => .arrayEccTargetWrite entry target
  | .engineKill e all vd => .engineKill e all vd
  | .engineSlack e => .engineSlack e
  | .engineGo e => .engineGo e
  | .engineFenceTimeout e => .engineFenceTimeout e
  | .monitorUpdate tempA tempB power => .monitorUpdate tempA tempB power
  | .clockStepDown die => .clockStepDown die
  | .clockStepUp die => .clockStepUp die
  | .voltageDroop die => .voltageDroop die
  | .thermalShutdown => .thermalShutdown
  | .illegalWord w => .illegalWord w
  | .linkUp port => .linkUp port
  | .voltageDroopClears die => .voltageDroopClears die

end Sys2Proof
end

