-- ==== Sys2Proof/Machine/Flags.lean ====
section
/-! DEFINITION. Number formats, the helper Round, stochastic rounding, overflow, NaN rules and the flags (R93 to R109),
as functions on bit patterns and exact values. -/

namespace Sys2Proof.Machine

/-- The floating-point formats of R93. -/
inductive Fmt where
  | f64
  | f32
  | f16
  | bf16
  | e4m3
  | e5m2
  | e2m1
  deriving DecidableEq, Repr

/-- Exponent width of a format (R93). -/
def fmtE : Fmt → Nat
  | .f64 => 11
  | .f32 => 8
  | .f16 => 5
  | .bf16 => 8
  | .e4m3 => 4
  | .e5m2 => 5
  | .e2m1 => 2

/-- Fraction width of a format (R93). -/
def fmtM : Fmt → Nat
  | .f64 => 52
  | .f32 => 23
  | .f16 => 10
  | .bf16 => 7
  | .e4m3 => 3
  | .e5m2 => 2
  | .e2m1 => 1

/-- Bias of a format (R93). -/
def fmtB : Fmt → Nat
  | .f64 => 1023
  | .f32 => 127
  | .f16 => 15
  | .bf16 => 127
  | .e4m3 => 7
  | .e5m2 => 15
  | .e2m1 => 1

/-- Width of a format in bits. -/
def fmtW (f : Fmt) : Nat := 1 + fmtE f + fmtM f

/-- Whether the format has infinities (R93). -/
def fmtInf : Fmt → Bool
  | .e4m3 => false
  | .e2m1 => false
  | _ => true

/-- The sign bit's place value. -/
def signBit (f : Fmt) : Nat := 2 ^ (fmtE f + fmtM f)

/-- The magnitude pattern of infinity, where the format has one (R94). -/
def infPattern (f : Fmt) : Nat := (2 ^ fmtE f - 1) * 2 ^ fmtM f

/-- The magnitude pattern of the largest finite value (R93). -/
def maxPattern : Fmt → Nat
  | .e4m3 => 0x7E
  | .e2m1 => 7
  | f => infPattern f - 1

/-- The canonical NaN (R108); e2m1 has none and receives +0 (R103). -/
def canonicalNan : Fmt → Nat
  | .f64 => 0x7FF8000000000000
  | .f32 => 0x7FC00000
  | .f16 => 0x7E00
  | .bf16 => 0x7FC0
  | .e4m3 => 0x7F
  | .e5m2 => 0x7E
  | .e2m1 => 0

/-- An exact value: `(-1)^s * m * 2^e` when finite, an infinity, or a NaN with its fraction of `w` bits and whether it
signals (R94). -/
inductive FVal where
  | fin (s : Bool) (m : Nat) (e : Int)
  | inf (s : Bool)
  | nan (s : Bool) (frac w : Nat) (signalling : Bool)
  deriving DecidableEq, Repr

def fvIsNan : FVal → Bool
  | .nan _ _ _ _ => true
  | _ => false

def fvSignals : FVal → Bool
  | .nan _ _ _ q => q
  | _ => false

def fvIsZero : FVal → Bool
  | .fin _ m _ => m == 0
  | _ => false

def fvNeg : FVal → FVal
  | .fin s m e => .fin (!s) m e
  | .inf s => .inf (!s)
  | .nan s f w q => .nan s f w q

def fvSign : FVal → Bool
  | .fin s _ _ => s
  | .inf s => s
  | .nan s _ _ _ => s

/-- The value of a bit pattern (R94, R95). -/
def unpack (f : Fmt) (x : Nat) : FVal :=
  let s := x / signBit f % 2 == 1
  let e := x / 2 ^ fmtM f % 2 ^ fmtE f
  let q := x % 2 ^ fmtM f
  let special := e == 2 ^ fmtE f - 1
  if e == 0 then .fin s q (1 - (fmtB f : Int) - fmtM f)
  else if special && fmtInf f && q == 0 then .inf s
  else if special && fmtInf f then
    .nan s q (fmtM f) (f != .e5m2 && q / 2 ^ (fmtM f - 1) % 2 == 0)
  else if special && f == .e4m3 && q == 7 then .nan s q 3 false
  else .fin s (2 ^ fmtM f + q) ((e : Int) - fmtB f - fmtM f)

/-! ## Flags: NV, DZ, OF, UF, NX in the order of FPCSR[8:4] (R41) -/

abbrev FFlags := BitVec 5

def flagNV : FFlags := 16
def flagDZ : FFlags := 8
def flagOF : FFlags := 4
def flagUF : FFlags := 2
def flagNX : FFlags := 1
def noFlag : FFlags := 0

/-- A result pattern with the flags it sets. -/
abbrev FRes := Nat × FFlags

/-! ## Rounding (R99 to R102, R105, R106) -/

/-- A rounding mode with the bits that SR has drawn: RM 0 RNE, 1 RTZ, 2 RUP, 3 RDN, 4 RNA, 5 SR (R99). -/
structure Mode where
  rm : Nat
  rbits : Nat := 0
  deriving DecidableEq, Repr

def modeRne : Mode := { rm := 0 }

/-- Whether the magnitude goes up to `hi`, for a remainder `rem / den` of a quantum above `lo` (R99, R100); `more` when
the exact magnitude lies a little above `rem / den`. -/
def roundsUp (md : Mode) (s : Bool) (lo rem den : Nat) (more : Bool) : Bool :=
  let exact := rem == 0 && !more
  match md.rm with
  | 0 => 2 * rem > den || (2 * rem == den && (more || lo % 2 == 1))
  | 1 => false
  | 2 => !exact && !s
  | 3 => !exact && s
  | 4 => 2 * rem >= den
  | _ => rem * 65536 / den + md.rbits >= 65536

/-- The magnitude `m * 2^e` divided by `2^q`: quotient, remainder and denominator. -/
def scaleTo (m : Nat) (e q : Int) : Nat × Nat × Nat :=
  if q ≤ e then (m * 2 ^ (e - q).toNat, 0, 1)
  else
    let d := 2 ^ (q - e).toNat
    (m / d, m % d, d)

/-- The magnitude of `(m, e)` rounded to a multiple of `2^q`, in units of `2^q`, and whether that is exact. -/
def roundAt (md : Mode) (s : Bool) (m : Nat) (e q : Int) (more : Bool) : Nat × Bool :=
  let (lo, rem, den) := scaleTo m e q
  (if roundsUp md s lo rem den more then lo + 1 else lo, rem == 0 && !more)

/-- What an overflow delivers (R102): the table of targets and modes, `sat` for a saturated target. -/
def overflowPattern (f : Fmt) (md : Mode) (s sat : Bool) : Nat :=
  let sg := if s then signBit f else 0
  let big := if f == .e4m3 then 0x7F else infPattern f
  if f == .e2m1 || sat then sg + maxPattern f
  else match md.rm with
    | 1 => sg + maxPattern f
    | 2 => if s then sg + maxPattern f else big
    | 3 => if s then sg + big else maxPattern f
    | _ => sg + big

/-- Round(x, fmt, rm) for the finite non-zero magnitude `m * 2^e`, a little more when `more` (R99 to R102, R105, R106):
the pattern and the flags. -/
def roundMag (f : Fmt) (md : Mode) (sat ftz : Bool) (s : Bool) (m : Nat) (e : Int) (more : Bool) : FRes :=
  let sg := if s then signBit f else 0
  let emin : Int := 1 - (fmtB f : Int)
  let top : Int := e + (Nat.log2 m : Int)
  let qmin : Int := emin - fmtM f
  let q : Int := if top < emin then qmin else top - fmtM f
  let (y, exact) := roundAt md s m e q more
  let (yu, _) := roundAt md s m e (top - fmtM f) more
  let tiny := top < emin && yu < 2 ^ (fmtM f + 1) * 2 ^ (emin - 1 - top).toNat
  if tiny && ftz then (sg, flagUF ||| flagNX)
  else
    let pat := y + (q - qmin).toNat * 2 ^ fmtM f
    if pat > maxPattern f then (overflowPattern f md s sat, flagOF ||| flagNX)
    else (sg + pat, (if tiny && !exact then flagUF else noFlag) ||| (if exact then noFlag else flagNX))

/-- Round of an exact value, zeros keeping their sign (R99). -/
def roundFin (f : Fmt) (md : Mode) (sat ftz : Bool) (s : Bool) (m : Nat) (e : Int) (more : Bool := false) : FRes :=
  if m == 0 && !more then ((if s then signBit f else 0), noFlag)
  else roundMag f md sat ftz s m e more

/-- A NaN delivered in a format (R108, R109): its sign, the leading fraction bits, the quiet bit set. -/
def nanPattern (f : Fmt) : FVal → Nat
  | .nan s frac w _ =>
    let sg := if s then signBit f else 0
    match f with
    | .e2m1 => 0
    | .e4m3 => sg + 0x7F
    | _ =>
      let m := fmtM f
      let fr := if w ≥ m then frac / 2 ^ (w - m) else frac * 2 ^ (m - w)
      sg + infPattern f + (fr % 2 ^ (m - 1) + 2 ^ (m - 1))
  | _ => canonicalNan f

/-- The conversion of a value to a float format (R102, R103, R109). -/
def roundTo (f : Fmt) (md : Mode) (sat : Bool) (x : FVal) : FRes :=
  match x with
  | .nan s fr w q =>
    if f == .e2m1 then (0, flagNV)
    else (nanPattern f (.nan s fr w q), if q then flagNV else noFlag)
  | .inf s =>
    let sg := if s then signBit f else 0
    if f == .e2m1 then (sg + 7, flagNV)
    else if sat then (sg + maxPattern f, noFlag)
    else if f == .e4m3 then (sg + 0x7F, flagNV)
    else (sg + infPattern f, noFlag)
  | .fin s m e => roundFin f md sat false s m e

/-- An operand read under FTZ: a subnormal becomes the zero of its sign (R106). -/
def flushIn (f : Fmt) (ftz : Bool) (x : Nat) : Nat :=
  if ftz && x / 2 ^ fmtM f % 2 ^ fmtE f == 0 then x / signBit f % 2 * signBit f else x

/-! ## Arithmetic on exact values -/

/-- A signed magnitude as an integer. -/
def sgnInt (s : Bool) (m : Nat) : Int := if s then -(m : Int) else m

/-- The exact sum of two finite values: magnitude, exponent and sign; a cancelled zero is +0, or -0 in RDN, and zeros
of one sign keep it (R99, R137). -/
def addFin (md : Mode) (s1 : Bool) (m1 : Nat) (e1 : Int) (s2 : Bool) (m2 : Nat) (e2 : Int) : Bool × Nat × Int :=
  let e := if e1 ≤ e2 then e1 else e2
  let v := sgnInt s1 (m1 * 2 ^ (e1 - e).toNat) + sgnInt s2 (m2 * 2 ^ (e2 - e).toNat)
  if v == 0 then ((if s1 == s2 then s1 else md.rm == 3), 0, e)
  else (v < 0, v.natAbs, e)

/-- The first NaN operand in the order given (R108). -/
def firstNan (xs : List FVal) : Option FVal := xs.find? fvIsNan

/-- NV when some operand signals (R108). -/
def nvIfSignals (xs : List FVal) : FFlags := if xs.any fvSignals then flagNV else noFlag

/-- The outcome of an invalid operation (R108). -/
def invalidRes (f : Fmt) (xs : List FVal) : FRes :=
  match firstNan xs with
  | some n => (nanPattern f n, flagNV)
  | none => (canonicalNan f, flagNV)

/-- Round(a + b) with the special cases of R137. -/
def addV (f : Fmt) (md : Mode) (ftz : Bool) (a b : FVal) : FRes :=
  match firstNan [a, b] with
  | some n => (nanPattern f n, nvIfSignals [a, b])
  | none =>
    match a, b with
    | .inf s, .inf t => if s == t then ((if s then signBit f else 0) + infPattern f, noFlag) else (canonicalNan f, flagNV)
    | .inf s, _ => ((if s then signBit f else 0) + infPattern f, noFlag)
    | _, .inf t => ((if t then signBit f else 0) + infPattern f, noFlag)
    | .fin s1 m1 e1, .fin s2 m2 e2 =>
      let (s, m, e) := addFin md s1 m1 e1 s2 m2 e2
      roundFin f md false ftz s m e
    | _, _ => (canonicalNan f, noFlag)

/-- Round(a × b) with the special cases of R137. -/
def mulV (f : Fmt) (md : Mode) (ftz : Bool) (a b : FVal) : FRes :=
  match firstNan [a, b] with
  | some n => (nanPattern f n, nvIfSignals [a, b])
  | none =>
    let s := fvSign a != fvSign b
    match a, b with
    | .fin _ m1 e1, .fin _ m2 e2 => roundFin f md false ftz s (m1 * m2) (e1 + e2)
    | _, _ =>
      if fvIsZero a || fvIsZero b then (canonicalNan f, flagNV)
      else ((if s then signBit f else 0) + infPattern f, noFlag)

/-- Round(a × b + c), one rounding (R137, R108). -/
def fmaV (f : Fmt) (md : Mode) (ftz : Bool) (a b c : FVal) : FRes :=
  let s := fvSign a != fvSign b
  let invalidMul := match a, b with
    | .inf _, x => fvIsZero x
    | x, .inf _ => fvIsZero x
    | _, _ => false
  match firstNan [a, b, c] with
  | some n => (nanPattern f n, if invalidMul then flagNV else nvIfSignals [a, b, c])
  | none =>
    if invalidMul then (canonicalNan f, flagNV)
    else match a, b, c with
      | .fin _ m1 e1, .fin _ m2 e2, .fin s3 m3 e3 =>
        let (s, m, e) := addFin md s (m1 * m2) (e1 + e2) s3 m3 e3
        roundFin f md false ftz s m e
      | .fin _ _ _, .fin _ _ _, .inf t => ((if t then signBit f else 0) + infPattern f, noFlag)
      | _, _, .inf t =>
        if s == t then ((if s then signBit f else 0) + infPattern f, noFlag) else (canonicalNan f, flagNV)
      | _, _, _ => ((if s then signBit f else 0) + infPattern f, noFlag)

/-- Extra low bits that a quotient or root carries, enough for every format and for the sixteen bits of SR. -/
def guardBits : Nat := 160

/-- Round(a / b) (R143). -/
def divV (f : Fmt) (md : Mode) (ftz : Bool) (a b : FVal) : FRes :=
  match firstNan [a, b] with
  | some n => (nanPattern f n, nvIfSignals [a, b])
  | none =>
    let s := fvSign a != fvSign b
    let sg := if s then signBit f else 0
    match a, b with
    | .inf _, .inf _ => (canonicalNan f, flagNV)
    | .inf _, _ => (sg + infPattern f, noFlag)
    | _, .inf _ => (sg, noFlag)
    | .fin _ m1 e1, .fin _ m2 e2 =>
      if m2 == 0 then (if m1 == 0 then (canonicalNan f, flagNV) else (sg + infPattern f, flagDZ))
      else
        let n := m1 * 2 ^ guardBits
        roundFin f md false ftz s (n / m2) (e1 - e2 - guardBits) (n % m2 != 0)
    | _, _ => (canonicalNan f, noFlag)

/-- The largest `r` below `2^k` added to `r` with `r * r ≤ n`: the integer square root, bit by bit. -/
def isqrtAux (n : Nat) : Nat → Nat → Nat
  | 0, r => r
  | k + 1, r => isqrtAux n k (if (r + 2 ^ k) * (r + 2 ^ k) ≤ n then r + 2 ^ k else r)

/-- The integer square root. -/
def isqrt (n : Nat) : Nat := isqrtAux n (Nat.log2 n / 2 + 1) 0

/-- Round(√a) (R142, FSQRT). -/
def sqrtV (f : Fmt) (md : Mode) (ftz : Bool) (a : FVal) : FRes :=
  match a with
  | .nan s fr w q => (nanPattern f (.nan s fr w q), if q then flagNV else noFlag)
  | .inf s => if s then (canonicalNan f, flagNV) else (infPattern f, noFlag)
  | .fin s m e =>
    if m == 0 then ((if s then signBit f else 0), noFlag)
    else if s then (canonicalNan f, flagNV)
    else
      let odd := e % 2 != 0
      let m' := (if odd then 2 * m else m) * 2 ^ (2 * guardBits)
      let e' := (if odd then e - 1 else e) / 2 - guardBits
      let r := isqrt m'
      roundFin f md false ftz false r e' (r * r != m')

/-- Round(1 / √a), RNE (R142, FRSQ). -/
def rsqrtV (f : Fmt) (ftz : Bool) (a : FVal) : FRes :=
  match a with
  | .nan s fr w q => (nanPattern f (.nan s fr w q), if q then flagNV else noFlag)
  | .inf s => if s then (canonicalNan f, flagNV) else (0, noFlag)
  | .fin s m e =>
    if m == 0 then ((if s then signBit f else 0) + infPattern f, flagDZ)
    else if s then (canonicalNan f, flagNV)
    else
      let odd := e % 2 != 0
      let m' := if odd then 2 * m else m
      let e' := if odd then e - 1 else e
      let n := 2 ^ (4 * guardBits) / m'
      let r := isqrt n
      roundFin f modeRne false ftz false r (-(e' / 2) - 2 * guardBits) (r * r * m' != 2 ^ (4 * guardBits))

/-- Order of two values that are not NaN: whether the first lies below the second, with −0 below +0 when `zeros`. -/
def ltV (zeros : Bool) (a b : FVal) : Bool :=
  match a, b with
  | .inf s, .inf t => s && !t
  | .inf s, _ => s
  | _, .inf t => !t
  | .fin s1 m1 e1, .fin s2 m2 e2 =>
    if m1 == 0 && m2 == 0 then zeros && s1 && !s2
    else
      let e := if e1 ≤ e2 then e1 else e2
      sgnInt s1 (m1 * 2 ^ (e1 - e).toNat) < sgnInt s2 (m2 * 2 ^ (e2 - e).toNat)
  | _, _ => false

/-- FMIN and FMAX (R138): `maxi` for the maximum, `prop` for the forms that propagate a NaN. The operands come as
patterns already flushed (R106). -/
def minMaxV (f : Fmt) (maxi prop : Bool) (a b : Nat) : FRes :=
  let va := unpack f a
  let vb := unpack f b
  let nv := nvIfSignals [va, vb]
  match fvIsNan va, fvIsNan vb with
  | true, true => (if prop then nanPattern f va else canonicalNan f, nv)
  | true, false => (if prop then nanPattern f va else b, nv)
  | false, true => (if prop then nanPattern f vb else a, nv)
  | false, false =>
    let takeB := if maxi then ltV true va vb else ltV true vb va
    (if takeB then b else a, noFlag)

/-- FCLASS's mask (R139). -/
def classOf (f : Fmt) (x : Nat) : Nat :=
  match unpack f x with
  | .inf s => if s then 1 else 0x80
  | .nan _ _ _ q => if q then 0x100 else 0x200
  | .fin s m _ =>
    if m == 0 then (if s then 8 else 0x10)
    else if m < 2 ^ fmtM f then (if s then 4 else 0x20)
    else (if s then 2 else 0x40)

/-- A float compare under cc4 (R118, R120): the result and NV. -/
def fcompare (cc : Nat) (a b : FVal) : Bool × FFlags :=
  let un := fvIsNan a || fvIsNan b
  let sig := fvSignals a || fvSignals b
  let ordered := cc == 2 || cc == 3 || cc == 4 || cc == 5
  let lt := ltV false a b
  let gt := ltV false b a
  let c := match cc with
    | 0 => !un && !lt && !gt
    | 1 => un || lt || gt
    | 2 => !un && lt
    | 3 => !un && !gt
    | 4 => !un && gt
    | 5 => !un && !lt
    | 10 => un
    | _ => !un
  (c, if sig || (un && ordered) then flagNV else noFlag)

/-! ## Integers (R104) -/

/-- Rounding a value to an integer format of `w` bits (R104): the pattern and the flags. -/
def toInteger (w : Nat) (signed : Bool) (md : Mode) (sat : Bool) (x : FVal) : FRes :=
  let maxV : Int := if signed then 2 ^ (w - 1) - 1 else 2 ^ w - 1
  let minV : Int := if signed then -(2 ^ (w - 1)) else 0
  let bad := if signed then 2 ^ (w - 1) else 0
  let enc (v : Int) : Nat := (v % 2 ^ w).toNat
  match x with
  | .nan _ _ _ _ => (if sat then 0 else bad, flagNV)
  | .inf s => (if sat then enc (if s then minV else maxV) else bad, flagNV)
  | .fin s m e =>
    let (y, exact) := roundAt md s m e 0 false
    let v := sgnInt s y
    if v > maxV then (if sat then enc maxV else bad, flagNV)
    else if v < minV then (if sat then enc minV else bad, flagNV)
    else (enc v, if exact then noFlag else flagNX)

/-- FRND (R135): the value rounded to an integral value of its own format. -/
def roundIntegral (f : Fmt) (md : Mode) (x : Nat) : FRes :=
  match unpack f x with
  | .nan s fr w q => (nanPattern f (.nan s fr w q), if q then flagNV else noFlag)
  | .inf _ => (x, noFlag)
  | .fin s m e =>
    let (y, exact) := roundAt md s m e 0 false
    let (p, _) := roundFin f modeRne false false s y 0
    (p, if exact then noFlag else flagNX)

/-- BSCALE (R136): the e8m0 scale and the flags. -/
def blockScale (x : Nat) : FRes :=
  match unpack .f32 x with
  | .nan _ _ _ q => (0xFF, if q then flagNV else noFlag)
  | .inf _ => (0xFF, flagNV)
  | .fin _ m e =>
    if m == 0 then (0, noFlag) else ((e + Nat.log2 m - 2 + 127).toNat, noFlag)

/-- One step of xorshift32 (R100). -/
def xorshift (r : Word) : Word :=
  let r := r ^^^ (r <<< 13)
  let r := r ^^^ (r >>> 17)
  r ^^^ (r <<< 5)

/-- The bits that SR draws from a generator that has been advanced (R100). -/
def srBits (r : Word) : Nat := (r >>> 16).toNat

end Sys2Proof.Machine
end

