-- ==== Sys2Proof/Machine/State.lean ====
section
/-! DEFINITION. The state of the package: everything the spec gives the machine, as plain data, and its reset value.

Most state is sparse: lists of threads, bundles, blocks, kernels, virtual devices and commands. Registers and
addresses are bit vectors; counts, indexes and identifiers are natural numbers. -/

namespace Sys2Proof.Machine

/-- Why a step ends the run. -/
inductive Fault where
  /-- Raised by `step` after a thermal shutdown (R440): every clock is stopped, and only a cold reset restarts the
  package. Safe: the spec gives the stopped package no other step. -/
  | clocksStopped
  deriving DecidableEq, Repr

/-- Why an instruction has no meaning. -/
inductive Refusal where
  /-- Raised by an arm of `exec` whose instruction has no meaning yet. Safe. -/
  | notModelled (mnemonic : String)
  deriving DecidableEq, Repr

/-! ## Threads -/

/-- Where an access goes once its address is resolved (R45 to R48, R349, R351): device memory, a host aperture, or a
scratchpad array (`remote` when it came through the gang's window). -/
inductive Loc where
  | dev (vd gpa ma : Nat)
  | host (vd ap gpa : Nat)
  | scr (blk off : Nat) (remote : Bool)
  deriving DecidableEq, Repr

/-- The region snapshot (R407). -/
structure Snapshot where
  pc : DWord := 0
  stack : List Bool := []
  sp : DWord := 0
  rngs : Word := 1
  flags : BitVec 5 := 0
  deriving DecidableEq, Repr

/-- A store in the region store buffer (R222, R409), with the translation it was given (R223): its place, the virtual
page that the translation covers, and the store's PC. -/
structure BufStore where
  loc : Loc
  size : Nat
  data : BitVec 128
  pol : Nat
  vpage : Nat
  pageVa : Nat := 0
  pageSize : Nat := 0
  pc : DWord := 0
  deriving DecidableEq, Repr

/-- A long-latency result in flight (R55): the first physical destination register, the words (one for each record, since each
32-bit register of a destination is written by itself), the flags to OR, the
instructions left in its window, whether the value has arrived, whether a replay of the region discards it (R411),
and the host request it waits for, 0 for none. -/
structure PendingResult where
  dst : Nat
  vals : List Word
  flags : BitVec 5 := 0
  window : Nat
  arrived : Bool := true
  discard : Bool := true
  tag : Nat := 0
  deriving DecidableEq, Repr

/-- The line a monitor watches (R233). -/
inductive MonKey where
  | dev (vd line : Nat)
  | scr (blk line : Nat)
  | host
  deriving DecidableEq, Repr

/-- An armed line monitor (R233). -/
structure Monitor where
  key : MonKey
  event : Bool
  deriving DecidableEq, Repr

/-- What a thread waits for (R278). -/
inductive Park where
  /-- Not parked. -/
  | running
  /-- At a bundle-convergent instruction (R127). -/
  | conv
  /-- Arrived at a hardware barrier generation (R269). -/
  | bar (scope id gen : Nat)
  /-- In BWAIT or BWAITT (R262): the barrier's block and offset, the phase waited on, the cycles left, the
  destination register. -/
  | bwait (blk off : Nat) (phase : Bool) (left : Option Nat) (dst : Nat)
  /-- In WAITC (R258): the class, the threshold, and a number that its group shares. -/
  | waitc (cls n stamp : Nat)
  /-- Blocked on a named queue (R265). -/
  | queue (q : Nat)
  /-- With a pending full/empty operation (R242). -/
  | fe
  /-- In MWAIT (R234): the cycles left and the destination register. -/
  | mwait (left : Option Nat) (dst : Nat)
  /-- A spawner that waits for a bin (R273): the child's entry and argument, and a number that orders the waiters. -/
  | bin (entry : DWord) (arg : Word) (stamp : Nat)
  /-- In SLEEP (R283). -/
  | sleep (left : Nat)
  /-- In YIELD (R282): groups of the sub-core still to issue. -/
  | yielding (left : Nat)
  /-- Attached to a fault record; 0 while no record is free (R354). -/
  | fault (fid : Nat)
  /-- Stalled at its instruction, with no issue slot, until it can be presented again: a full engine queue or counter (R151), an interlock
  (R162), a bin (R273), a release at SYS (R195), gang start (R47). The number orders first attempts. -/
  | stall (stamp : Nat)
  /-- In an SVC whose release or whose entry waits (R405): the code, and a number that its bundle's threads share. -/
  | svc (code stamp : Nat)
  /-- Waits for a host completion (R205). -/
  | host (tag : Nat)
  /-- Waits for its shadow comparison (R426). -/
  | shadow
  /-- Enters its handler once the results of its loads have arrived, before its stores commit (R56, R201, R401): TRAPCAUSE, TRAPPC
  and TRAPVAL. -/
  | trapping (cause : Nat) (pc val : DWord)
  /-- Has exited (R276). -/
  | exited
  deriving DecidableEq, Repr

/-- One thread's own state (R26, R39), with the hidden state of R233, R261 and R400. `relTags` is set while the thread's
release at SYS waits: the zero-length reads not yet answered (R195 step 5). `late` is the PC and the address of a host load that
was refused, until the thread could issue again (R367). -/
structure Thread where
  ref : TRef
  pc : DWord := 0
  sp : DWord := 0
  slo : DWord := 0
  shi : DWord := 0
  stack : List Bool := []
  scope : BitVec 3 := 0
  regionPc : DWord := 0
  snap : Snapshot := {}
  fpcsr : BitVec 9 := 0
  rngs : Word := 1
  feBudget : BitVec 16 := 64
  trapVec : DWord := 0
  trapCause : BitVec 8 := 0
  trapPc : DWord := 0
  trapVal : DWord := 0
  trapSave : Option (List Bool) := none
  monitor : Option Monitor := none
  mark : Option (Nat × Nat × Bool) := none
  stores : List BufStore := []
  pending : List PendingResult := []
  park : Park := .running
  age : Nat := 0
  shadowOk : Bool := false
  firstTry : Option Nat := none
  waitEng : Option EngId := none
  faultVa : DWord := 0
  relTags : Option (List Nat) := none
  late : Option (DWord × DWord) := none
  deriving DecidableEq, Repr

/-! ## Bundles, blocks, gangs, kernels -/

/-- An engine fault that a bundle holds for a WAITC (R166). -/
structure Held where
  cls : Nat
  cause : Nat
  val : DWord
  cmd : Nat
  deriving DecidableEq, Repr

/-- One bundle (R26): its rows by home lane, window (with the one that a convergence round began with), views, affine
registers, modulus and sparsity bits, with its place on the core and what it waits for; `here` are the rows of its sub-core that it
holds, as (first, count) (R10, R11, R312), and `lent` counts those that another RALLOC took from it while it waits for its own
(R291). -/
structure Bundle where
  blk : Nat
  idx : Nat
  sub : Nat := 0
  slot : Nat := 0
  alloc : Nat := 16
  wbase : Nat := 0
  roundBase : Nat := 0
  rf : List (List Word) := []
  poison : List (Nat × Nat) := []
  viewT0 : Word := 0
  viewT1 : Word := 0
  viewAcc : Word := 0
  viewCk : Word := 0
  aff : List (DWord × Word) := []
  modq : DWord := 0
  modqi : DWord := 0
  spm : Bool := false
  spmt : Bool := false
  held : List Held := []
  round : List DWord := []
  roundMembers : List Nat := []
  active : Bool := true
  activeSince : Nat := 0
  readySince : Option Nat := none
  want : Option (Nat × Nat) := none
  free : Option Nat := none
  here : List (Nat × Nat) := [(0, 16)]
  lent : Nat := 0
  ended : Bool := false
  deriving DecidableEq, Repr

/-- A blocked queue operation (R266): the group's active lanes, the handle of a push, the pop's destination. -/
structure QWaiter where
  q : Nat
  bun : Nat
  lanes : List Nat
  push : Option DWord
  dst : Nat
  stamp : Nat
  deriving DecidableEq, Repr

/-- One block: its place, its scratchpad bytes with their full/empty bits and poison, its queues' offsets and the
operations blocked on them, and whether it is halted (R26, R46, R264, R311); `seatedAt` and `haltedAt` are the moments at which it
was seated on its core and halted. -/
structure Block where
  id : Nat
  kernel : Nat
  n : Nat
  gang : Nat
  gangIdx : Nat
  vd : Nat
  core : Nat
  quad : Nat
  base : Nat := 0
  sb : Nat := 0
  rbuf : Nat := 4
  mem : List Host.Cell := []
  empties : List Nat := []
  poison : List Nat := []
  queues : List Nat := []
  waiters : List QWaiter := []
  halted : Bool := false
  haltedAt : Nat := 0
  seatedAt : Nat := 0
  scrHere : Bool := true
  started : Bool := true
  relaunches : Nat := 0
  deriving DecidableEq, Repr

/-- A gang (R307, R372): its hidden ticket, its quad, and whether it has started (R270). -/
structure Gang where
  id : Nat
  kernel : Nat
  ticket : Word
  quad : Nat
  size : Nat
  started : Bool
  deriving DecidableEq, Repr

/-- A kernel descriptor (R89), with the scratchpad image that Quay read (R305). -/
structure Desc where
  addr : DWord := 0
  entry : DWord := 0
  trapVec : DWord := 0
  stackBase : DWord := 0
  stackSz : Nat := 0
  alloc : Nat := 128
  bundles : Nat := 1
  gangSz : Nat := 1
  sb : Nat := 0
  split : Nat := 0
  rbuf : Nat := 4
  nqueue : Nat := 0
  flags : Nat := 0
  simg : DWord := 0
  simgLen : Nat := 0
  reserved : Nat := 0
  image : List Byte := []
  deriving DecidableEq, Repr

/-- A gang that waits for placement (R308): its block numbers, how often they were relaunched, the core to avoid
(R414), and the moment it became ready (R303). -/
structure GangPlan where
  blocks : List Nat
  relaunches : Nat
  avoid : Option Nat
  stamp : Nat
  deriving DecidableEq, Repr

/-- A started packet (R307, R309) of a type: a kernel launch with the next gang to place, the killed gangs to place again
and the moment at which it became ready, or a copy; `ended` when only the signal update is left, and the page that the
update waits for (R353); the host ports that its last writes went to, and the zero-length reads behind them that are not
yet answered (R214). -/
structure Kernel where
  id : Nat
  vd : Nat
  q : Nat
  pkt : Nat
  home : Nat
  prio : Nat := 0
  desc : Desc := {}
  x : Nat := 1
  y : Nat := 1
  z : Nat := 1
  karg : DWord := 0
  csig : DWord := 0
  next : Nat := 0
  stamp : Nat := 0
  plans : List GangPlan := []
  failed : Bool := false
  suspended : Bool := false
  typ : Nat := 0
  ended : Bool := false
  waitPage : Option Nat := none
  posted : List Nat := []
  flush : List Nat := []
  deriving DecidableEq, Repr

/-- Which hardware barrier a generation belongs to (R269). -/
inductive BarKey where
  | core (blk id : Nat)
  | quad (gang id : Nat)
  | die (kernel die id : Nat)
  | pkg (kernel id : Nat)
  | pod (vd id : Nat)
  deriving DecidableEq, Repr

/-- One hardware barrier: its generation, the threads that have arrived, and for a pod barrier the arrival flits that
have come, each as 1024 × generation + rank, and whether this package has sent its own (R269, R399). -/
structure BarState where
  key : BarKey
  gen : Nat := 0
  arrived : List TRef := []
  ranks : List Nat := []
  sent : Bool := false
  deriving DecidableEq, Repr

/-- A bin of spawned threads (R273): its key, its threads' arguments in order of joining, the cycles left of
BINWAIT, and the moment it became due. -/
structure Bin where
  blk : Nat
  entry : DWord
  args : List Word
  left : Nat
  due : Option Nat
  deriving DecidableEq, Repr

/-! ## Engines -/

/-- Where an engine command stands (R148, R164, R166, R257). -/
inductive CmdState where
  | queued
  | running
  | waitFlit
  | setAside (fid : Nat)
  | waitHost (tag : Nat)
  | faulted
  | done
  deriving DecidableEq, Repr

/-- What ended a command (R166): the cause code and TRAPVAL of R168 or R184; for a page fault its address, the level at
which the walk ended and the kind of access. -/
structure CmdFault where
  cause : Nat
  val : DWord
  va : DWord := 0
  level : Nat := 0
  need : Nat := 1
  deriving DecidableEq, Repr

/-- A copy-class or fabric descriptor as read at issue (R253). -/
structure CopyDesc where
  src : DWord := 0
  dst : DWord := 0
  rlen : Nat := 0
  nrow : Nat := 0
  spitch : Int := 0
  dpitch : Nat := 0
  idx : DWord := 0
  femode : Nat := 0
  ckmode : Nat := 0
  eszl : Nat := 0
  rank : Nat := 0
  reserved : Nat := 0
  deriving DecidableEq, Repr

/-- An engine command (R34, R43, R164, R180): its operands as captured at issue, its tidemark `done`, its working values,
whether its last unit is finished (`held`), the host or target bytes brought for the unit in progress (by address), the
flits of the unit acknowledged (`ncheck`), the core cycles left of the unit in progress (`left`, none at a boundary; R169), and when
it last sent a flit, and the IDE streams that its transfers have used (R380). `acct` is the sidecar's status word as captured,
or the kernel of a Quay copy; `metas` the metadata of MSPA, the bits of a checked tile's words (R249), or the last element and its
index (R254). -/
structure Cmd where
  id : Nat
  eng : EngId
  cls : Nat
  fn : Nat
  vd : Nat
  blk : Nat
  bun : Nat
  lane : Nat
  w : List Word := []
  sel : Nat := 0
  bar : Option Nat := none
  viewT0 : Word := 0
  viewT1 : Word := 0
  viewAcc : Word := 0
  viewCk : Word := 0
  modq : DWord := 0
  sidecar : Bool := false
  mode : Bool := false
  reads : List (Nat × Nat) := []
  writes : List (Nat × Nat) := []
  desc : CopyDesc := {}
  tile : List Nat := []
  metas : List Nat := []
  c : List Nat := []
  pc : List Nat := []
  pr : List Nat := []
  mc : List Nat := []
  mr : List Nat := []
  stale : Nat := 0
  img : List Byte := []
  acct : Nat := 0
  step : Nat := 0
  group : Nat := 0
  done : Nat := 0
  ncheck : Nat := 0
  st : CmdState := .queued
  fault : Option CmdFault := none
  held : Bool := false
  host : List (Nat × List Byte) := []
  since : Nat := 0
  left : Option Nat := none
  streams : List Nat := []
  deriving DecidableEq, Repr

/-- A weight buffer (R149, R165): the VD whose contents it holds, and its nonzero bytes. -/
structure WBuf where
  core : Nat
  sub : Nat
  vd : Nat
  bytes : List Host.Cell
  poison : List Nat := []
  deriving DecidableEq, Repr

/-- What an entry of a shadow queue holds of one thread (R426, R218): the words of the registers that it read, the words that its
registers hold after it, and what it brought on its way: long-latency results and loaded values, and stores with their
addresses and data. -/
structure ShadowLane where
  ref : TRef
  srcs : List Word := []
  outs : List Word := []
  results : List PendingResult := []
  stores : List BufStore := []
  deriving DecidableEq, Repr

/-- One entry of a sub-core's shadow queue (R426): the group's threads, its pc and word, what it holds of each thread; `pre` when the
group waits for it; `since` the core cycle in which it was written. -/
structure ShadowEntry where
  core : Nat
  sub : Nat
  refs : List TRef
  pc : DWord
  word : Nat := 0
  lanes : List ShadowLane := []
  pre : Bool
  since : Nat := 0
  deriving DecidableEq, Repr

/-! ## Memory, caches and translation -/

/-- Who made a write to host memory, for a refusal of its translation (R354, R366): the bit of SRC, the virtual address, and the
thread with the PC of its store, the engine or Quay command, or the queue whose Quay wrote it. -/
structure PostBy where
  src : Nat := 0
  va : Nat := 0
  thread : Option (TRef × DWord) := none
  cmd : Option Nat := none
  queue : Option Nat := none
  deriving DecidableEq, Repr

/-- A cached line (R189): bytes held, bytes present and bytes dirty; bit `i` of a mask stands for byte `i`, bit `i` of
`poison` for the line's 8-byte word `i` (R423). `fill` is the host request that brings a host line's other bytes, 0 for none
(R189), and `by_` who wrote a host line last. -/
structure CLine where
  vd : Nat
  line : Nat
  ma : Option Nat
  data : BitVec 1024
  valid : BitVec 128
  dirty : BitVec 128
  ap : Nat := 0
  poison : BitVec 16 := 0
  fill : Nat := 0
  by_ : PostBy := {}
  deriving DecidableEq, Repr

/-- A cached leaf translation (R347, R348): the page's first address, its size, its GPA, permissions and DIRTY. -/
structure TlbEntry where
  vd : Nat
  va : Nat
  size : Nat
  gpa : Nat
  rd : Bool
  wr : Bool
  ex : Bool
  dirty : Bool
  deriving DecidableEq, Repr

/-- A walk-cache entry (R348): the table that the walk of these leading address bits reaches at a level. -/
structure WalkEntry where
  vd : Nat
  level : Nat
  tag : Nat
  table : Nat
  deriving DecidableEq, Repr

/-- Per-core state (R10, R13, R347, R348, R273), beside its resident blocks. -/
structure Core where
  l1 : List CLine := []
  tlb : List TlbEntry := []
  walks : List WalkEntry := []
  lanes : List (Nat × Nat × TlbEntry) := []
  bins : List Bin := []
  split : Nat := 0
  vd : Nat := 0
  posted : List Nat := []
  deriving DecidableEq, Repr

/-- What a pending full/empty operation is (R242). -/
inductive FeKind where
  | feldw
  | feldc
  | festf
  deriving DecidableEq, Repr

/-- Where a pending full/empty operation is held (R242, R244). -/
inductive FePlace where
  | table
  | moored
  | woken (counted : Bool)
  deriving DecidableEq, Repr

/-- A pending full/empty operation (R242 to R245): its thread, its word, FESTF's data, the destination, the window it
will open, and the retry count. The list's order is the order of queueing and mooring. -/
structure FeWait where
  ref : TRef
  kind : FeKind
  loc : Loc
  va : DWord
  data : DWord
  dst : Nat
  la : Nat
  count : Nat
  place : FePlace
  deriving DecidableEq, Repr

/-- A home slice's Groyne meter (R334): tokens per VD, the VDs of waiting requests in arrival order, the VD last
served, whether the port was idle in the window just ended, and whether it has served in this one. -/
structure Slice where
  die : Nat
  slice : Nat
  tok : List (Nat × Int)
  waiting : List Nat
  last : Nat
  idle : Bool
  served : Bool
  deriving DecidableEq, Repr

/-! ## Queues and virtual devices -/

/-- A packet (R299). -/
structure Packet where
  seq : Nat := 0
  typ : Nat := 0
  prio : Nat := 0
  band : Bool := false
  valid : Bool := false
  reservedHdr : Nat := 0
  geom : Nat := 0
  desc : DWord := 0
  g0 : Nat := 0
  g1 : Nat := 0
  g2 : Nat := 0
  res28 : Nat := 0
  karg : DWord := 0
  csig : DWord := 0
  dsig : DWord := 0
  dval : DWord := 0
  deriving DecidableEq, Repr

/-- An accepted packet that has not completed (R301, R302): its index, its content, whether its dependency is met, the
kernel that it started, whether its last read of DSIG failed, and a number of its own. -/
structure Accepted where
  idx : Nat
  pkt : Packet
  desc : Desc := {}
  met : Bool := false
  started : Bool := false
  kernel : Nat := 0
  sigFailing : Bool := false
  key : Nat := 0
  deriving DecidableEq, Repr

/-- When Quay reads a word again that did not let it go on (R301, R302): the core cycle by which it does at the latest, and the
line of the word with what it held, whether poisoned, so that a change of it brings the next read. -/
structure PollMark where
  limit : Nat := 0
  seen : Option (Nat × Nat × Bool) := none
  deriving DecidableEq, Repr

/-- The packet that Quay is accepting (R298, R301): the die, the address of its slot, its index, and whether the queue has been
enabled anew meanwhile, so that its index is one of the old ring. -/
structure Taking where
  die : Nat := 0
  slot : Nat := 0
  idx : Nat := 0
  old : Bool := false
  deriving DecidableEq, Repr

/-- A user-mode queue (R297, R298): its registers, the write index taken, its accepted packets, the pages
whose fault was denied (R355), the packet being accepted, and the next reads of its next packet and of a packet's dependency
(R301, R302). -/
structure UQueue where
  qbase : DWord := 0
  qctl : Word := 0
  rdidx : Word := 0
  widx : Word := 0
  err : Bool := false
  code : BitVec 8 := 0
  accepted : List Accepted := []
  denied : List Nat := []
  taking : Option Taking := none
  pktPoll : PollMark := {}
  sigPoll : PollMark := {}
  deriving DecidableEq, Repr

/-- A control page's registers (R326) with the call ring's write index, the count of lost entries (R416), whether a call of the
ring is being performed, and the port and zero-length read that the end of one waits for (R327, R195). -/
structure Control where
  crbase : DWord := 0
  crctl : Word := 0
  crwidx : Word := 0
  crdone : Word := 0
  fqbase : DWord := 0
  fqctl : Word := 0
  fqtail : Word := 0
  fqhead : Word := 0
  lost : Word := 0
  busy : Bool := false
  ending : Option (Nat × Option Nat) := none
  fqWait : List (Nat × Option Nat) := []
  errcnt : List Nat := [0, 0, 0, 0, 0, 0, 0, 0]
  deriving DecidableEq, Repr

/-- A party attached to a fault record (R354). -/
inductive Party where
  | thread (t : TRef)
  | cmd (c : Nat)
  | quay (q : Nat)
  deriving DecidableEq, Repr

/-- What an entry of the fault queue reports (R417). -/
structure Notice where
  kind : Nat
  cause : Nat := 0
  flags : Nat := 0
  val : Nat := 0
  pc : Nat := 0
  queue : Nat := 0xFFFF
  thread : Nat := 0xFFFF
  pkt : Nat := 0
  block : Nat := 0xFFFFFFFF
  aux : Nat := 0
  deriving DecidableEq, Repr

/-- A fault record (R354), with the context of the requester that made it, for its notices (R417), and whether Harbour
is paging it in (R358). -/
structure FaultRec where
  fid : Nat
  vpage : Nat
  level : Nat
  kind : BitVec 3
  src : BitVec 3
  parties : List Party
  entry : Option (Nat × Nat)
  ctx : Notice := { kind := 5 }
  paging : Bool := false
  deriving DecidableEq, Repr

/-- An aperture entry (R351). -/
structure Aperture where
  v : Bool := false
  rd : Bool := false
  wr : Bool := false
  aop : Bool := false
  ats : Bool := false
  port : Nat := 0
  stream : Nat := 0
  gbase : Nat := 0
  glen : Nat := 0
  haddr : Nat := 0
  deriving DecidableEq, Repr

/-- An interrupt remap entry (R331). -/
structure IrqEntry where
  owner : Nat := 0
  pend : Bool := false
  mask : Bool := false
  vec : Nat := 0
  deriving DecidableEq, Repr

/-- A version-table entry (R362). -/
structure Version where
  slot : Nat
  version : Nat
  state : Nat
  tag : BitVec 128
  deriving DecidableEq, Repr

/-- A frame of the pool in use (R358 to R360): its GPA, the page it holds, the entry's GPA, and its slot. -/
structure Frame where
  gpa : Nat
  vpage : Nat
  entry : Nat
  slot : Option Nat
  deriving DecidableEq, Repr

/-- A TDISP interface (R375): 0 CONFIG_UNLOCKED, 1 CONFIG_LOCKED, 2 RUN, 3 ERROR; the last start nonce, and the
digest of the interface report recorded at the last lock (R385). -/
structure Tdisp where
  state : Nat := 0
  nonce : BitVec 256 := 0
  report : BitVec 512 := 0
  deriving DecidableEq, Repr

/-- A SET_APERTURE that waits for the requests outstanding in the old range (R352): the call, its RESULT, and the range on
its port. -/
structure ApWait where
  call : CallSlot
  old : Nat
  port : Nat
  lo : Nat
  hi : Nat
  deriving DecidableEq, Repr

/-- Bytes that a read of host memory by Quay or Harbour has brought (R301, R327, R359), at most 512 of them, with who reads: a
queue's packet (its number), dependency (64 more) or completion signal (192 more), the call ring (128), the page-in of a fault record
(1,024 more than its FID) or the target of a flit (2,048 more than its line's number); none when the read or its translation failed. -/
structure HostGot where
  who : Nat
  va : Nat
  n : Nat
  bytes : Option (List Byte)
  deriving DecidableEq, Repr

/-- A virtual device: its VD table entry (R322), queues, control page, translation tables, paging state, meter,
interrupt entries, interface, service budget and weight-buffer images; whether an unlock (R378), the drain of a reset (R430) or a
Function Level Reset (R392) is in progress, the calls that wait for a reset, a destruction, an aperture's requests or a shoot-down to
end (R325, R352, R364, R430), and what host reads have brought for Quay and Harbour. Entry 0 is Harbour's, whose control page is the physical function's. -/
structure Vd where
  id : Nat
  vstate : Nat := 0
  part : Nat := 0
  conf : Bool := false
  shadow : Bool := false
  dpage : Bool := false
  svcw : Nat := 0
  wm1 : Nat := 0
  vfn : Nat := 0
  queues : List (Nat × UQueue) := []
  lastStart : List (Nat × Nat) := []
  ctl : Control := {}
  root : Nat := 0
  s2 : List (Nat × Nat) := []
  aps : List (Nat × Aperture) := []
  sharedBlocks : List Nat := []
  faults : List FaultRec := []
  pool : List Nat := []
  frames : List Frame := []
  backing : Option (Nat × Nat) := none
  versions : List Version := []
  rate : Nat := 0
  burst : Nat := 0
  irqs : List IrqEntry := []
  tdisp : Tdisp := {}
  bud : Int := 0
  images : List WBuf := []
  sealKey : Option (BitVec 256) := none
  unlock : Bool := false
  draining : Bool := false
  flr : Bool := false
  resetCall : Option CallSlot := none
  destroyCall : Option CallSlot := none
  apCall : Option ApWait := none
  shot : Option CallSlot := none
  got : List HostGot := []
  deriving DecidableEq, Repr

/-! ## Headland tables -/

/-- A remap table entry (R317). -/
structure Remap where
  state : Nat := 0
  assigned : Bool := false
  part : Nat := 0
  lquad : Nat := 0
  deriving DecidableEq, Repr

/-- A rank-table entry (R397). -/
structure Rank where
  rank : Nat
  v : Bool := true
  pod : Bool
  pkgid : Nat
  vd : Nat
  deriving DecidableEq, Repr

/-- A partition table entry (R320), its rank table, its Longshore key slot (R373), and the key's transmit
counters by port (R395). -/
structure Part where
  key : Nat := 0
  pstate : Nat := 0
  nvd : Nat := 0
  nquad : Nat := 0
  nblk : Nat := 0
  ranks : List Rank := []
  linkKey : Option (BitVec 256) := none
  linkUsable : Bool := true
  linkTx : List (Nat × Nat) := []
  deriving DecidableEq, Repr

/-- A memory ownership entry (R321). -/
structure Own where
  kind : Nat := 0
  part : Nat := 0
  scrub : Bool := false
  vd : Nat := 0
  deriving DecidableEq, Repr

/-- A quad's scheduler (R310): the ring of eligible VDs, their deficits, the VD whose turn it is, whether its halt is in
progress, the VD that had the last turn, and the cycles with no issue and no engine work; when each VD was last halted there (R312);
and whether the quad stands still because it, or another that its VD's kernel needs, is to leave its partition (R314, R318). -/
structure QuadSched where
  ring : List Nat := []
  deficit : List (Nat × Int) := []
  vd : Option Nat := none
  ending : Bool := false
  last : Nat := 0
  idle : Nat := 0
  halts : List (Nat × Nat) := []
  hold : Bool := false
  deriving DecidableEq, Repr

/-- A request outstanding on a host port (R205, R367, R389): what it is for and when it was issued. -/
inductive ReqFor where
  /-- A thread's load: line fill or plain, the line, offset in the returned bytes, size, sign extension, the bytes that
  the thread's own buffered stores supply (a mask and their values), and the scope of an acquire (R195). -/
  | load (t : TRef) (fill : Bool) (line off size : Nat) (sext : Bool) (mask own : Nat) (acq : Option Nat)
  /-- A thread's AtomicOp; `returns` when it writes a register. -/
  | atomic (t : TRef) (dst : Option (Nat × Nat)) (la : Nat)
  /-- An engine command's read. -/
  | cmd (c : Nat)
  /-- A completion-signal AtomicOp (R309). -/
  | signal (kernel : Nat)
  /-- An ATS Translation Request (R366), of a queue's Quay, or of the thread, flit or posted write that holds its tag. -/
  | ats (vd ap haddr : Nat) (queue : Option Nat)
  /-- A read of Quay or Harbour for a VD (R301, R327, R359): who reads, the address, and the bytes asked for. -/
  | quay (vd who va n : Nat)
  /-- The fill of a host line that a store missed (R189). -/
  | fill (core vd line : Nat)
  /-- The zero-length read of a release at SYS (R195 step 5), for the core whose writes it follows. -/
  | flush (core : Option Nat)
  deriving DecidableEq, Repr

/-- The thread that a request is for. -/
def ReqFor.thread? : ReqFor → Option TRef
  | .load t _ _ _ _ _ _ _ _ => some t
  | .atomic t _ _ => some t
  | _ => none

/-- Whether a request is a zero-length read. -/
def ReqFor.isFlush : ReqFor → Bool
  | .flush _ => true
  | _ => false

/-- A non-posted request outstanding on a host port; `haddr` is untranslated, `need` is the kind of access that a Translation Request
is for, `part` the bytes that completions have brought so far (R389), `pc` the word of a thread that made it, `ats` whether its address
was translated by ATS, and `stale` whether an invalidation has overtaken a Translation Request (R367). -/
structure HostReq where
  tag : Nat
  port : Nat
  vd : Nat
  stream : Nat
  haddr : Nat
  va : DWord
  size : Nat
  since : Nat
  what : ReqFor
  need : Nat := 1
  part : List Byte := []
  pc : DWord := 0
  ats : Bool := false
  stale : Bool := false
  deriving DecidableEq, Repr

/-- A host port (R373, R389, R393, R366, R367): its link, its address translation cache (function, host page, bus page,
in 4 KiB units), and the invalidations whose completion is withheld. -/
structure Port where
  up : Bool := false
  cxl : Bool := false
  atc : List (Nat × Nat × Nat) := []
  invalidations : List (Nat × Nat × Nat) := []
  deriving DecidableEq, Repr

/-- One key set of a sub-stream direction (R373); `stale` since a failure of the stream, after which only new keys count (R380). -/
structure KeySet where
  sub : Nat
  rx : Bool
  set : Nat
  key : BitVec 256
  iv : Nat
  stale : Bool := false
  deriving DecidableEq, Repr

/-- An IDE stream slot (R373, R379, R380): keys, the set in use for sending and by sub-stream for receiving, the counters by
sub-stream and direction, the VD it is bound to, whether it is Secure, whether it has become Insecure, whether a key refresh has been
asked for, and whether a counter has reached its end. -/
structure Stream where
  id : Nat
  secure : Bool := false
  keys : List KeySet := []
  cur : Nat := 0
  rxSets : List (Nat × Nat) := []
  next : Option Nat := none
  counters : List (Nat × Bool × Nat) := []
  vd : Nat := 0
  usable : Bool := true
  failed : Bool := false
  noticed : Bool := false
  spent : Bool := false
  deriving DecidableEq, Repr

/-- A committed HDM decoder of a CXL logical device (R393): `blocks` blocks of 2 GiB from host address `base` on map to
GPA blocks of a VD from `gblk` on. -/
structure Hdm where
  ep : Nat
  k : Nat
  base : Nat
  blocks : Nat
  vd : Nat
  gblk : Nat
  deriving DecidableEq, Repr

/-- A scrub job register (R381), with the service cycles left of its unit, 0 before the first. -/
structure ScrubJob where
  run : Bool := false
  halt : Bool := false
  tidemark : Nat := 0
  mblk : Nat := 0
  left : Nat := 0
  deriving DecidableEq, Repr

/-- An array ECC table entry (R425). -/
structure EccEntry where
  busy : Bool := false
  target : Bool := false
  cur : Bool := false
  tidemark : Nat := 0
  deriving DecidableEq, Repr

/-- An engine control register (R428): 0 RUN, 1 DRAINING, 2 SLACK, 3 FENCED; its fields ALL and VD; the target of the last
kill-and-drain, when it began, and whether a VD reset began it (R430). -/
structure EngCtl where
  eng : EngId
  state : Nat := 0
  all : Bool := false
  vd : Nat := 0
  every : Bool := false
  target : Nat := 0
  since : Nat := 0
  reset : Bool := false
  deriving DecidableEq, Repr

/-- A block move in progress (R336): the block, its owner, the target, FORCE, the time left, whether it is past its unmapping, the
call, and whether the reset that FORCE asks for has begun (R337). -/
structure Move where
  blk : Nat
  owner : Nat
  part : Nat
  vd : Nat
  gblk : Nat
  force : Bool
  left : Nat
  full : Nat
  unmapped : Bool
  call : CallSlot
  forced : Bool := false
  deriving DecidableEq, Repr

/-- Measured boot and identification (R435 to R438). -/
structure Boot where
  booted : Bool := false
  status : Nat := 0
  meas : List (BitVec 512) := List.replicate 16 0
  locked : Bool := false
  fwMinor : Nat := 0
  caps : List Nat := []
  endpoints : List EndpointCfg := []
  ports : Nat := 0
  retirement : List Nat := []
  badRows : List Nat := []
  deriving DecidableEq, Repr

/-- The monitors and clock steps (R23, R439, R440): the published values with `shown` the published clock steps, the dies'
steps, when each die's target fell below its step (plus one; 0 when it has not), the number of the last update (`seen`), and the
errors found in each array and in each core (its number, with the service cycle; R433). -/
structure Monitors where
  tempA : Nat := 0
  tempB : Nat := 0
  power : Nat := 0
  proc : Nat := 0
  stepA : Nat := 0
  stepB : Nat := 0
  shown : Nat := 0
  powerStep : Nat := 0
  droopA : Bool := false
  droopB : Bool := false
  lowA : Nat := 0
  lowB : Nat := 0
  seen : Nat := 0
  stopped : Bool := false
  correctedIn : List (Nat × Nat) := []
  uncorrectedIn : List (Nat × Nat) := []
  deriving DecidableEq, Repr

/-- A secured session of a mailbox (R384). -/
structure Session where
  id : Nat
  finished : Bool
  deriving DecidableEq, Repr

/-- The hash value of SHA-512 while it runs, at its start. -/
structure ShaWords where
  a : DWord := 0x6A09E667F3BCC908
  b : DWord := 0xBB67AE8584CAA73B
  c : DWord := 0x3C6EF372FE94F82B
  d : DWord := 0xA54FF53A5F1D36F1
  e : DWord := 0x510E527FADE682D1
  f : DWord := 0x9B05688C2B3E6C1F
  g : DWord := 0x1F83D9ABFB41BD6B
  h : DWord := 0x5BE0CD19137E2179
  deriving DecidableEq, Repr

/-- A running SHA-512 digest (R386): the hash value, the bytes of the block begun, and how many bytes it has taken. -/
structure Sha where
  words : ShaWords := {}
  rest : List Byte := []
  len : Nat := 0
  deriving DecidableEq, Repr

/-- An SPDM mailbox (R384, R386): the connection state (0 start, 1 version, 2 capabilities, 3 algorithms), the running
hash of its transcript, and its sessions. Mailbox 0 is the physical function's; mailbox n is VFN n's. -/
structure Mailbox where
  id : Nat
  conn : Nat := 0
  hash : Sha := {}
  sessions : List Session := []
  deriving DecidableEq, Repr

/-- Harbour's answer to a TDISP request (R375, R378). -/
inductive TdispMsg where
  | locked (nonce : BitVec 256)
  | started
  | stopped
  | state (code : Nat)
  | invalidInterfaceState
  | invalidNonce
  deriving DecidableEq, Repr

/-- What the package sends out: completions and messages on the host ports, messages of the mailboxes, flits. -/
inductive Out where
  | msix (vd vec : Nat)
  | notice (vd source : Nat)
  | completion (fn : Nat) (data : List Byte) (poisoned : Bool)
  | unsupported (fn : Nat)
  | malformed (fn : Nat)
  | posted (port : Nat) (haddr : Nat) (data : List Byte) (tbit poisoned : Bool)
  | request (tag port haddr size : Nat) (tbit : Bool)
  | hostAtomic (tag port haddr size kind : Nat) (x cmp : Nat) (tbit : Bool)
  | atsRequest (tag port fn haddr : Nat)
  | zeroRead (tag port : Nat)
  /-- What the TLP before it is on an IDE stream (R379, R394): its stream, sub-stream, K bit and counter, and its payload encrypted
  with the MAC behind it. -/
  | ide (stream sub set counter : Nat) (wire : List Byte)
  | atsInvalidated (port lo hi : Nat)
  | resetDone (fn : Nat)
  | spdm (mb : Nat) (msg : List Byte)
  | tdisp (vd : Nat) (msg : TdispMsg)
  | ideKm (stream code : Nat)
  /-- A flit on a port: its fields (R395), the IV under which its bytes 16 to 239 are encrypted, and those bytes encrypted with the
  MAC behind them. -/
  | flit (port key drank srank typ addr tag : Nat) (data : BitVec 1024) (be : BitVec 128) (fev few : BitVec 16) (iv : BitVec 96)
    (wire : List Byte)
  | replayFlit (port : Nat)
  deriving DecidableEq, Repr

/-- A received flit that waits for a host page of its target VD (R366): whether it is a PUT's, its Translation Request, and
whether that was denied. -/
structure HeldFlit where
  flit : Flit
  put : Bool
  tag : Option Nat
  denied : Bool := false
  deriving DecidableEq, Repr

/-- A posted write that waits for its translation, or behind one that does (R366, R367): its aperture, its port, its untranslated
host address, its stream and whether the aperture has ATS, its bytes, whether they are poisoned (R423), its Translation Request, who
made it, and whether a shoot-down waits for it (R364). -/
structure PostWait where
  vd : Nat
  ap : Nat
  port : Nat
  haddr : Nat
  stream : Nat
  ats : Bool
  n : Nat
  v : Nat
  ep : Bool := false
  tag : Option Nat := none
  by_ : PostBy := {}
  old : Bool := false
  deriving DecidableEq, Repr

/-! ## The whole package -/

/-- The issue group being performed (R279): its threads, their PC, the word, and whether it is a round group (R127). -/
structure Group where
  refs : List TRef := []
  pc : DWord := 0
  word : Nat := 0
  round : Bool := false
  deriving DecidableEq, Repr

/-- The clocks (R4, R22): the core cycles of die A and die B, the service cycles, the remainders that couple them, and
whether each die's clock has a cycle in the current period. -/
structure Clocks where
  goA : Bool := true
  goB : Bool := true
  a : Nat := 0
  b : Nat := 0
  svc : Nat := 0
  rem : Nat := 0
  remA : Nat := 0
  remB : Nat := 0
  deriving DecidableEq, Repr

/-- The state of the package. `poison` holds the machine addresses of the poisoned sectors of HBM, `l2bad` those of the 8-byte words
whose copy in the array of their home slice is poisoned (R423).

Fields that are the model's own and not the spec's: `agenda` (the inputs and due steps, in the order they happen),
`cursor` (the sub-core that picks next), `group` (the group the step issues), `seq` (a counter for identifiers and for
the index of free values), `held` (received flits that wait for a host translation, presented again by the next tick). `ringLast`
is the ring that a Harbour core took last (R330); `parting` the SET_PART calls and `retiring` the quads that wait for halts (R318,
R319); `deadSeals` the seal slots that are unusable until a cold reset (R374); `issued` the sub-cores that
have issued a group in the current cycle, and `compared` those whose slot a shadow has taken (R426). -/
structure State where
  clk : Clocks
  agenda : List Event
  cursor : Nat
  group : Group
  seq : Nat
  mem : List Host.Cell
  empties : List Nat
  poison : List Nat
  l2bad : List Nat
  touched : List (BitVec 1024)
  cores : List Core
  far : List (Nat × CLine)
  quayTlb : List (Nat × TlbEntry)
  wbufs : List WBuf
  slices : List Slice
  threads : List Thread
  bundles : List Bundle
  blocks : List Block
  gangs : List Gang
  kernels : List Kernel
  bars : List BarState
  cmds : List Cmd
  shadows : List ShadowEntry
  feq : List FeWait
  vds : List Vd
  parts : List Part
  remap : List Remap
  owner : List Own
  quads : List QuadSched
  ports : List Port
  reqs : List HostReq
  streams : List Stream
  hdm : List Hdm
  scrub : List ScrubJob
  ecc : List EccEntry
  engs : List EngCtl
  moves : List Move
  boot : Boot
  mons : Monitors
  mailboxes : List Mailbox
  out : List Out
  held : List HeldFlit
  posts : List PostWait
  parting : List CallSlot
  retiring : List Nat
  ringLast : Nat
  deadSeals : List Nat
  issued : List Nat
  compared : List Nat
  deriving DecidableEq, Repr

/-- Harbour's fixed VD table entry (R322), with the physical function's control page (R326) and interrupt entries, whose OWNER
is HOST as for any VD that is not confidential (R332; log entry 46). -/
def Vd.harbour : Vd := { id := 0, vstate := 2, svcw := 0, irqs := List.replicate 16 { owner := 1 } }

/-- The machine right after a cold reset, before measured boot: no partition, no VD, nothing resident, every table at
its reset value. HBM bytes read as zero and FULL, as the boot's scrub leaves them (R381, R435); every touched bit is
set (R381); physical quad 15 of each die is the disabled one (log entry 4). -/
def State.reset : State where
  clk := {}
  agenda := []
  cursor := 0
  group := {}
  seq := 1
  mem := []
  empties := []
  poison := []
  l2bad := []
  touched := List.replicate 256 (BitVec.allOnes 1024)
  cores := List.replicate 128 {}
  far := []
  quayTlb := []
  wbufs := []
  slices := []
  threads := []
  bundles := []
  blocks := []
  gangs := []
  kernels := []
  bars := []
  cmds := []
  shadows := []
  feq := []
  vds := [Vd.harbour]
  parts := List.replicate 16 {}
  remap := (List.replicate 15 {} ++ [{ state := 1 }]) ++ (List.replicate 15 {} ++ [{ state := 1 }])
  owner := List.replicate 256 {}
  quads := List.replicate 32 {}
  ports := List.replicate 4 {}
  reqs := []
  streams := []
  hdm := []
  scrub := List.replicate 4 {}
  ecc := List.replicate 256 {}
  engs := []
  moves := []
  boot := {}
  mons := {}
  mailboxes := []
  out := []
  held := []
  posts := []
  parting := []
  retiring := []
  ringLast := 0
  deadSeals := []
  issued := []
  compared := []

end Sys2Proof.Machine
end

