-- ==== Sys2Proof/Machine/Find.lean ====
section
/-! DEFINITION. Reading and updating one record of the state: a thread, a bundle, a block, a virtual device and so on.
A reader of a record that does not exist answers a blank one; an update of it changes nothing. -/

/-- A list with one element put into its place: before the first it must precede. -/
def List.placeInOrder {α : Type} (le : α → α → Bool) (a : α) : List α → List α
  | [] => [a]
  | b :: r => if le a b then a :: b :: r else b :: List.placeInOrder le a r

/-- A list in the given order; equal elements keep the order they stood in. -/
def List.inOrder {α : Type} (l : List α) (le : α → α → Bool) : List α := l.foldr (List.placeInOrder le) []

namespace Sys2Proof.Machine

/-! ## Threads and bundles -/

/-- The thread `t`; a blank exited one when there is none. -/
def State.th (s : State) (t : TRef) : Thread :=
  (s.threads.find? fun x => x.ref == t).getD { ref := t, park := .exited }

/-- Whether the thread exists and has not exited. -/
def State.live (s : State) (t : TRef) : Bool := (s.th t).park != .exited

/-- The state with the thread `t` changed. -/
def State.modTh (s : State) (t : TRef) (f : Thread → Thread) : State :=
  { s with threads := s.threads.map fun x => if x.ref == t then f x else x }

/-- Bundle `idx` of block `blk`. -/
def State.bu (s : State) (blk idx : Nat) : Bundle :=
  (s.bundles.find? fun x => x.blk == blk && x.idx == idx).getD { blk := blk, idx := idx }

/-- A thread's bundle. -/
def State.buOf (s : State) (t : TRef) : Bundle := s.bu t.blk t.bun

/-- The state with one bundle changed. -/
def State.modBu (s : State) (blk idx : Nat) (f : Bundle → Bundle) : State :=
  { s with bundles := s.bundles.map fun x => if x.blk == blk && x.idx == idx then f x else x }

/-- The threads of a bundle, in the list's order. -/
def State.threadsOf (s : State) (blk idx : Nat) : List Thread :=
  s.threads.filter fun x => x.ref.blk == blk && x.ref.bun == idx

/-! ## Blocks, gangs, kernels -/

def State.bk (s : State) (id : Nat) : Block :=
  (s.blocks.find? fun x => x.id == id).getD
    { id := id, kernel := 0, n := 0, gang := 0, gangIdx := 0, vd := 0, core := 0, quad := 0 }

def State.hasBk (s : State) (id : Nat) : Bool := s.blocks.any fun x => x.id == id

def State.modBk (s : State) (id : Nat) (f : Block → Block) : State :=
  { s with blocks := s.blocks.map fun x => if x.id == id then f x else x }

def State.ga (s : State) (id : Nat) : Gang :=
  (s.gangs.find? fun x => x.id == id).getD
    { id := id, kernel := 0, ticket := 0, quad := 0, size := 0, started := false }

/-- Whether a gang is live, so that its blocks' ticket is not retired (R372). -/
def State.hasGa (s : State) (id : Nat) : Bool := s.gangs.any fun x => x.id == id

def State.modGa (s : State) (id : Nat) (f : Gang → Gang) : State :=
  { s with gangs := s.gangs.map fun x => if x.id == id then f x else x }

def State.ke (s : State) (id : Nat) : Kernel :=
  (s.kernels.find? fun x => x.id == id).getD { id := id, vd := 0, q := 0, pkt := 0, home := 0 }

def State.hasKe (s : State) (id : Nat) : Bool := s.kernels.any fun x => x.id == id

def State.modKe (s : State) (id : Nat) (f : Kernel → Kernel) : State :=
  { s with kernels := s.kernels.map fun x => if x.id == id then f x else x }

/-- A thread's block, kernel, virtual device and core. -/
def State.bkOf (s : State) (t : TRef) : Block := s.bk t.blk
def State.keOf (s : State) (t : TRef) : Kernel := s.ke (s.bk t.blk).kernel
def State.vdOf (s : State) (t : TRef) : Nat := (s.bk t.blk).vd
def State.coreOf (s : State) (t : TRef) : Nat := (s.bk t.blk).core

/-! ## Cores, virtual devices, commands -/

def State.co (s : State) (c : Nat) : Core := s.cores.getD c {}

def State.modCo (s : State) (c : Nat) (f : Core → Core) : State := { s with cores := s.cores.modify c f }

def State.vd (s : State) (id : Nat) : Vd := (s.vds.find? fun x => x.id == id).getD { id := id }

def State.hasVd (s : State) (id : Nat) : Bool := s.vds.any fun x => x.id == id

def State.modVd (s : State) (id : Nat) (f : Vd → Vd) : State :=
  { s with vds := s.vds.map fun x => if x.id == id then f x else x }

def State.cmd (s : State) (id : Nat) : Cmd :=
  (s.cmds.find? fun x => x.id == id).getD
    { id := id, eng := .scrub, cls := 0, fn := 0, vd := 0, blk := 0, bun := 0, lane := 0, st := .done }

def State.hasCmd (s : State) (id : Nat) : Bool := s.cmds.any fun x => x.id == id

def State.modCmd (s : State) (id : Nat) (f : Cmd → Cmd) : State :=
  { s with cmds := s.cmds.map fun x => if x.id == id then f x else x }

/-- A queue of a virtual device (R297); one never touched holds its reset values. -/
def Vd.queue (v : Vd) (q : Nat) : UQueue := ((v.queues.find? fun x => x.1 == q).map (·.2)).getD {}

/-- The list with the value under a key set, in its place or at the end. -/
def assocSet {α : Type} (k : Nat) (a : α) : List (Nat × α) → List (Nat × α)
  | [] => [(k, a)]
  | (k', b) :: r => if k' == k then (k, a) :: r else (k', b) :: assocSet k a r

/-- The value under a key. -/
def assocGet {α : Type} (k : Nat) (l : List (Nat × α)) : Option α := (l.find? fun x => x.1 == k).map (·.2)

def Vd.setQueue (v : Vd) (q : Nat) (u : UQueue) : Vd := { v with queues := assocSet q u v.queues }

def State.queue (s : State) (vd q : Nat) : UQueue := (s.vd vd).queue q

def State.modQueue (s : State) (vd q : Nat) (f : UQueue → UQueue) : State :=
  s.modVd vd fun v => v.setQueue q (f (v.queue q))

/-- A control page (R326): a VD's own, or the physical function's for ring 0. -/
def State.ctl (s : State) (ring : Nat) : Control := (s.vd ring).ctl

def State.modCtl (s : State) (ring : Nat) (f : Control → Control) : State :=
  s.modVd ring fun v => { v with ctl := f v.ctl }

def State.push (s : State) (e : Event) : State := { s with agenda := s.agenda ++ [e] }

/-- The state with something sent out of the package. -/
def State.emit (s : State) (o : Out) : State := { s with out := s.out ++ [o] }

/-- The next identifier, and the state with the counter advanced. -/
def State.fresh (s : State) : Nat × State := (s.seq, { s with seq := s.seq + 1 })

/-! ## Numbers of quads, cores and dies -/

/-- The die of a core, and of a machine address (R8, R14). -/
def dieOfCore (c : Nat) : Nat := c / 64
def dieOfMa (ma : Nat) : Nat := ma / 2 ^ 38

/-- The index of a core's quad in `State.quads` and the remap table: 16 × die + physical quad (R317). -/
def quadOfCore (c : Nat) : Nat := c / 4

/-- The remap entry of a quad. -/
def State.rmap (s : State) (quad : Nat) : Remap := s.remap.getD quad {}

/-- The physical quad that carries logical quad `k` of a partition (R318). -/
def State.physQuad (s : State) (part k : Nat) : Option Nat :=
  (List.range 32).find? fun q => (s.rmap q).assigned && (s.rmap q).part == part && (s.rmap q).lquad == k

/-- The cycles of a die's core clock (R22). -/
def State.cycles (s : State) (die : Nat) : Nat := if die == 0 then s.clk.a else s.clk.b

/-- The VDs whose block runs on a core: the quad's VD (R310). -/
def State.quadVd (s : State) (quad : Nat) : Option Nat := (s.quads.getD quad {}).vd

/-- Whether a block runs: placed in full on its core, and not halted (R310, R311). -/
def State.running (s : State) (blk : Nat) : Bool := s.hasBk blk && !(s.bk blk).halted

end Sys2Proof.Machine
end

