-- ==== Sys2Proof/Machine/Memory.lean ====
section
/-! DEFINITION. Bytes, full/empty bits and poison of the two kinds of memory that every party reaches: device memory at
its home slices and the scratchpad arrays (R15, R46, R188, R235, R423), with the line monitors (R233), the touched
bitmap (R381) and the charges of the Groyne meters (R334). -/

namespace Sys2Proof.Machine

/-! ## Cells: a sorted list of nonzero bytes -/

/-- The byte at an address; 0 when no cell lists it (log entry 2). -/
def cellGet : List Host.Cell → Nat → Byte
  | [], _ => 0
  | (k, b) :: r, a => if a < k then 0 else if a = k then b else cellGet r a

/-- The cells with one byte written, in canonical form. -/
def cellSet : List Host.Cell → Nat → Byte → List Host.Cell
  | [], a, v => if v = 0 then [] else [(a, v)]
  | (k, b) :: r, a, v =>
    if a < k then (if v = 0 then (k, b) :: r else (a, v) :: (k, b) :: r)
    else if a = k then (if v = 0 then r else (a, v) :: r)
    else (k, b) :: cellSet r a v

/-- The canonical form: addresses strictly rising, no byte equal to what an unlisted address reads as. -/
def Memory.wf : List Host.Cell → Bool
  | [] => true
  | [(_, b)] => b != 0
  | (k, b) :: (k', b') :: r => k < k' && b != 0 && Memory.wf ((k', b') :: r)

/-- `n` bytes from an address on, little-endian (R6). -/
def readCells (m : List Host.Cell) : Nat → Nat → Nat
  | _, 0 => 0
  | a, n + 1 => (cellGet m a).toNat + 256 * readCells m (a + 1) n

/-- `n` bytes written from an address on, little-endian. -/
def writeCells (m : List Host.Cell) : Nat → Nat → Nat → List Host.Cell
  | _, 0, _ => m
  | a, n + 1, v => writeCells (cellSet m a (BitVec.ofNat 8 v)) (a + 1) n (v / 256)

/-- The cells with `[lo, hi)` zeroed. -/
def zeroCells (m : List Host.Cell) (lo hi : Nat) : List Host.Cell := m.filter fun c => c.1 < lo || hi ≤ c.1

/-- The bytes of a little-endian number, and back. -/
def natBytes : Nat → Nat → List Byte
  | 0, _ => []
  | n + 1, v => BitVec.ofNat 8 v :: natBytes n (v / 256)

def bytesNat : List Byte → Nat
  | [] => 0
  | b :: r => b.toNat + 256 * bytesNat r

/-- Insertion into, and removal from, a sorted list of numbers. -/
def setIns (a : Nat) : List Nat → List Nat
  | [] => [a]
  | b :: r => if a < b then a :: b :: r else if a = b then b :: r else b :: setIns a r

def setDel (a : Nat) (l : List Nat) : List Nat := l.filter (· != a)

/-! ## Monitors (R233) -/

/-- A write to a line latches an event in every thread whose armed monitor watches it. -/
def State.latch (s : State) (k : MonKey) : State :=
  { s with threads := s.threads.map fun x =>
      match x.monitor with
      | some m => if m.key == k then { x with monitor := some { m with event := true } } else x
      | none => x }

/-- A line that leaves a core's L1 latches an event in the threads of that core that watch it. -/
def State.latchCore (s : State) (core vd line : Nat) : State :=
  { s with threads := s.threads.map fun x =>
      match x.monitor with
      | some m =>
        if m.key == .dev vd line && (s.bk x.ref.blk).core == core then { x with monitor := some { m with event := true } }
        else x
      | none => x }

/-- Halting a thread latches an event in its monitor. -/
def latchOwn (x : Thread) : Thread :=
  match x.monitor with
  | some m => { x with monitor := some { m with event := true } }
  | none => x

/-! ## Device memory at its home slices -/

/-- The home slice of a machine address on its die (R16). -/
def sliceOf (ma : Nat) : Nat :=
  (bitsOf ma 12 7 ^^^ bitsOf ma 18 13 ^^^ bitsOf ma 24 19 ^^^ bitsOf ma 30 25 ^^^ bitsOf ma 36 31) ^^^ bitsOf ma 37 37

/-- The HBM stack of its die that holds a machine address's line (R14). It names a place, and no rule's effect depends on it. -/
def stackOf (ma : Nat) : Nat := bitsOf ma 14 13 ^^^ bitsOf ma 8 7

/-- The bank of a core's SRAM array that holds a byte (R12). A conflict between the words of a group only takes cycles, which the
model does not count (log entry 19). -/
def bankOf (x : Nat) : Nat := bitsOf x 10 3

/-- The touched bit of the 2 MiB unit of an address set (R381). -/
def State.touch (s : State) (ma : Nat) : State :=
  { s with touched := s.touched.modify (ma / 2 ^ 31) fun b => b ||| (1 <<< (ma / 2 ^ 21 % 1024)) }

/-- Whether a poisoned sector, or a poisoned word of the home slice's array, holds some byte of `[ma, ma + n)` (R423). -/
def State.devPoisoned (s : State) (ma n : Nat) : Bool :=
  (s.poison.any fun p => p < ma + n && ma < p + 64) || s.l2bad.any fun p => p < ma + n && ma < p + 8

/-- Bytes read at the home slice. -/
def State.homeRead (s : State) (ma n : Nat) : Nat := readCells s.mem ma n

/-- Bytes written at the home slice of GPA `gpa` of `vd`: the monitors of the line latch. -/
def State.homeWrite (s : State) (vd gpa ma n v : Nat) : State :=
  ({ s with mem := writeCells s.mem ma n v }.touch ma).latch (.dev vd (gpa / 128))

/-- The full/empty bit of the word that holds an address (R6, R235): true when FULL. -/
def State.feDev (s : State) (ma : Nat) : Bool := !s.empties.contains (ma / 8 * 8)

def State.setFeDev (s : State) (ma : Nat) (full : Bool) : State :=
  { s with empties := if full then setDel (ma / 8 * 8) s.empties else setIns (ma / 8 * 8) s.empties }.touch ma

/-- Whether `[ma, ma + n)` covers a unit of `k` bytes whole. -/
def covers (ma n p k : Nat) : Bool := ma ≤ p && p + k ≤ ma + n

/-- The poison of every sector and array word that a write of `[ma, ma + n)` covers whole cleared: their words become FULL (R423). -/
def State.clearWhole (s : State) (ma n : Nat) : State :=
  if s.devPoisoned ma n then
    let fresh (a : Nat) : Bool :=
      (s.poison.any fun p => covers ma n p 64 && p ≤ a && a < p + 64) || (covers ma n a 8 && s.l2bad.contains a)
    { s with poison := s.poison.filter fun p => !covers ma n p 64
             l2bad := s.l2bad.filter fun p => !covers ma n p 8
             empties := s.empties.filter fun a => !fresh a }
  else s

/-- The sector of an address, written whole. -/
def State.clearSector (s : State) (ma : Nat) : State := s.clearWhole (ma / 64 * 64) 64

/-- Whether `[ma, ma + n)` holds some but not all bytes of a poisoned sector or array word. -/
def State.devPartly (s : State) (ma n : Nat) : Bool :=
  (s.poison.any fun p => p < ma + n && ma < p + 64 && !covers ma n p 64) ||
    s.l2bad.any fun p => p < ma + n && ma < p + 8 && !covers ma n p 8

/-- `[ma, ma + len)` zeroed with every word FULL and no poison (R381). -/
def State.scrubRange (s : State) (ma len : Nat) : State :=
  { s with mem := zeroCells s.mem ma (ma + len)
           empties := s.empties.filter fun a => a < ma || ma + len ≤ a
           poison := s.poison.filter fun a => a < ma || ma + len ≤ a
           l2bad := s.l2bad.filter fun a => a < ma || ma + len ≤ a }

/-! ## Scratchpad arrays -/

def State.scrRead (s : State) (blk off n : Nat) : Nat := readCells (s.bk blk).mem off n

def State.scrPoisoned (s : State) (blk off n : Nat) : Bool :=
  (s.bk blk).poison.any fun p => p < off + n && off < p + 8

/-- Bytes written at the array: the monitors of the aligned 128 bytes latch, and a whole word written loses its poison
and becomes FULL (R233, R423). -/
def State.scrWrite (s : State) (blk off n v : Nat) : State :=
  let whole (p : Nat) : Bool := off ≤ p && p + 8 ≤ off + n && (s.bk blk).poison.contains p
  (s.modBk blk fun b =>
    { b with mem := writeCells b.mem off n v
             empties := b.empties.filter fun p => !whole p
             poison := b.poison.filter fun p => !whole p }).latch (.scr blk (off / 128))

def State.feScr (s : State) (blk off : Nat) : Bool := !(s.bk blk).empties.contains (off / 8 * 8)

def State.setFeScr (s : State) (blk off : Nat) (full : Bool) : State :=
  s.modBk blk fun b =>
    { b with empties := if full then setDel (off / 8 * 8) b.empties else setIns (off / 8 * 8) b.empties }

/-! ## Groyne meters (R334, R335) -/

/-- The state with the meter of a home slice changed; one that has served nothing yet is idle. -/
def State.modSlice (s : State) (die sl : Nat) (f : Slice → Slice) : State :=
  if s.slices.any fun x => x.die == die && x.slice == sl then
    { s with slices := s.slices.map fun x => if x.die == die && x.slice == sl then f x else x }
  else
    { s with slices := s.slices ++
        [f { die := die, slice := sl, tok := [], waiting := [], last := 0, idle := true, served := false }] }

/-- A request joins its slice's waiting requests, metered or not; GROYNE_SERVE serves it and takes its token. The access itself
is made at once: a meter only delays (log entry 17). -/
def State.charge (s : State) (vd ma : Nat) : State :=
  s.modSlice (dieOfMa ma) (sliceOf ma) fun x => { x with waiting := x.waiting ++ [vd] }

/-- One request for each line of `n` bytes. -/
def State.chargeLines (s : State) (vd ma n : Nat) : State :=
  (List.range ((ma + n - 1) / 128 - ma / 128 + 1)).foldl (fun (s : State) k => s.charge vd (ma + 128 * k)) s

/-- A VD's tokens at a slice; BURST before the first request (SET_METER sets TOK to BURST, R328). -/
def Slice.tokens (x : Slice) (v : Vd) : Int := (assocGet v.id x.tok).getD v.burst

/-- The waiting requests of a VD at every slice served ahead of all others, each with its token: those that a shoot-down waits on
(R335). -/
def State.serveWaiting (s : State) (vd : Nat) : State :=
  { s with slices := s.slices.map fun x =>
      let n := x.waiting.countP (· == vd)
      if n == 0 then x
      else
        { x with
          waiting := x.waiting.filter (· != vd)
          tok := if (s.vd vd).rate == 0 then x.tok else assocSet vd (x.tokens (s.vd vd) - n) x.tok
          served := true } }

/-- A request that is never held is served at once, and takes its token where its VD is metered (R335). -/
def State.chargeNow (s : State) (vd ma : Nat) : State :=
  s.modSlice (dieOfMa ma) (sliceOf ma) fun x =>
    { x with
      tok := if (s.vd vd).rate == 0 then x.tok else assocSet vd (x.tokens (s.vd vd) - 1) x.tok
      served := true }

/-- An operation whose write-backs and invalidations are not metered: those of a halt, a reset, a destroy or a shoot-down
(R335). -/
def State.unmetered (s : State) (f : State → State) : State := { f s with slices := s.slices }

end Sys2Proof.Machine
end

