-- ==== Sys2Proof/Machine/Aead.lean ====
section
/-! DEFINITION. AES-256-GCM, which the spec names for sealed pages (R361), Longshore flits (R395) and secured sessions (R384), as
FIPS 197 and SP 800-38D define it (PRESUMED, log entry 8). Blocks are lists of 16 bytes as numbers below 256; a number stands for its
bytes from the most significant on. -/

namespace Sys2Proof.Machine

/-! ## AES-256 -/

/-- The S-box, 32 bytes to a row: byte `i` of row `k` is the image of `32 k + i`. -/
def aesRows : List Nat :=
  [0xc072a49cafa2d4adf04759fa7dc982ca76abd7fe2b670130c56f6bf27b777c63,
    0x75b227ebe28012079a059618c323c7041531d871f1e5a534ccf73f362693fdb7,
    0xcf584c4a39becb6a5bb1fc20ed00d153842fe329b3d63b52a05a6e1b1a2c8309,
    0xd2f3ff1021dab6bcf5389d928f40a351a89f3c507f02f94585334d43fbaaefd0] ++
  [0xdb0b5ede14b8ee4688902a22dc4f816073195d643d7ea7c41744975fec130ccd,
    0x08ae7a65eaf4566ca94ed58d6d37c8e779e4959162acd3c25c2406490a3a32e0,
    0x9e1dc186b95735610ef6034866b53e708a8bbd4b1f74dde8c6b4a61c2e2578ba,
    0x16bb54b00f2d99416842e6bf0d89a18cdf2855cee9871e9b948ed9691198f8e1]

def aesSub (x : Nat) : Nat := aesRows.getD (x / 32) 0 / 2 ^ (8 * (x % 32)) % 256

/-- Twice a byte in the field of AES. -/
def aesTwice (x : Nat) : Nat := if x < 128 then 2 * x else (2 * x) ^^^ 0x11B

def xorBytes : List Nat → List Nat → List Nat := List.zipWith (· ^^^ ·)

/-- The rows of a block shifted: row `r`, every fourth byte from `r` on, by `r` columns. -/
def aesShift (b : List Nat) : List Nat := (List.range 16).map fun i => b.getD ((i + 4 * (i % 4)) % 16) 0

/-- One column mixed. -/
def aesMix (a b c d : Nat) : List Nat :=
  let e := a ^^^ b ^^^ c ^^^ d
  [a ^^^ e ^^^ aesTwice (a ^^^ b), b ^^^ e ^^^ aesTwice (b ^^^ c), c ^^^ e ^^^ aesTwice (c ^^^ d), d ^^^ e ^^^ aesTwice (d ^^^ a)]

def aesMixAll : List Nat → List Nat
  | a :: b :: c :: d :: r => aesMix a b c d ++ aesMixAll r
  | _ => []

/-- The next word of the key schedule, from the words so far, newest first. -/
def aesNextWord (ws : List (List Nat)) : List Nat :=
  let i := ws.length
  let last := ws.headD []
  let old := ws.getD 7 []
  if i % 8 == 0 then xorBytes old (xorBytes ((last.drop 1 ++ last.take 1).map aesSub) [2 ^ (i / 8 - 1), 0, 0, 0])
  else if i % 8 == 4 then xorBytes old (last.map aesSub)
  else xorBytes old last

/-- A list in pieces of `n`, at most `fuel` of them. -/
def inPieces {α : Type} (n : Nat) : Nat → List α → List (List α)
  | 0, _ => []
  | fuel + 1, l => if l.isEmpty then [] else l.take n :: inPieces n fuel (l.drop n)

/-- The 15 round keys of a 32-byte key. -/
def aesKeys (key : List Nat) : List (List Nat) :=
  let ws := (List.range 52).foldl (fun ws _ => aesNextWord ws :: ws) (inPieces 4 8 key).reverse
  inPieces 16 15 ws.reverse.flatten

/-- One block encrypted under round keys. -/
def aesBlock (keys : List (List Nat)) (b : List Nat) : List Nat :=
  match keys with
  | [] => b
  | k :: r => go r (xorBytes b k)
where
  go : List (List Nat) → List Nat → List Nat
    | [], b => b
    | [k], b => xorBytes (aesShift (b.map aesSub)) k
    | k :: r, b => go r (xorBytes (aesMixAll (aesShift (b.map aesSub))) k)

/-! ## GCM -/

/-- A number's bytes from the most significant on, and back. -/
def bigBytes (n v : Nat) : List Nat := ((natBytes n v).map (·.toNat)).reverse
def bigNat (l : List Nat) : Nat := l.foldl (fun v b => 256 * v + b) 0

/-- The product of two elements of the field of GHASH; `n` bits of `x` are left. -/
def ghashMul (x : Nat) : Nat → Nat → Nat → Nat
  | 0, _, z => z
  | n + 1, v, z =>
    ghashMul x n (if v % 2 == 1 then (v / 2) ^^^ (0xE1 * 2 ^ 120) else v / 2) (if x.testBit n then z ^^^ v else z)

/-- GHASH of blocks given as numbers. -/
def ghash (h : Nat) (blocks : List Nat) : Nat := blocks.foldl (fun y x => ghashMul (y ^^^ x) 128 h 0) 0

/-- Bytes as blocks, the last padded with zeros. -/
def gcmBlocks (l : List Nat) : List Nat :=
  (inPieces 16 (l.length / 16 + 1) l).map fun b => bigNat (b ++ List.replicate (16 - b.length) 0)

/-- The keystream over a text, from counter 2 on. -/
def gcmText (keys : List (List Nat)) (iv : Nat) (l : List Nat) : List Nat :=
  ((inPieces 16 (l.length / 16 + 1) l).zipIdx.map fun b =>
    xorBytes b.1 (aesBlock keys (bigBytes 16 (iv * 2 ^ 32 + (b.2 + 2) % 2 ^ 32)))).flatten

/-- The tag of a ciphertext with its AAD. -/
def gcmTag (keys : List (List Nat)) (iv : Nat) (aad ct : List Nat) : Nat :=
  let h := bigNat (aesBlock keys (List.replicate 16 0))
  let s := ghash h (gcmBlocks aad ++ gcmBlocks ct ++ [8 * aad.length * 2 ^ 64 + 8 * ct.length])
  s ^^^ bigNat (aesBlock keys (bigBytes 16 (iv * 2 ^ 32 + 1)))

def byteNats (l : List Byte) : List Nat := l.map (·.toNat)

/-- The ciphertext and tag of a plaintext. -/
def gcmSeal (key : BitVec 256) (iv : BitVec 96) (aad pt : List Byte) : List Byte × BitVec 128 :=
  let keys := aesKeys (bigBytes 32 key.toNat)
  let ct := gcmText keys iv.toNat (byteNats pt)
  (ct.map (BitVec.ofNat 8), BitVec.ofNat 128 (gcmTag keys iv.toNat (byteNats aad) ct))

/-- The plaintext of a ciphertext, and the tag that it must carry. -/
def gcmOpen (key : BitVec 256) (iv : BitVec 96) (aad ct : List Byte) : List Byte × BitVec 128 :=
  let keys := aesKeys (bigBytes 32 key.toNat)
  ((gcmText keys iv.toNat (byteNats ct)).map (BitVec.ofNat 8),
    BitVec.ofNat 128 (gcmTag keys iv.toNat (byteNats aad) (byteNats ct)))

end Sys2Proof.Machine
end

