-- ==== Sys2Proof/Machine/Cache.lean ====
section
/-! DEFINITION. The caches that are not coherent: each core's L1 and each die's far partition (R188 to R190), with
filling, dirty bytes, write-back and invalidation, and the accesses performed at each point. -/

namespace Sys2Proof.Machine

/-! ## Lines -/

/-- The bytes `[off, off + n)` of a line as a mask. -/
def maskOf (off n : Nat) : BitVec 128 := BitVec.ofNat 128 ((2 ^ n - 1) * 2 ^ off)

/-- A byte mask spread over the bits of the line. -/
def spreadMask (m : BitVec 128) : BitVec 1024 :=
  (List.range 128).foldl (fun acc i => if m.getLsbD i then acc ||| (0xFF#1024 <<< (8 * i)) else acc) 0

/-- `n` bytes of a line. -/
def lineGet (d : BitVec 1024) (off n : Nat) : Nat := d.toNat / 2 ^ (8 * off) % 2 ^ (8 * n)

/-- `n` bytes of a line replaced. -/
def linePut (d : BitVec 1024) (off n v : Nat) : BitVec 1024 :=
  (d &&& ~~~ (BitVec.ofNat 1024 ((2 ^ (8 * n) - 1) * 2 ^ (8 * off)))) |||
    BitVec.ofNat 1024 (v % 2 ^ (8 * n) * 2 ^ (8 * off))

def CLine.has (l : CLine) (off n : Nat) : Bool := l.valid &&& maskOf off n == maskOf off n

/-- The 8-byte words that `[off, off + n)` covers whole. -/
def wordsIn (off n : Nat) : BitVec 16 :=
  let lo := (off + 7) / 8
  BitVec.ofNat 16 ((2 ^ ((off + n) / 8 - lo) - 1) * 2 ^ lo)

/-- The 8-byte words that hold some byte of a mask. -/
def wordsOfMask (m : BitVec 128) : BitVec 16 :=
  (List.range 16).foldl (fun w k => if m &&& maskOf (8 * k) 8 != 0 then w ||| BitVec.ofNat 16 (2 ^ k) else w) 0

/-- A write performed in the cache: the bytes are present and dirty; a word written whole loses its poison. -/
def CLine.write (l : CLine) (off n v : Nat) : CLine :=
  { l with data := linePut l.data off n v, valid := l.valid ||| maskOf off n, dirty := l.dirty ||| maskOf off n
           poison := l.poison &&& ~~~ (wordsIn off n) }

/-- The line filled whole with what the next point holds, keeping its dirty bytes (R189). -/
def CLine.fillFrom (l : CLine) (d : BitVec 1024) (poison : BitVec 16) : CLine :=
  let m := spreadMask l.dirty
  { l with data := (l.data &&& m) ||| (d &&& ~~~ m), valid := BitVec.allOnes 128, poison := l.poison ||| poison, fill := 0 }

/-- Whether a line holds every byte. -/
def CLine.full (l : CLine) : Bool := l.valid == BitVec.allOnes 128

/-- Whether `[off, off + n)` of a line meets a poisoned word of a mask. -/
def badIn (poison : BitVec 16) (off n : Nat) : Bool :=
  poison &&& BitVec.ofNat 16 ((2 ^ ((off + n - 1) / 8 - off / 8 + 1) - 1) * 2 ^ (off / 8)) != 0

/-- Whether it meets one that it does not cover whole (R423). -/
def badPart (poison : BitVec 16) (off n : Nat) : Bool := badIn (poison &&& ~~~ (wordsIn off n)) off n

def CLine.bad (l : CLine) (off n : Nat) : Bool := badIn l.poison off n

/-- The poisoned words whose dirty bytes a write-back sends on: poison travels with the data (R423). -/
def CLine.sentBad (l : CLine) : BitVec 16 := l.poison &&& wordsOfMask l.dirty

/-- The maximal runs of dirty bytes of a line, as (offset, length). -/
def dirtyRuns (m : BitVec 128) : List (Nat × Nat) :=
  (List.range 128).foldr (fun i acc =>
    if m.getLsbD i then
      match acc with
      | (o, n) :: r => if o == i + 1 then (i, n + 1) :: r else (i, 1) :: (o, n) :: r
      | [] => [(i, 1)]
    else acc) []

/-! ## The home slice as a source of lines -/

/-- The poisoned words of the line at `ma`. -/
def State.homePoison (s : State) (ma : Nat) : BitVec 16 :=
  (List.range 16).foldl (fun w k => if s.devPoisoned (ma + 8 * k) 8 then w ||| BitVec.ofNat 16 (2 ^ k) else w) 0

/-- The words of a mask poisoned in the array of the home slice of the line at `ma` (R423). -/
def State.homeTaint (s : State) (ma : Nat) (words : BitVec 16) : State :=
  if words == 0 then s
  else { s with l2bad := (List.range 16).foldl (fun l k => if words.getLsbD k then setIns (ma + 8 * k) l else l) s.l2bad }

def State.homeLine (s : State) (ma : Nat) : BitVec 1024 := BitVec.ofNat 1024 (s.homeRead ma 128)

/-! ## The far partitions -/

/-- The far-partition line of a die, when it holds one. -/
def State.farLine (s : State) (die vd line : Nat) : Option CLine :=
  (s.far.find? fun x => x.1 == die && x.2.vd == vd && x.2.line == line).map (·.2)

def State.setFar (s : State) (die : Nat) (l : CLine) : State :=
  { s with far := (die, l) :: s.far.filter fun x => !(x.1 == die && x.2.vd == l.vd && x.2.line == l.line) }

def State.dropFar (s : State) (die vd line : Nat) : State :=
  { s with far := s.far.filter fun x => !(x.1 == die && x.2.vd == vd && x.2.line == line) }

/-- The dirty bytes of a line written at its home slice, as one request, their poison with them (R189, R206, R423). -/
def State.homeDirty (s : State) (l : CLine) (ma : Nat) : State :=
  let s := (dirtyRuns l.dirty).foldl (fun (s : State) r =>
    (s.clearWhole (ma + r.1) r.2).homeWrite l.vd (l.line * 128) (ma + r.1) r.2 (lineGet l.data r.1 r.2)) (s.charge l.vd ma)
  s.homeTaint ma l.sentBad

/-- A far line's dirty bytes written back. -/
def State.farClean (s : State) (die : Nat) (l : CLine) : State :=
  match l.ma with
  | some ma => if l.dirty == 0 then s else (s.homeDirty l ma).setFar die { l with dirty := 0 }
  | none => s

def State.farWriteBack (s : State) (die vd line : Nat) : State :=
  match s.farLine die vd line with
  | some l => s.farClean die l
  | none => s

/-- Every far line of a VD on a die written back (R195 step 4). -/
def State.farWriteBackVd (s : State) (die vd : Nat) : State :=
  (s.far.filter fun x => x.1 == die && x.2.vd == vd).foldl (fun s x => s.farClean die x.2) s

/-- Every far line of a VD on a die invalidated, dirty bytes written back first. -/
def State.farInvalidateVd (s : State) (die vd : Nat) : State :=
  let s := s.farWriteBackVd die vd
  { s with far := s.far.filter fun x => !(x.1 == die && x.2.vd == vd) }

/-- The far lines that one home slice of a die holds: 256 KiB (R16). -/
def farSlots : Nat := 2048

/-- A slice's part of the far partition brought back to its size: the lines filled or written longest ago leave, their dirty
bytes written back (R16, R189; log entry 17). -/
def State.farFit (s : State) (die slice : Nat) : State :=
  let here := s.far.filter fun x => x.1 == die && (x.2.ma.map sliceOf) == some slice
  (here.drop farSlots).foldl (fun s x => (s.farClean die x.2).dropFar die x.2.vd x.2.line) s

/-- The far-partition line of a GPA: a miss fills the whole line from the home slice (R189). -/
def State.farFetch (s : State) (die vd gpa ma : Nat) : State × CLine :=
  let base := ma / 128 * 128
  let l0 : CLine := (s.farLine die vd (gpa / 128)).getD
    { vd := vd, line := gpa / 128, ma := some base, data := 0, valid := 0, dirty := 0 }
  if l0.full then (s, l0)
  else
    let l := l0.fillFrom (s.homeLine base) (s.homePoison base)
    (((s.charge vd ma).setFar die l).farFit die (sliceOf ma), l)

/-- A read at the die L2 point (R188): the home slice, or the far partition. The answer says whether the bytes are
poisoned. -/
def State.l2Read (s : State) (die vd gpa ma n : Nat) : State × Nat × Bool :=
  if dieOfMa ma == die then (s.charge vd ma, s.homeRead ma n, s.devPoisoned ma n)
  else
    let (s, l) := s.farFetch die vd gpa ma
    (s, lineGet l.data (gpa % 128) n, l.bad (gpa % 128) n)

/-- A whole line read at the die L2 point, with its poisoned words, for a fill. -/
def State.l2Line (s : State) (die vd gpa ma : Nat) : State × BitVec 1024 × BitVec 16 :=
  let base := ma / 128 * 128
  if dieOfMa ma == die then (s.charge vd ma, s.homeLine base, s.homePoison base)
  else
    let (s, l) := s.farFetch die vd gpa ma
    (s, l.data, l.poison)

/-- A write at the die L2 point. -/
def State.l2Write (s : State) (die vd gpa ma n v : Nat) : State :=
  if dieOfMa ma == die then ((s.charge vd ma).clearWhole ma n).homeWrite vd gpa ma n v
  else
    let (s, l) := s.farFetch die vd gpa ma
    (s.setFar die (l.write (gpa % 128) n v)).latch (.dev vd (gpa / 128))

/-- The dirty bytes of a line written at the die L2 point, as one request, their poison with them (R189, R423). -/
def State.l2Dirty (s : State) (die : Nat) (l : CLine) (ma : Nat) : State :=
  if dieOfMa ma == die then s.homeDirty l ma
  else
    let (s, far) := s.farFetch die l.vd (l.line * 128) ma
    let far := (dirtyRuns l.dirty).foldl (fun (x : CLine) r => x.write r.1 r.2 (lineGet l.data r.1 r.2)) far
    (s.setFar die { far with poison := far.poison ||| l.sentBad }).latch (.dev l.vd l.line)

/-- The poisoned words of a line as a far partition holds them, or would when filled. -/
def State.farPoison (s : State) (die vd line ma : Nat) : BitVec 16 :=
  match s.farLine die vd line with
  | some l => if l.full then l.poison else l.poison ||| s.homePoison (ma / 128 * 128)
  | none => s.homePoison (ma / 128 * 128)

/-- Whether a write at the die L2 point meets poison in a unit that it does not cover whole (R423). -/
def State.l2Bad (s : State) (die vd gpa ma n : Nat) : Bool :=
  if dieOfMa ma == die then s.devPartly ma n else badPart (s.farPoison die vd (gpa / 128) ma) (gpa % 128) n

/-! ## The L1s -/

def State.l1Line (s : State) (core vd line : Nat) : Option CLine :=
  (s.co core).l1.find? fun x => x.vd == vd && x.line == line

def State.setL1 (s : State) (core : Nat) (l : CLine) : State :=
  s.modCo core fun c => { c with l1 := l :: c.l1.filter fun x => !(x.vd == l.vd && x.line == l.line) }

/-- The untranslated host address of an aperture GPA (R351), with its port, its stream and its ATS bit. -/
def State.busAddr (s : State) (vd ap gpa : Nat) : Nat × Nat × Nat × Bool :=
  let e := (assocGet ap (s.vd vd).aps).getD {}
  (e.port, e.haddr * 2 ^ 21 + (gpa - e.gbase * 2 ^ 21), e.stream, e.ats)

/-- The address translation cache's bus page for a host address of a function (R366). -/
def State.atcFind (s : State) (port fn h : Nat) : Option Nat :=
  ((s.ports.getD port {}).atc.find? fun x => x.1 == fn && x.2.1 == h / 4096).map (·.2.2)

/-- The address that a TLP to a host address of a VD carries: translated where the aperture has ATS (R366). -/
def State.busOf (s : State) (vd port h : Nat) (ats : Bool) : Nat :=
  if ats then ((s.atcFind port (s.vd vd).vfn h).map fun b => b * 4096 + h % 4096).getD h else h

/-- The address that a request to an aperture GPA carries, with its port and stream. -/
def State.hostAddr (s : State) (vd ap gpa : Nat) : Nat × Nat × Nat :=
  let (port, h, stream, ats) := s.busAddr vd ap gpa
  (port, s.busOf vd port h ats, stream)

/-- Whether an aperture access must wait for an ATS translation (R366). -/
def State.atsMiss (s : State) (vd ap gpa : Nat) : Bool :=
  let (port, h, _, ats) := s.busAddr vd ap gpa
  ats && (s.atcFind port (s.vd vd).vfn h).isNone

/-- Whether the VD's DMA carries the T bit (R376). -/
def State.tOut (s : State) (vd : Nat) : Bool := (s.vd vd).conf && (s.vd vd).tdisp.state == 2

/-- The invocation counter of a sub-stream and direction (R379); 1 after its keys are programmed. -/
def Stream.counter (x : Stream) (sb : Nat) (rx : Bool) : Nat :=
  ((x.counters.find? fun c => c.1 == sb && c.2.1 == rx).map (·.2.2)).getD 1

/-- A counter advanced by a TLP (R379); one that would pass its end makes the stream Insecure. -/
def Stream.advance (x : Stream) (sb : Nat) (rx : Bool) : Stream :=
  let n := x.counter sb rx
  if n ≥ 2 ^ 64 - 1 then { x with secure := false, failed := true, spent := true }
  else { x with counters := (sb, rx, n + 1) :: x.counters.filter fun c => !(c.1 == sb && c.2.1 == rx) }

/-- A TLP sent (R379): a switch of key sets takes effect with it, and the new set's counters start at 1. -/
def Stream.sent (x : Stream) (sb : Nat) : Stream :=
  (match x.next with
    | some k => { x with cur := k, next := none, counters := x.counters.filter (·.2.1), noticed := false }
    | none => x).advance sb false

/-- A TLP received under a key set (R379): the first one with a new K bit starts the sub-stream's counter at 1. -/
def Stream.heard (x : Stream) (sb set : Nat) : Stream :=
  (if (assocGet sb x.rxSets).getD x.cur == set then x
    else { x with rxSets := assocSet sb set x.rxSets, counters := x.counters.filter fun c => !(c.1 == sb && c.2.1) }).advance sb true

/-- The header and the payload of a TLP, as its cipher engine takes them (R394; log entry 28). -/
def Out.tlpParts : Out → List Byte × List Byte
  | .posted _ h data t _ => (natBytes 8 h ++ natBytes 2 data.length ++ natBytes 1 t.toNat, data)
  | .request tag _ h size t => (natBytes 8 h ++ natBytes 2 size ++ natBytes 1 t.toNat ++ natBytes 2 tag, [])
  | .hostAtomic tag _ h size kind x cmp t =>
    (natBytes 8 h ++ natBytes 2 size ++ natBytes 1 t.toNat ++ natBytes 2 tag ++ natBytes 1 kind, natBytes size x ++ natBytes size cmp)
  | .atsRequest tag _ fn h => (natBytes 8 h ++ natBytes 2 fn ++ natBytes 2 tag, [])
  | .completion fn data poisoned => (natBytes 2 fn ++ natBytes 2 data.length ++ natBytes 1 poisoned.toNat, data)
  | _ => ([], [])

/-- The IDE form of a TLP about to be sent on a stream (R379, R394): the set and the counter it takes, and its payload under AES-256-GCM
with the MAC; the IV is the key's fixed part and the counter, and the AAD the header (log entry 28). -/
def Stream.sealed (x : Stream) (sb : Nat) (o : Out) : Out :=
  let n := if x.next.isSome then 1 else x.counter sb false
  let set := x.next.getD x.cur
  let (key, fixed) := match x.keys.find? fun k => k.sub == sb && !k.rx && k.set == set with
    | some k => (k.key, k.iv)
    | none => (0, 0)
  let (ct, mac) := gcmSeal key (BitVec.ofNat 96 (fixed % 2 ^ 32 * 2 ^ 64 + n)) o.tlpParts.1 o.tlpParts.2
  .ide x.id sb set n (ct ++ natBytes 16 mac.toNat)

/-- A TLP that has just been sent on a stream: where the stream is Secure it takes the next counter and travels encrypted (R379). -/
def State.sealOut (s : State) (id sb : Nat) (o : Out) : State :=
  { s with
    streams := s.streams.map fun x => if x.id == id && x.secure then x.sent sb else x
    out := s.out ++ (s.streams.filter fun x => x.id == id && x.secure).map fun x => x.sealed sb o }

/-- A TLP sent: on sub-stream 0 posted, 1 non-posted, 2 completions. -/
def State.sendTlp (s : State) (id sb : Nat) (o : Out) : State := (s.emit o).sealOut id sb o

/-- Whether a stream is Secure. -/
def State.streamSecure (s : State) (id : Nat) : Bool := s.streams.any fun x => x.id == id && x.secure

/-- Whether a confidential VD sends no DMA at all (R376). -/
def State.noDma (s : State) (vd : Nat) : Bool := (s.vd vd).conf && ((s.vd vd).tdisp.state == 1 || (s.vd vd).tdisp.state == 3)

/-- Whether a stream has become Insecure or lost its keys: nothing leaves on it, and what would is aborted (R374, R380). -/
def State.streamFailed (s : State) (id : Nat) : Bool := s.streams.any fun x => x.id == id && x.failed

/-- Whether a VD's DMA may leave on a stream (R370, R376): a confidential VD sends none in CONFIG_LOCKED and ERROR, and in RUN only on
a Secure stream. -/
def State.dmaOk (s : State) (vd stream : Nat) : Bool :=
  !s.noDma vd && (!s.tOut vd || s.streamSecure stream)

/-- Whether an ATS invalidation that is not yet answered covers a host address of a function (R367). -/
def State.atsHeld (s : State) (port fn h : Nat) : Bool :=
  (s.ports.getD port {}).invalidations.any fun x => x.1 == fn && x.2.1 ≤ h && h < x.2.2

/-- The pieces of at most 512 bytes, the Max Payload Size and Max Read Request Size (R389), of `n` bytes from an address on, each
as an offset and a length. -/
def tlpPieces (a n : Nat) : List (Nat × Nat) :=
  ((List.range (n / 512 + 2)).map fun k =>
    let lo := if k == 0 then 0 else 512 * k - a % 512
    (lo, Nat.min n (512 * (k + 1) - a % 512) - lo)).filter fun x => x.2 != 0

/-- One posted write as a TLP, where its VD's DMA may leave: elsewhere a request not yet issued is dropped (R392). -/
def State.emitPosted (s : State) (x : PostWait) : State :=
  if s.dmaOk x.vd x.stream then
    s.sendTlp x.stream 0 (.posted x.port (s.busOf x.vd x.port x.haddr x.ats) (natBytes x.n x.v) (s.tOut x.vd) x.ep)
  else s

/-- Whether a posted write cannot leave: its stream has failed, or no translation that it can use is cached, or it is being invalidated
(R366, R367, R380). -/
def State.postBlocked (s : State) (x : PostWait) : Bool :=
  s.streamFailed x.stream || x.ats && ((s.atcFind x.port (s.vd x.vd).vfn x.haddr).isNone || s.atsHeld x.port (s.vd x.vd).vfn x.haddr)

/-- Whether a posted write of a VD waits on a port; a later one, or a read, does not pass it. -/
def State.postsOn (s : State) (vd port : Nat) : Bool := s.posts.any fun x => x.vd == vd && x.port == port

/-- A posted write to an aperture address, in TLPs; one that must wait joins the waiting ones. -/
def State.sendPosted (s : State) (vd ap gpa n v : Nat) (by_ : PostBy := {}) (ep : Bool := false) : State :=
  (tlpPieces gpa n).foldl (fun s p =>
    let (port, h, stream, ats) := s.busAddr vd ap (gpa + p.1)
    let x : PostWait :=
      { vd := vd, ap := ap, port := port, haddr := h, stream := stream, ats := ats, n := p.2, v := v / 2 ^ (8 * p.1) % 2 ^ (8 * p.2)
        ep := ep, by_ := { by_ with va := by_.va + p.1 } }
    if s.postBlocked x || s.postsOn vd port then { s with posts := s.posts ++ [x] } else s.emitPosted x) s

/-- The stream number of a request outside every IDE stream. -/
def noStream : Nat := 256

/-- A posted write to host memory, noted among the ports that the core has written since its last SYS release. -/
def State.postHost (s : State) (core vd ap gpa n v : Nat) (by_ : PostBy := {}) (ep : Bool := false) : State :=
  (s.sendPosted vd ap gpa n v by_ ep).modCo core fun c => { c with posted := setIns (s.hostAddr vd ap gpa).1 c.posted }

/-- The virtual address of a byte of a host line whose writer is known. -/
def CLine.writer (l : CLine) (off : Nat) : PostBy := { l.by_ with va := l.by_.va / 128 * 128 + off }

/-- A line's dirty bytes sent to the next point: the die L2 point, or the host for a host line (R189), their poison with them (R423).
A fill of a host line that was asked for before is older than what is sent, so the line takes nothing from it (R190, R201). -/
def State.l1Clean (s : State) (core : Nat) (l : CLine) : State :=
  if l.dirty == 0 then s
  else
    let s := s.setL1 core { l with dirty := 0, fill := 0 }
    match l.ma with
    | some ma => s.l2Dirty (dieOfCore core) l ma
    | none =>
      let send (s : State) (m : BitVec 128) (ep : Bool) : State := (dirtyRuns m).foldl (fun s r =>
        s.postHost core l.vd l.ap (l.line * 128 + r.1) r.2 (lineGet l.data r.1 r.2) (l.writer r.1) ep) s
      let bad := (List.range 16).foldl (fun m k => if l.sentBad.getLsbD k then m ||| maskOf (8 * k) 8 else m) 0
      send (send s (l.dirty &&& ~~~ bad) false) (l.dirty &&& bad) true

/-- The dirty bytes of one line of a core written back. -/
def State.l1WriteBack (s : State) (core vd line : Nat) : State :=
  match s.l1Line core vd line with
  | some l => s.l1Clean core l
  | none => s

/-- Every dirty byte of a core's L1 written back (R195 step 3). -/
def State.l1WriteBackAll (s : State) (core : Nat) : State := (s.co core).l1.foldl (fun s l => s.l1Clean core l) s

/-- One line dropped from a core's L1, without a write-back; the core's monitors of the line latch (R233). -/
def State.l1Drop (s : State) (core vd line : Nat) : State :=
  if (s.l1Line core vd line).isSome then
    (s.modCo core fun c => { c with l1 := c.l1.filter fun x => !(x.vd == vd && x.line == line) }).latchCore core vd line
  else s

/-- Every line of a core's L1 invalidated, dirty bytes written back first. -/
def State.l1InvalidateAll (s : State) (core : Nat) : State :=
  let s := s.l1WriteBackAll core
  (s.co core).l1.foldl (fun s l => s.l1Drop core l.vd l.line) s

/-- The lines that a core's L1 holds: the array behind the split (R12). -/
def State.l1Slots (s : State) (core : Nat) : Nat := Nat.max 1 ((2 ^ 20 - 65536 * (s.co core).split) / 128)

/-- An L1 brought back to its size: the lines filled or written longest ago leave, their dirty bytes written back (R189; log
entry 17). -/
def State.l1Fit (s : State) (core : Nat) : State :=
  ((s.co core).l1.drop (s.l1Slots core)).foldl (fun s l => (s.l1Clean core l).l1Drop core l.vd l.line) s

/-- A line filled in an L1. Under .cs it becomes the first candidate for eviction (R219): it takes the place behind the others, once
they fit. -/
def State.fillL1 (s : State) (core : Nat) (l : CLine) (cs : Bool) : State :=
  if cs then
    let s := s.modCo core fun c => { c with l1 := c.l1.filter fun x => !(x.vd == l.vd && x.line == l.line) }
    let full := (s.co core).l1.length ≥ s.l1Slots core
    let s := if full then ((s.co core).l1.drop (s.l1Slots core - 1)).foldl (fun s l => (s.l1Clean core l).l1Drop core l.vd l.line) s else s
    s.modCo core fun c => { c with l1 := c.l1 ++ [l] }
  else (s.setL1 core l).l1Fit core

/-- The L1's line of a GPA: a miss fills the whole line from the die L2 point (R189). -/
def State.l1Fetch (s : State) (core vd gpa ma : Nat) (cs : Bool) : State × CLine :=
  let l0 : CLine := (s.l1Line core vd (gpa / 128)).getD
    { vd := vd, line := gpa / 128, ma := some (ma / 128 * 128), data := 0, valid := 0, dirty := 0 }
  if l0.full then (s, l0)
  else
    let (s, d, poison) := s.l2Line (dieOfCore core) vd gpa ma
    let l := l0.fillFrom d poison
    (s.fillL1 core l cs, l)

/-- A read at the L1 (R188). -/
def State.l1Read (s : State) (core vd gpa ma n : Nat) (cs : Bool) : State × Nat × Bool :=
  let (s, l) := s.l1Fetch core vd gpa ma cs
  (s, lineGet l.data (gpa % 128) n, l.bad (gpa % 128) n)

/-- A cached line of a core replaced where it stands in the order of eviction. -/
def State.putL1 (s : State) (core : Nat) (l : CLine) : State :=
  s.modCo core fun c => { c with l1 := c.l1.map fun x => if x.vd == l.vd && x.line == l.line then l else x }

/-- A line that a store has written in an L1: under .cs it keeps its place, or is filled as the first candidate (R219). -/
def State.storeL1 (s : State) (core : Nat) (l : CLine) (cs : Bool) : State :=
  if cs && (s.l1Line core l.vd l.line).isSome then s.putL1 core l else s.fillL1 core l cs

/-- A write at the L1; one under .cs leaves its line the first candidate for eviction. -/
def State.l1Write (s : State) (core vd gpa ma n v : Nat) (cs : Bool) : State :=
  let (s, l) := s.l1Fetch core vd gpa ma cs
  let l := l.write (gpa % 128) n v
  if cs then s.putL1 core l else s.setL1 core l

/-- Whether a write at the L1 meets a poisoned array word that it does not cover whole (R423), in the line as the L1 holds it or would
fill it. -/
def State.l1Bad (s : State) (core vd gpa ma n : Nat) : Bool :=
  let die := dieOfCore core
  let next := if dieOfMa ma == die then s.homePoison (ma / 128 * 128) else s.farPoison die vd (gpa / 128) ma
  badPart (match s.l1Line core vd (gpa / 128) with
    | some l => if l.full then l.poison else l.poison ||| next
    | none => next) (gpa % 128) n

/-! ## Requests on the host ports (R389) -/

/-- Whether a port can take another non-posted request: its link is up and fewer than 1,024 are outstanding (R389). -/
def State.portFree (s : State) (port : Nat) : Bool :=
  (s.ports.getD port {}).up && (s.reqs.filter fun r => r.port == port).length < 1024

/-- Whether a VD's read or AtomicOp of an aperture address can be sent now: its port can take it, no posted write of the VD waits
there, which it must not pass, and the VD's DMA may leave (R376). -/
def State.hostFree (s : State) (vd ap gpa : Nat) : Bool :=
  let (port, _, stream, _) := s.busAddr vd ap gpa
  s.portFree port && !s.postsOn vd port && s.dmaOk vd stream

/-- A non-posted request sent on a host port; one on a stream that has failed is aborted instead, at the end of the period (R380). -/
def State.ask (s : State) (vd ap gpa : Nat) (va : DWord) (size : Nat) (what : ReqFor) (out : Nat → Nat → Nat → Out) :
    State :=
  let (port, h, stream) := s.hostAddr vd ap gpa
  let (tag, s) := s.fresh
  { (if s.streamFailed stream then s else s.sendTlp stream 1 (out tag port h)) with
    reqs := s.reqs ++ [{ tag := tag, port := port, vd := vd, stream := stream, haddr := (s.busAddr vd ap gpa).2.1, va := va
                         size := size, since := s.clk.svc, what := what
                         pc := (what.thread?.map fun t => (s.th t).pc).getD 0, ats := (s.busAddr vd ap gpa).2.2.2 }] }

/-- Whether a line's fill is on its way. -/
def State.filling (s : State) (l : CLine) : Bool := l.fill != 0 && s.reqs.any fun r => r.tag == l.fill

/-- The fill of a host line that a store misses (R189): a read of the line, where the aperture grants reads and the port can take
it; the line keeps the request's tag. Else the next load of the line fills it (log entry 47). -/
def State.fillMissed (s : State) (core : Nat) (l : CLine) : State :=
  let g := l.line * 128
  if l.full || s.filling l || !((assocGet l.ap (s.vd l.vd).aps).getD {}).rd || !s.hostFree l.vd l.ap g || s.atsMiss l.vd l.ap g
  then s
  else
    (s.putL1 core { l with fill := s.seq }).ask l.vd l.ap g 0 128 (.fill core l.vd l.line)
      fun tag port h => .request tag port h 128 (s.tOut l.vd)

/-! ## Accesses beyond the L1 (R190) -/

/-- What an access beyond the L1 does first: the core's dirty bytes of the line are written back and, for one performed
at the home slice, the die's far-partition dirty bytes too. -/
def State.beyond (s : State) (core vd line : Nat) (home : Bool) : State :=
  let s := s.l1WriteBack core vd line
  if home then s.farWriteBack (dieOfCore core) vd line else s

/-- What a write beyond a cache does: the core's copy is invalidated and, at the home slice, the die's far copy. -/
def State.beyondWrite (s : State) (core vd line : Nat) (home : Bool) : State :=
  let s := s.l1Drop core vd line
  if home then s.dropFar (dieOfCore core) vd line else s

/-- Whether a copy's bytes differ from those just read beyond it. -/
def CLine.differs (l : CLine) (off n v : Nat) : Bool := l.valid &&& maskOf off n != 0 && lineGet l.data off n != v

/-- What a read beyond a cache does: a copy that it has overtaken is dropped, so that no later read of the thread returns
anything older (R190, R201; R189 lets a clean copy be dropped at any time). -/
def State.overtake (s : State) (core vd gpa n v : Nat) (home : Bool) : State :=
  let line := gpa / 128
  let stale (o : Option CLine) : Bool := match o with
    | some l => l.differs (gpa % 128) n v
    | none => false
  let s := if stale (s.l1Line core vd line) then s.l1Drop core vd line else s
  if home && stale (s.farLine (dieOfCore core) vd line) then s.dropFar (dieOfCore core) vd line else s

/-- Where a device access of a core is performed (R188): at the L1, at the die L2 point, or at Home(addr). -/
inductive Point where
  | l1
  | l2
  | home
  deriving DecidableEq, Repr

/-- A device read by a core at a point: the value, and whether it is poisoned. `cs` is the policy .cs. -/
def State.devRead (s : State) (core vd gpa ma n : Nat) (pt : Point) (cs : Bool := false) : State × Nat × Bool :=
  match pt with
  | .l1 => s.l1Read core vd gpa ma n cs
  | .l2 =>
    let (s, v, bad) := (s.beyond core vd (gpa / 128) false).l2Read (dieOfCore core) vd gpa ma n
    (s.overtake core vd gpa n v false, v, bad)
  | .home =>
    let s := (s.beyond core vd (gpa / 128) true).charge vd ma
    let v := s.homeRead ma n
    (s.overtake core vd gpa n v true, v, s.devPoisoned ma n)

/-- A device write by a core at a point; the flag says that it met poison and was not performed (R423). -/
def State.devWrite (s : State) (core vd gpa ma n v : Nat) (pt : Point) (cs : Bool := false) : State × Bool :=
  match pt with
  | .l1 => if s.l1Bad core vd gpa ma n then (s, true) else (s.l1Write core vd gpa ma n v cs, false)
  | .l2 =>
    let s := s.beyond core vd (gpa / 128) false
    if s.l2Bad (dieOfCore core) vd gpa ma n then (s, true)
    else ((s.l2Write (dieOfCore core) vd gpa ma n v).beyondWrite core vd (gpa / 128) (dieOfMa ma == dieOfCore core), false)
  | .home =>
    let s := s.beyond core vd (gpa / 128) true
    if s.devPartly ma n then (s, true)
    else ((((s.charge vd ma).clearWhole ma n).homeWrite vd gpa ma n v).beyondWrite core vd (gpa / 128) true, false)

/-- Every cached line of a VD invalidated without write-back, in both dies' far partitions and every L1 (R325, R336);
`keep` chooses the lines that stay. A core's monitors of its dropped lines latch (R233). -/
def State.dropLines (s : State) (vd : Nat) (keep : Nat → Bool) : State :=
  let gone (x : Thread) : Bool := match x.monitor with
    | some { key := .dev v line, event := _ } =>
      v == vd && !keep line && (s.l1Line (s.bk x.ref.blk).core vd line).isSome
    | _ => false
  { s with far := s.far.filter fun x => x.2.vd != vd || keep x.2.line
           cores := s.cores.map fun c => { c with l1 := c.l1.filter fun x => x.vd != vd || keep x.line }
           threads := s.threads.map fun x => if gone x then latchOwn x else x }

end Sys2Proof.Machine
end

