-- ==== Sys2Proof/Machine/Walk.lean ====
section
/-! DEFINITION. Addresses: the regions of R45 to R48, stage 1 with its caches (R340 to R348), stage 2 and the Breakwater
(R349 to R352, R371). -/

namespace Sys2Proof.Machine

/-- The kinds of access that stage 1 distinguishes (R344). -/
inductive Need where
  | fetch
  | read
  | write
  deriving DecidableEq, Repr

/-- Who walks: a core's thread on a sub-core lane, a core's engine, or a die's Quay (R347, R348). -/
inductive Walker where
  | lane (core sub lane : Nat)
  | engine (core : Nat)
  | quay (die : Nat)
  deriving DecidableEq, Repr

/-- The outcome of translating a global address: a place, a fault that waits at a level, or a permission fault with the
level at which the walk ended. -/
inductive TrRes where
  | ok (l : Loc)
  | absent (level : Nat)
  | denied (level : Nat)
  deriving DecidableEq, Repr

/-! ## Stage 2 (R349 to R352) -/

/-- The machine address of an HBM GPA of a VD, if its stage-2 entry maps it and the ownership table gives it to the VD;
VD 0 reaches Harbour's own blocks (R371). -/
def State.stage2 (s : State) (vd gpa : Nat) : Option Nat :=
  if gpa < 2 ^ 39 then
    match assocGet (gpa / 2 ^ 31) (s.vd vd).s2 with
    | some m =>
      let o := s.owner.getD m {}
      if !o.scrub && ((o.kind == 3 && o.vd == vd) || (o.kind == 1 && vd == 0)) then some (m * 2 ^ 31 + gpa % 2 ^ 31) else none
    | none => none
  else none

/-- The valid aperture that holds a GPA (R351). -/
def State.aperture (s : State) (vd gpa : Nat) : Option (Nat × Aperture) :=
  (s.vd vd).aps.find? fun x => x.2.v && x.2.gbase * 2 ^ 21 ≤ gpa && gpa < (x.2.gbase + x.2.glen) * 2 ^ 21

/-- Where a permitted GPA leads, or a permission fault (R352); a fetch reads. A confidential VD does no DMA while its interface is
CONFIG_LOCKED or ERROR (R376). -/
def State.place (s : State) (vd gpa : Nat) (need : Need) : Option Loc :=
  if gpa < 2 ^ 47 then (s.stage2 vd gpa).map fun ma => .dev vd gpa ma
  else
    match s.aperture vd gpa with
    | some (i, a) =>
      let grants := match need with
        | .fetch | .read => a.rd
        | .write => a.wr
      if grants && !((s.vd vd).conf && ((s.vd vd).tdisp.state == 1 || (s.vd vd).tdisp.state == 3)) then some (.host vd i gpa)
      else none
    | none => none

/-! ## Stage-1 entries (R342, R343) -/

def pteV (e : Nat) : Bool := e % 2 == 1
def pteLeaf (e : Nat) : Bool := bitsOf e 1 1 == 1
def pteRd (e : Nat) : Bool := bitsOf e 2 2 == 1
def pteWr (e : Nat) : Bool := bitsOf e 3 3 == 1
def pteEx (e : Nat) : Bool := bitsOf e 4 4 == 1
def pteAcc (e : Nat) : Bool := bitsOf e 6 6 == 1
def pteDirty (e : Nat) : Bool := bitsOf e 7 7 == 1
def pteAddr (e : Nat) : Nat := bitsOf e 47 8 * 256
def pteBacked (e : Nat) : Bool := bitsOf e 58 58 == 1
def pteZf (e : Nat) : Bool := bitsOf e 59 59 == 1
def pteEv (e : Nat) : Bool := bitsOf e 60 60 == 1
/-- The bits that must be zero in a valid entry (R342). -/
def pteMbz (e : Nat) : Nat := bitsOf e 63 61 + bitsOf e 57 48 + bitsOf e 5 5

/-- How one entry ends or continues a walk (R343). -/
inductive PteRes where
  | absent
  | malformed
  | table (t : Nat)
  | leaf (gpa size : Nat)
  deriving DecidableEq, Repr

/-- The judgement of an entry at a level (R343). -/
def judgePte (level e : Nat) : PteRes :=
  if !pteV e then (if level == 3 && pteBacked e && pteZf e then .malformed else .absent)
  else if pteMbz e != 0 then .malformed
  else if level < 2 || (level == 2 && !pteLeaf e) then
    if e - 1 != pteAddr e then .malformed
    else if level < 2 && bitsOf e 15 8 != 0 then .malformed
    else .table (pteAddr e)
  else if level == 2 then
    if bitsOf e 20 8 != 0 || pteEv e || pteZf e || pteBacked e || (pteWr e && !pteRd e) then .malformed
    else .leaf (pteAddr e) (2 ^ 21)
  else if !pteLeaf e || bitsOf e 15 8 != 0 || (pteWr e && !pteRd e) then .malformed
  else .leaf (pteAddr e) (2 ^ 16)

/-- The index of an address at a level (R341). -/
def walkIndex (va : Nat) : Nat → Nat
  | 0 => bitsOf va 51 47
  | 1 => bitsOf va 46 34
  | 2 => bitsOf va 33 21
  | _ => bitsOf va 20 16

/-- The end of a walk: its level, and the entry's GPA, machine address and value with the leaf, absence or refusal. -/
inductive WalkRes where
  | leaf (level egpa ema entry gpa size : Nat)
  | absent (level egpa entry : Nat)
  | malformed (level : Nat)
  deriving DecidableEq, Repr

/-- The walk of at most `fuel` levels from table `t` at `level` (R341, R343); a level may come from the walk cache. -/
def State.walkFrom (s : State) (vd va : Nat) (cached : Nat → Option Nat) : Nat → Nat → Nat → WalkRes
  | 0, level, _ => .malformed level
  | fuel + 1, level, t =>
    match cached level with
    | some t' => s.walkFrom vd va cached fuel (level + 1) t'
    | none =>
      let egpa := t + 8 * walkIndex va level
      match s.stage2 vd egpa with
      | none => .malformed level
      | some ema =>
        let e := s.homeRead ema 8
        match judgePte level e with
        | .absent => .absent level egpa e
        | .malformed => .malformed level
        | .table t' => s.walkFrom vd va cached fuel (level + 1) t'
        | .leaf gpa size => .leaf level egpa ema e gpa size

/-- A walk from the VD's root (R340). While the root is 0 it ends not-present at L0. -/
def State.walk (s : State) (vd va : Nat) (cached : Nat → Option Nat) : WalkRes :=
  if (s.vd vd).root == 0 then .absent 0 0 0 else s.walkFrom vd va cached 4 0 (s.vd vd).root

/-! ## The translation caches (R347, R348) -/

/-- The number of leading address bits that select a table's entry at a level: a walk-cache tag. -/
def walkTag (va level : Nat) : Nat :=
  match level with
  | 0 => va / 2 ^ 47
  | 1 => va / 2 ^ 34
  | _ => va / 2 ^ 21

def TlbEntry.covers (e : TlbEntry) (vd va : Nat) : Bool := e.vd == vd && e.va ≤ va && va < e.va + e.size

def TlbEntry.grants (e : TlbEntry) : Need → Bool
  | .fetch => e.ex
  | .read => e.rd
  | .write => e.rd && e.wr && e.dirty

/-- The cached translation that a walker uses: its lane register, then the TLB. -/
def State.cachedTr (s : State) (w : Walker) (vd va : Nat) : Option TlbEntry :=
  match w with
  | .lane core sub lane =>
    let c := s.co core
    match c.lanes.find? fun x => x.1 == sub && x.2.1 == lane && x.2.2.covers vd va with
    | some x => some x.2.2
    | none => c.tlb.find? fun e => e.covers vd va
  | .engine core => (s.co core).tlb.find? fun e => e.covers vd va
  | .quay die => (s.quayTlb.find? fun x => x.1 == die && x.2.covers vd va).map (·.2)

/-- The newest entries that fit: 4,096 of 64 KiB and 512 of 2 MiB (R348). -/
def tlbFit (l : List TlbEntry) : List TlbEntry :=
  (l.filter fun e => e.size == 2 ^ 16).take 4096 ++ (l.filter fun e => e.size != 2 ^ 16).take 512

/-- A translation written into the walker's caches. -/
def State.cacheTr (s : State) (w : Walker) (e : TlbEntry) : State :=
  let other (x : TlbEntry) : Bool := !(x.vd == e.vd && x.va == e.va && x.size == e.size)
  match w with
  | .lane core sub lane =>
    s.modCo core fun c =>
      { c with tlb := tlbFit (e :: c.tlb.filter other)
               lanes := (sub, lane, e) :: c.lanes.filter fun x => !(x.1 == sub && x.2.1 == lane) }
  | .engine core => s.modCo core fun c => { c with tlb := tlbFit (e :: c.tlb.filter other) }
  | .quay die =>
    { s with quayTlb := (die, e) :: (s.quayTlb.filter fun x => x.1 == die && other x.2).take 63 ++
        s.quayTlb.filter fun x => x.1 != die }

/-- A walker's cached translation of a page discarded (R346, R355). -/
def State.uncacheTr (s : State) (w : Walker) (vd va : Nat) : State :=
  match w with
  | .lane core _ _ | .engine core =>
    s.modCo core fun c => { c with tlb := c.tlb.filter fun e => !e.covers vd va
                                   lanes := c.lanes.filter fun x => !x.2.2.covers vd va }
  | .quay die => { s with quayTlb := s.quayTlb.filter fun x => !(x.1 == die && x.2.covers vd va) }

/-- The non-leaf tables that a walk from the root goes through, as walk-cache entries. -/
def State.walkTables (s : State) (vd va : Nat) : Nat → Nat → Nat → List WalkEntry
  | 0, _, _ => []
  | fuel + 1, level, t =>
    match s.stage2 vd (t + 8 * walkIndex va level) with
    | none => []
    | some ema =>
      match judgePte level (s.homeRead ema 8) with
      | .table t' => { vd := vd, level := level, tag := walkTag va level, table := t' } :: s.walkTables vd va fuel (level + 1) t'
      | _ => []

/-- The walk cache as a function from levels to tables; Quay has none. -/
def State.walkCache (s : State) (w : Walker) (vd va : Nat) : Nat → Option Nat :=
  match w with
  | .lane core _ _ | .engine core => fun level =>
    ((s.co core).walks.find? fun e => e.vd == vd && e.level == level && e.tag == walkTag va level).map (·.table)
  | .quay _ => fun _ => none

/-- The walk cache filled with the tables that a walk read. -/
def State.cacheWalk (s : State) (w : Walker) (vd va : Nat) : State :=
  match w with
  | .lane core _ _ | .engine core =>
    let new := s.walkTables vd va 4 0 (s.vd vd).root
    s.modCo core fun c =>
      { c with
        walks := (new ++ c.walks.filter fun e => !(new.any fun x => x.vd == e.vd && x.level == e.level && x.tag == e.tag)).take 256 }
  | .quay _ => s

/-- ACC set in a leaf entry at which a walk has ended, and DIRTY where a write is about to use it (R345). -/
def State.markLeaf (s : State) (vd egpa ema e : Nat) (write : Bool) : State :=
  let e' := e + (if pteAcc e then 0 else 2 ^ 6) + (if write && !pteDirty e then 2 ^ 7 else 0)
  if e' == e then s else s.homeWrite vd egpa ema 8 e'

/-- The walk that ends a translation: ACC and DIRTY set in the entry (R345), the result cached (R346), stage 2 applied. -/
def State.translateWalk (s : State) (w : Walker) (vd va : Nat) (need : Need) (cached : Nat → Option Nat) :
    State × TrRes :=
  match s.walk vd va cached with
  | .absent level _ _ => (s, .absent level)
  | .malformed level => (s, .denied level)
  | .leaf level egpa ema e base size =>
    let grants := match need with
      | .fetch => pteEx e
      | .read => pteRd e
      | .write => pteRd e && pteWr e
    match if grants then s.place vd (base + va % size) need else none with
    | none => (s.markLeaf vd egpa ema e false, .denied level)
    | some l =>
      let s := (s.markLeaf vd egpa ema e (need == .write)).cacheTr w
        { vd := vd, va := va / size * size, size := size, gpa := base, rd := pteRd e, wr := pteWr e, ex := pteEx e
          dirty := pteDirty e || need == .write }
      (s.cacheWalk w vd va, .ok l)

/-- The lookup's result written into the walker's lane register (R347). -/
def State.fillLane (s : State) (w : Walker) (vd va : Nat) : State :=
  match w, s.cachedTr w vd va with
  | .lane core sub lane, some e => s.modCo core fun c =>
    { c with lanes := (sub, lane, e) :: c.lanes.filter fun x => !(x.1 == sub && x.2.1 == lane) }
  | _, _ => s

/-- Translation of a global address for one access (R344 to R348, R352): the cached translation when it grants the
access, and otherwise a walk; a failing walk is made once more without the caches before the fault is answered. -/
def State.translate (s : State) (w : Walker) (vd va : Nat) (need : Need) : State × TrRes :=
  let hit := match s.cachedTr w vd va with
    | some e => if e.grants need then s.place vd (e.gpa + (va - e.va)) need else none
    | none => none
  match hit with
  | some l => (s.fillLane w vd va, .ok l)
  | none =>
    match s.translateWalk w vd va need (s.walkCache w vd va) with
    | (s', .ok l) => (s', .ok l)
    | _ => (s.uncacheTr w vd va).translateWalk w vd va need fun _ => none

/-! ## Regions (R45 to R48) -/

/-- The first address that is not global (R45). -/
def scratchBase : Nat := 0xF000000000000
/-- The remote window's first address (R47). -/
def remoteBase : Nat := 0xF000100000000

/-- The region of an access of a block: a global address, a scratchpad offset of a block (`remote` through the gang's
window), a wait for gang start, or a fault. -/
inductive Region where
  | global (va : Nat)
  | array (blk off : Nat) (remote : Bool)
  | gangWait
  | prot
  | ticket
  deriving DecidableEq, Repr

/-- The region of an access of `n` bytes at `va` by a block (R45 to R48, R216 checks 2 and 3, R372). -/
def State.region (s : State) (blk va n : Nat) : Region :=
  let b := s.bk blk
  if va ≥ 2 ^ 52 then .prot
  else if va + n ≤ scratchBase then .global va
  else if va < scratchBase then .prot
  else if va < scratchBase + 2 ^ 20 then
    if va - scratchBase + n ≤ b.sb then .array blk (va - scratchBase) false else .prot
  else if remoteBase ≤ va && va < remoteBase + 2 ^ 24 then
    let g := (va - remoteBase) / 2 ^ 20
    let x := (va - remoteBase) % 2 ^ 20
    let gang := s.ga b.gang
    if x + n > b.sb then .prot
    else if !s.hasGa b.gang then .ticket
    else if g ≥ gang.size then .prot
    else if !gang.started then .gangWait
    else
      match s.blocks.find? fun y => y.gang == b.gang && y.gangIdx == g with
      | none => .ticket
      | some y => .array y.id x true
  else .prot

end Sys2Proof.Machine
end

