-- ==== Sys2Proof/Machine/Operands.lean ====
section
/-! DEFINITION. The operand forms: registers, pairs and quads through the bundle's window (R27 to R30), the tile
interleave of views (R31, R32) with the stale bits of the sidecar (R174, R176), affine registers (R35), the predicate
stack (R37) and the special registers (R39 to R43). -/

namespace Sys2Proof.Machine

/-! ## Views (R31, R32) -/

def viewEn (v : Word) : Bool := v.getLsbD 31
def viewCols (v : Word) : Nat := bitsOf v.toNat 27 22 + 1
def viewRows (v : Word) : Nat := bitsOf v.toNat 21 16 + 1
def viewFmt (v : Word) : Nat := bitsOf v.toNat 15 12
def viewBase (v : Word) : Nat := bitsOf v.toNat 9 0

/-- The element size of a format code in half-bytes (R31): 1 for e2m1. -/
def elemNibbles (fmt : Nat) : Nat :=
  match fmt with
  | 0 => 1
  | 1 | 2 | 3 | 4 => 2
  | 5 | 6 => 4
  | 7 | 8 => 8
  | _ => 16

/-- Registers of a tile of `rows` by `cols` elements per thread (R32). -/
def tileRegs (fmt rows cols : Nat) : Nat := ((rows + 31) / 32 * cols * elemNibbles fmt + 7) / 8

/-- The registers of a view's footprint (R32); VIEWCK's is 16. -/
def viewRegs (ck : Bool) (v : Word) : Nat := if ck then 16 else tileRegs (viewFmt v) (viewRows v) (viewCols v)

/-- Whether a sidecar is attached (R174). -/
def attached (ck acc : Word) : Bool :=
  viewEn ck && viewEn acc && viewRows ck == viewRows acc && viewCols ck == viewCols acc && viewFmt ck == viewFmt acc

/-! ## Registers (R27 to R30) -/

/-- The physical register that v0 names (R28): WBASE, and in a convergence round WBASE as the round found it, since a new
window applies to the instructions issued after the round (R294). -/
def Bundle.base (b : Bundle) : Nat := if b.round.isEmpty then b.wbase else b.roundBase

/-- Physical register `p` of a home lane; registers never written read as zero (R27). -/
def Bundle.reg (b : Bundle) (lane p : Nat) : Word := (b.rf.getD lane []).getD p 0

/-- A row's part replaced. -/
def Bundle.setReg (b : Bundle) (lane p : Nat) (v : Word) : Bundle :=
  { b with rf := b.rf.modify lane fun r => r.set p v
           poison := b.poison.filter fun x => !(x.1 == lane && x.2 == p) }

/-- The rows and columns of the accumulator tile that hold a byte of register `p` of a lane (R32, R176). -/
def tileTouched (acc : Word) (lane p : Nat) : List (Nat × Nat) :=
  let e := elemNibbles (viewFmt acc)
  let base := viewBase acc
  if p < base || base + viewRegs false acc ≤ p then []
  else
    let lo := 8 * (p - base) / e
    let hi := (8 * (p - base) + 7) / e
    ((List.range (hi + 1 - lo)).map fun k =>
      ((lo + k) / viewCols acc * 32 + lane, (lo + k) % viewCols acc)).filter fun x => x.1 < viewRows acc

/-- The sidecar's stale bits of some rows and columns set: bits in thread 0's bytes 32 to 47 (R174). -/
def Bundle.setStale (b : Bundle) (ijs : List (Nat × Nat)) : Bundle :=
  let base := viewBase b.viewCk
  ijs.foldl (fun b ij =>
    let r := base + 8 + ij.1 / 32
    let c := base + 10 + ij.2 / 32
    let b := b.setReg 0 r (b.reg 0 r ||| (1#32 <<< (ij.1 % 32)))
    b.setReg 0 c (b.reg 0 c ||| (1#32 <<< (ij.2 % 32)))) b

/-- A write to a register by an ordinary instruction or a long-latency result: it sets the stale bits of an attached
sidecar (R176). -/
def Bundle.write (b : Bundle) (lane p : Nat) (v : Word) : Bundle :=
  let b' := b.setReg lane p v
  if attached b.viewCk b.viewAcc then b'.setStale (tileTouched b.viewAcc lane p) else b'

/-- Several registers written in ascending order. -/
def Bundle.writes (b : Bundle) (lane : Nat) : Nat → List Word → Bundle
  | _, [] => b
  | p, v :: vs => (b.write lane p v).writes lane (p + 1) vs

/-- The register that a thread's `vn` names: its part of row WBASE + n (R28). -/
def State.reg (s : State) (t : TRef) (n : Nat) : Word :=
  let b := s.buOf t
  b.reg t.lane (b.base + n)

/-- The pair `vn`, `vn+1` (R29). -/
def State.pair (s : State) (t : TRef) (n : Nat) : DWord := pairOf (s.reg t n) (s.reg t (n + 1))

/-- The quad `vn` to `vn+3` as one number, least significant word first. -/
def State.quadNat (s : State) (t : TRef) (n : Nat) : Nat :=
  (s.pair t n).toNat + 2 ^ 64 * (s.pair t (n + 2)).toNat

/-- Words written to `vn` on. -/
def State.setWords (s : State) (t : TRef) (n : Nat) (vs : List Word) : State :=
  s.modBu t.blk t.bun fun b => b.writes t.lane (b.base + n) vs

def State.setReg (s : State) (t : TRef) (n : Nat) (v : Word) : State := s.setWords t n [v]

/-- A 64-bit value written to a pair. -/
def State.setPair (s : State) (t : TRef) (n : Nat) (v : DWord) : State := s.setWords t n [loWord v, hiWord v]

/-- The words of a little-endian number. -/
def natWords : Nat → Nat → List Word
  | 0, _ => []
  | k + 1, x => BitVec.ofNat 32 x :: natWords k (x / 2 ^ 32)

/-- A number as the 64-bit value of a pair. -/
def dw (x : Nat) : DWord := BitVec.ofNat 64 x

/-- The first physical register outside the allocation, in the order of R78 step 4: none when the window holds every
register that the instruction names (R28). -/
def windowTrap (b : Bundle) (regs : List (Nat × Nat)) : Option Nat :=
  ((regs.flatMap fun r => (List.range r.2).map fun k => b.base + r.1 + k)).find? fun p => b.alloc ≤ p

/-- Whether some register lane word read is poisoned (R423). -/
def Bundle.badRegs (b : Bundle) (lane : Nat) (regs : List (Nat × Nat)) : Bool :=
  regs.any fun r => b.poison.any fun x => x.1 == lane && b.base + r.1 ≤ x.2 && x.2 < b.base + r.1 + r.2

/-! ## The predicate stack (R37, R119): the top entry is the head of the list -/

/-- A thread is active when every entry is 1. -/
def Thread.active (x : Thread) : Bool := x.stack.all id

def Thread.pushPred (x : Thread) (v : Bool) : Thread := { x with stack := v :: x.stack }

/-- Whether every entry below the top is 1 (R119). -/
def Thread.enclosed (x : Thread) : Bool := (x.stack.drop 1).all id

/-- THREAD = BUNDLE × 32 + LANE (R39). -/
def threadNo (t : TRef) : Nat := t.bun * 32 + t.lane

/-! ## Affine registers (R35): a0 is fixed at base 0, stride 1 -/

def Bundle.affine (b : Bundle) (k : Nat) : DWord × Word := if k == 0 then (0, 1) else b.aff.getD (k - 1) (0, 0)

def Bundle.setAffine (b : Bundle) (k : Nat) (v : DWord × Word) : Bundle :=
  if k == 0 then b else { b with aff := b.aff.set (k - 1) v }

/-! ## The modulus (R40, R98) -/

/-- −q⁻¹ mod 2⁶⁴ for an odd q, by Newton's iteration; 0 for an even one. -/
def negInv (q : DWord) : DWord :=
  if q.getLsbD 0 then
    let step (x : DWord) : DWord := x * (2 - q * x)
    0 - step (step (step (step (step (step q)))))
  else 0

/-- Whether a modulus is odd and in [3, 2⁶²) (R98). -/
def legalModulus (q : DWord) : Bool := q.getLsbD 0 && 3 ≤ q.toNat && q.toNat < 2 ^ 62

/-! ## Engine counters (R42, R43) -/

/-- Whether a command still counts in OUTSTANDING: issued and not yet reported (R257). -/
def Cmd.outstanding (c : Cmd) (blk bun cls : Nat) : Bool := c.blk == blk && c.bun == bun && c.cls == cls

/-- The bundle's counter of a class. -/
def State.counter (s : State) (blk bun cls : Nat) : Nat := s.cmds.countP (·.outstanding blk bun cls)

/-- OUTSTANDING (R42). -/
def State.outstandingWord (s : State) (blk bun : Nat) : Word :=
  BitVec.ofNat 32 (s.counter blk bun 0 + 2 ^ 6 * s.counter blk bun 1 + 2 ^ 12 * s.counter blk bun 2 +
    2 ^ 18 * s.counter blk bun 3)

/-- Whether a command is in flight: issued, and neither completed nor ended. -/
def Cmd.inFlight (c : Cmd) : Bool := c.st != .done && c.st != .faulted

/-- TIDEMARK (R43): the bundle's oldest in-flight command. Commands stand in issue order. DONE holds the low 16 bits of the units
finished (DESIGN CHOICE, log entry 58). -/
def State.tidemarkWord (s : State) (blk bun : Nat) : Word :=
  match s.cmds.find? fun c => c.blk == blk && c.bun == bun && c.inFlight with
  | some c => BitVec.ofNat 32 (2 ^ 31 + 2 ^ 29 * c.cls + c.done % 2 ^ 16)
  | none => 0

/-! ## Special registers (R39) -/

/-- The lowest rank whose entry names this package and the VD (R397). The package's own physical id is log entry 5's. -/
def State.pkgRank (s : State) (vd : Nat) : Word :=
  match ((s.parts.getD (s.vd vd).part {}).ranks.filter fun r => r.v && r.vd == vd && r.pkgid == 0).map (·.rank) with
  | [] => 0xFFFFFFFF
  | r :: rs => BitVec.ofNat 32 (rs.foldl Nat.min r)

/-- FPCSR as it reads: bits [8:0] the thread's, [9] and [10] the bundle's (R41). -/
def fpcsrWord (x : Thread) (b : Bundle) : Word :=
  x.fpcsr.setWidth 32 ||| (if b.spm then 0x200 else 0) ||| (if b.spmt then 0x400 else 0)

/-- A special register's value for a thread (R39, R124): low 64 bits. A privileged or unlisted number has no value. -/
def State.special (s : State) (t : TRef) (n : Nat) : DWord :=
  let x := s.th t
  let b := s.buOf t
  let k := s.bkOf t
  let ke := s.keOf t
  let w (v : Word) : DWord := v.setWidth 64
  match n with
  | 0x000 => dw t.lane
  | 0x001 => dw t.bun
  | 0x002 => dw (k.n % ke.x)
  | 0x003 => dw (k.n / ke.x % ke.y)
  | 0x004 => dw (k.n / (ke.x * ke.y))
  | 0x005 => dw k.gangIdx
  | 0x006 => dw ke.x
  | 0x007 => dw ke.y
  | 0x008 => dw ke.z
  | 0x009 => dw (4 * k.quad + k.core % 4)
  | 0x00A => dw k.quad
  | 0x00B => dw (dieOfCore k.core)
  | 0x00C => w (s.pkgRank k.vd)
  | 0x00D => dw (threadNo t)
  | 0x010 => x.pc
  | 0x011 => x.sp
  | 0x012 => dw b.wbase
  | 0x013 => dw b.alloc
  | 0x014 => x.scope.setWidth 64
  | 0x015 => dw x.stack.length
  | 0x016 => x.regionPc
  | 0x018 => w (fpcsrWord x b)
  | 0x019 => w x.rngs
  | 0x01A => b.modq
  | 0x01B => b.modqi
  | 0x01C => x.feBudget.setWidth 64
  | 0x020 => dw (s.cycles (dieOfCore k.core))
  | 0x021 => ke.karg
  | 0x030 => x.trapVec
  | 0x031 => x.trapCause.setWidth 64
  | 0x032 => x.trapPc
  | 0x033 => x.trapVal
  | 0x040 => w b.viewT0
  | 0x041 => w b.viewT1
  | 0x042 => w b.viewAcc
  | 0x043 => w b.viewCk
  | 0x050 => w (s.outstandingWord t.blk t.bun)
  | 0x060 => w (s.tidemarkWord t.blk t.bun)
  | _ => 0

end Sys2Proof.Machine
end

