-- ==== Sys2Proof/Machine/Ops.lean ====
section
/-! DEFINITION. The operations that many steps share: interrupts and the fault queue (R331 to R333, R416 to R418), commit
regions (R407 to R410), taking a trap and returning from one (R400 to R403), replay (R411), block kills and kernel
failure (R413 to R415), fault records (R354), and the release and acquire steps (R195). -/

namespace Sys2Proof.Machine

/-! ## Trap causes (R400) -/

def causeIllegal : Nat := 0x01
def causeAlignFetch : Nat := 0x02
def causeAlignData : Nat := 0x03
def causePredOverflow : Nat := 0x04
def causePredUnderflow : Nat := 0x05
def causeWindow : Nat := 0x06
def causePriv : Nat := 0x07
def causePage : Nat := 0x08
def causeProt : Nat := 0x09
def causeFeStarve : Nat := 0x0A
def causeFeUnsupported : Nat := 0x0B
def causeChecksum : Nat := 0x0C
def causeSparseMeta : Nat := 0x0D
def causeEngineError : Nat := 0x0E
def causeRegionOverflow : Nat := 0x0F
def causeCallstack : Nat := 0x10
def causeTrap : Nat := 0x11
def causeBrk : Nat := 0x12
def causeUe : Nat := 0x13
def causeShadow : Nat := 0x14
def causeGangTicket : Nat := 0x15
def causeHostAtomic : Nat := 0x16
def causeQueue : Nat := 0x17
def causeBarrier : Nat := 0x18

/-! ## Interrupts (R331 to R333) -/

/-- Harbour's work for a VD charged to its ring (R330): one service cycle for each piece (log entry 19). -/
def State.chargeRing (s : State) (vd : Nat) : State := s.modVd vd fun v => { v with bud := v.bud - 1 }

/-- Source `src` of a VD fires (R333); the notice that Harbour forwards is charged to the VD's ring (R330). The host's own masks of
MSI-X vectors are no state (log entry 52). -/
def State.fire (s : State) (vd src : Nat) : State :=
  let e := (s.vd vd).irqs.getD src {}
  if e.mask then s.modVd vd fun v => { v with irqs := v.irqs.modify src fun x => { x with pend := true } }
  else if e.owner == 1 then s.emit (.msix vd e.vec)
  else if e.owner == 2 then (s.chargeRing vd).emit (.notice vd src)
  else s

/-- An error counter raised by one, saturating, with interrupt source 10 for counters 1, 3, 5 and 6 (R338, R331); `vd` 0
counts for no VD. The operator's totals count every event (R326), on the physical function's own page (log entry 46). -/
def State.countError (s : State) (vd k : Nat) : State :=
  let bump (l : List Nat) : List Nat := l.modify k fun n => if n < 2 ^ 64 - 1 then n + 1 else n
  let fires := k == 1 || k == 3 || k == 5 || k == 6
  let s := s.modCtl 0 fun c => { c with errcnt := bump c.errcnt }
  let s := if fires then s.fire 0 10 else s
  if vd == 0 then s
  else
    let s := s.modCtl vd fun c => { c with errcnt := bump c.errcnt }
    if fires then s.fire vd 10 else s

/-! ## The fault queue (R416 to R418) -/

/-- The 64 bytes of an entry (R417). -/
def Notice.bytes (n : Notice) (lost : Word) : List Byte :=
  natBytes 1 n.kind ++ natBytes 1 n.cause ++ natBytes 1 n.flags ++ natBytes 1 0 ++ natBytes 4 lost.toNat ++
    natBytes 8 n.val ++ natBytes 8 n.pc ++ natBytes 2 n.queue ++ natBytes 2 n.thread ++ natBytes 4 n.pkt ++
    natBytes 4 n.block ++ natBytes 4 0 ++ natBytes 8 n.aux ++ natBytes 16 0

/-- A write that the Headland makes in a VD's GPA space; false when the Breakwater refuses it (R352, R371). -/
def State.headWrite (s : State) (vd gpa n v : Nat) : State × Bool :=
  match s.place vd gpa .write with
  | some (.dev _ _ ma) =>
    if s.devPartly ma n then (s, false) else ((s.clearWhole ma n).homeWrite vd gpa ma n v, true)
  | some (.host _ ap g) => if s.dmaOk vd (s.busAddr vd ap g).2.2.1 then (s.sendPosted vd ap g n v, true) else (s, false)
  | _ => (s, false)

def ringEn (ctl : Word) : Bool := ctl.getLsbD 0
def ringSize (ctl : Word) : Nat := bitsOf ctl.toNat 7 4

/-- Whether the fault queue of a control page is full (R416). -/
def Control.fqFull (c : Control) : Bool := (c.fqtail - c.fqhead).toNat + c.fqWait.length ≥ 2 ^ ringSize c.fqctl

/-- FQTAIL incremented, and source 8 raised (R416). -/
def State.fqAdvance (s : State) (ring : Nat) : State :=
  (s.modCtl ring fun c => { c with fqtail := c.fqtail + 1 }).fire ring 8

/-- An entry written at FQTAIL, or counted as lost (R416). FQTAIL is incremented as a release at SYS: for a queue in host memory once
the zero-length read behind the entry is answered (R195). -/
def State.post (s : State) (ring : Nat) (n : Notice) : State :=
  let c := s.ctl ring
  let lose (s : State) : State :=
    s.modCtl ring fun c => { c with lost := if c.lost == 0xFFFFFFFF then c.lost else c.lost + 1 }
  if !ringEn c.fqctl || c.fqFull then lose s
  else
    let at_ := c.fqbase.toNat + 64 * ((c.fqtail.toNat + c.fqWait.length) % 2 ^ ringSize c.fqctl)
    match s.headWrite ring at_ 64 (bytesNat (n.bytes c.lost)) with
    | (s, false) => lose s
    | (s, true) =>
      let s := s.modCtl ring fun c => { c with lost := 0 }
      match s.place ring at_ .write with
      | some (.host _ ap g) => s.modCtl ring fun c => { c with fqWait := c.fqWait ++ [((s.busAddr ring ap g).1, none)] }
      | _ => s.fqAdvance ring

/-- A notice with the packet, block and thread of a thread filled in. -/
def State.noticeOf (s : State) (t : TRef) (n : Notice) : Notice :=
  let k := s.keOf t
  { n with queue := k.q, pkt := k.pkt, block := (s.bkOf t).n, thread := threadNo t }

/-! ## Stepping on -/

/-- The exception flags of a thread, with those of results whose windows have closed: they are written before the thread's
next instruction (R56, R401). -/
def Thread.flagsNow (x : Thread) : BitVec 5 :=
  (x.pending.filter fun p => p.window == 0).foldl (fun f p => f ||| p.flags) ((x.fpcsr >>> 4).setWidth 5)

/-- A new region begins at the thread's PC: REGIONPC and the snapshot (R407). -/
def Thread.beginRegion (x : Thread) : Thread :=
  { x with regionPc := x.pc
           snap := { pc := x.pc, stack := x.stack, sp := x.sp, rngs := x.rngs, flags := x.flagsNow }
           pending := x.pending.map fun p => { p with discard := false } }

/-- The thread steps past its instruction: the PC moves to the next word and each open window counts one instruction
(R55). -/
def Thread.step (x : Thread) : Thread :=
  { x with pc := x.pc + 4, park := .running, shadowOk := false, firstTry := none, waitEng := none, relTags := none
           pending := x.pending.map fun p => { p with window := p.window - 1 } }

/-- The thread steps past a region-closing instruction: the next region begins behind it (R407). -/
def Thread.stepRegion (x : Thread) : Thread := x.step.beginRegion

/-- A parked region-closing instruction of a thread completes. -/
def State.resume (s : State) (t : TRef) : State := s.modTh t Thread.stepRegion

/-! ## Bins (R273) -/

/-- A child joins its bin, or takes a free one of the core's 16; none when the bin refuses or no bin is free (R273). The
bin becomes due with its 32nd child (R274). -/
def State.joinBin (s : State) (blk : Nat) (entry : DWord) (arg : Word) : Option State :=
  let core := (s.bk blk).core
  let bins := (s.co core).bins
  match bins.find? fun b => b.blk == blk && b.entry == entry with
  | some b =>
    if b.due.isSome || b.args.length ≥ 32 then none
    else
      let due := if b.args.length + 1 == 32 then some s.seq else none
      some (({ s with seq := s.seq + 1 } : State).modCo core fun c =>
        { c with bins := c.bins.map fun x =>
            if x.blk == blk && x.entry == entry then { x with args := x.args ++ [arg], due := due } else x })
  | none =>
    if bins.length < 16 then
      some (s.modCo core fun c =>
        { c with bins := c.bins ++ [{ blk := blk, entry := entry, args := [arg], left := 4096, due := none }] })
    else none

/-- A parked spawner of a running block tried again. -/
def State.serveSpawner (s : State) (x : Thread) : State :=
  match x.park with
  | .bin entry arg _ =>
    if s.running x.ref.blk then
      match s.joinBin x.ref.blk entry arg with
      | some s' => s'.resume x.ref
      | none => s
    else s
  | _ => s

/-- The moment at which a spawner parked. -/
def Thread.binStamp (x : Thread) : Nat := match x.park with
  | .bin _ _ n => n
  | _ => 0

/-- The parked spawners of a core served in the order in which they parked (R273). -/
def State.serveSpawners (s : State) (core : Nat) : State :=
  ((s.threads.filter fun x => s.coreOf x.ref == core).inOrder fun a b => a.binStamp ≤ b.binStamp).foldl
    State.serveSpawner s

/-! ## Block kills, relaunch and kernel failure (R413 to R415) -/

/-- Whether a barrier generation is a block's own, or a gang's own (R269). -/
def BarKey.ofBlock (k : BarKey) (blk : Nat) : Bool :=
  match k with
  | .core b _ => b == blk
  | _ => false

def BarKey.ofGang (k : BarKey) (g : Nat) : Bool :=
  match k with
  | .quad g' _ => g' == g
  | _ => false

/-- Some parties removed from every fault record of a VD (R354). -/
def Vd.detach (v : Vd) (gone : Party → Bool) : Vd :=
  { v with faults := v.faults.map fun f => { f with parties := f.parties.filter fun p => !gone p } }

/-- A block removed with everything it holds: threads, bundles, commands, pending operations, queue waiters, bins, host
requests and shadow entries. The bins that it leaves free serve the core's parked spawners (R273). -/
def State.dropBlock (s : State) (blk : Nat) : State :=
  let core := (s.bk blk).core
  let ofBlk (p : Party) : Bool := match p with
    | .thread t => t.blk == blk
    | .cmd c => (s.cmd c).blk == blk && s.hasCmd c
    | .quay _ => false
  let reqOf (r : ReqFor) : Bool := match r with
    | .load t _ _ _ _ _ _ _ _ => t.blk == blk
    | .atomic t _ _ => t.blk == blk
    | .cmd c => (s.cmd c).blk == blk && s.hasCmd c
    | _ => false
  let g := (s.bk blk).gang
  let s : State := { s with
    threads := s.threads.filter fun x => x.ref.blk != blk
    bundles := s.bundles.filter fun x => x.blk != blk
    blocks := s.blocks.filter fun x => x.id != blk
    cmds := s.cmds.filter fun x => x.blk != blk
    feq := s.feq.filter fun x => x.ref.blk != blk
    reqs := s.reqs.filter fun x => !reqOf x.what
    shadows := (s.shadows.map fun x => { x with refs := x.refs.filter fun t => t.blk != blk }).filter fun x => !x.refs.isEmpty
    bars := s.bars.filter (fun x => !x.key.ofBlock blk)
    vds := s.vds.map (·.detach ofBlk) }
  let s := (s.modCo core fun c => { c with bins := c.bins.filter fun b => b.blk != blk }).serveSpawners core
  if s.blocks.any fun b => b.gang == g then s
  else { s with gangs := s.gangs.filter (fun x => x.id != g), bars := s.bars.filter (fun x => !x.key.ofGang g) }

/-- The gangs of a kernel (R307). -/
def Kernel.gangs (k : Kernel) : Nat := k.x * k.y * k.z / Nat.max 1 k.desc.gangSz

/-- Whether every gang of a kernel has been placed. -/
def Kernel.placed (k : Kernel) : Bool := k.plans.isEmpty && k.next ≥ k.gangs

/-- Whether the host writes of a kernel's blocks, or of a copy, are all known to have arrived (R214). -/
def State.settled (s : State) (k : Kernel) : Bool :=
  k.posted.isEmpty && !(s.reqs.any fun r => k.flush.contains r.tag)

/-- A kernel whose blocks have all ended or been dropped, with none left to place, completes (R309). -/
def State.endKernelIfDone (s : State) (k : Nat) : State :=
  if s.hasKe k && (s.ke k).typ == 0 && (s.ke k).placed && s.settled (s.ke k) && !(s.blocks.any fun b => b.kernel == k) &&
      !(s.agenda.contains (.kernelCompletion k)) then s.push (.kernelCompletion k)
  else s

/-- Whether a zero-length read can follow the posted writes of a port now: it can take a request, and none of its posted writes
still waits for a translation. -/
def State.flushFree (s : State) (port : Nat) : Bool :=
  s.portFree port && !(s.posts.any fun x => x.port == port)

/-- A zero-length read sent on a port (R195 step 5): its tag, and the state with it. -/
def State.sendFlush (s : State) (vd port : Nat) (core : Option Nat) : Nat × State :=
  let (tag, s) := s.fresh
  (tag, { s with
    reqs := s.reqs ++ [{ tag := tag, port := port, vd := vd, stream := noStream, haddr := 0, va := 0, size := 0, since := s.clk.svc
                         what := .flush core }]
    out := s.out ++ [.zeroRead tag port] })

/-- The zero-length reads of a SYS release (R195 step 5), on each port that has carried posted writes of the core since its last
one; a port that cannot take one yet is left for later. -/
def State.flushPorts (s : State) (core : Nat) : State :=
  (s.co core).posted.foldl (fun s p =>
    if s.flushFree p then
      (s.sendFlush (s.co core).vd p (some core)).2.modCo core fun c => { c with posted := setDel p c.posted }
    else s) s

/-- The zero-length reads of a core that are not yet answered. -/
def State.flushTags (s : State) (core : Nat) : List Nat :=
  (s.reqs.filter fun r => r.what == .flush (some core)).map (·.tag)

/-- Whether every posted write of a core is known to have arrived (R195 step 5). -/
def State.flushed (s : State) (core : Nat) : Bool := (s.co core).posted.isEmpty && (s.flushTags core).isEmpty

/-- The release steps at SYS of a block that ends or is killed (R214, R413). Its kernel keeps the ports still to be read and the
reads not yet answered, for which its completion waits. -/
def State.releaseBlock (s : State) (k : Block) : State :=
  let s := ((s.l1WriteBackAll k.core).farWriteBackVd (dieOfCore k.core) k.vd).flushPorts k.core
  s.modKe k.kernel fun x =>
    { x with posted := (s.co k.core).posted.foldl (fun l p => setIns p l) x.posted
             flush := x.flush ++ s.flushTags k.core }

/-- A kernel fails (R415): its entry is posted, its placed blocks are killed, the others are never placed. -/
def State.failKernel (s : State) (k : Nat) (n : Notice) : State :=
  let vd := (s.ke k).vd
  let mine := s.blocks.filter fun b => b.kernel == k
  let s := (mine.foldl State.releaseBlock s).post vd n
  let s := mine.foldl (fun s b => s.dropBlock b.id) s
  (s.modKe k fun x => { x with plans := [], next := x.gangs, failed := true }).endKernelIfDone k

def Desc.relaunchable (d : Desc) : Bool := d.flags % 2 == 1
def Desc.cooperative (d : Desc) : Bool := d.flags / 2 % 2 == 1

/-- A block, and its gang with it, is killed after a consumed error or a shadow mismatch (R413), and relaunched when its
kernel allows it (R414); otherwise the kernel fails. -/
def State.killBlock (s : State) (blk : Nat) (n : Notice) : State :=
  if !s.hasBk blk then s
  else
    let b := s.bk blk
    let k := s.ke b.kernel
    let n := { n with kind := 2, queue := k.q, pkt := k.pkt, block := b.n }
    let victims := s.blocks.filter fun x => x.gang == b.gang
    if k.desc.relaunchable && !k.desc.cooperative && b.relaunches < 2 then
      let plan : GangPlan :=
        { blocks := victims.map (·.n), relaunches := b.relaunches + 1, avoid := some b.core, stamp := s.seq }
      let s := victims.foldl State.releaseBlock s
      let s := victims.foldl (fun s x => s.dropBlock x.id) { s with seq := s.seq + 1 }
      let s := s.modKe b.kernel fun x => { x with plans := x.plans ++ [plan] }
      s.post b.vd { n with flags := 2 }
    else s.failKernel b.kernel n

/-- UE_CONSUMED: a thread's access met poison (R218, R423). -/
def State.consume (s : State) (t : TRef) (va : Nat) : State :=
  s.killBlock t.blk { kind := 2, cause := causeUe, val := va, pc := (s.th t).pc.toNat, thread := threadNo t }

/-! ## Results and acquires -/

/-- The pending results of a long-latency instruction, one for each 32-bit register from `p` on (R55); the first brings its flags. -/
def resultsOf (p la : Nat) (vals : List Word) (flags : FFlags) (tag : Nat) : List PendingResult :=
  vals.zipIdx.map fun v =>
    { dst := p + v.2, vals := [v.1], flags := if v.2 == 0 then flags else 0, window := la + 1, arrived := tag == 0, tag := tag }

/-- The acquire steps at a scope (R195). -/
def State.acquire (s : State) (t : TRef) (sc : Nat) : State :=
  let core := s.coreOf t
  let s := if sc ≥ 1 then s.l1InvalidateAll core else s
  if sc ≥ 3 then s.farInvalidateVd (dieOfCore core) (s.vdOf t) else s

/-- A thread's own SCOPE (R220). -/
def State.scopeOf (s : State) (t : TRef) : Nat := (s.th t).scope.toNat

/-! ## Full/empty words (R235 to R243) -/

/-- The memory that a place belongs to, and the place's address in it. -/
def Loc.space : Loc → Nat × Nat
  | .dev vd _ _ => (0, vd)
  | .host vd _ _ => (1, vd)
  | .scr blk _ _ => (2, blk)

/-- A place's address in its own memory. -/
def Loc.addr : Loc → Nat
  | .dev _ gpa _ => gpa
  | .host _ _ gpa => gpa
  | .scr _ off _ => off

/-- The bit of a word's place. -/
def State.feBit (s : State) : Loc → Bool
  | .dev _ _ ma => s.feDev ma
  | .scr blk off _ => s.feScr blk off
  | .host _ _ _ => true

/-- The bit set; a fill latches the line's monitors (R233). -/
def State.setFe (s : State) (l : Loc) (full : Bool) : State :=
  match l with
  | .dev vd gpa ma =>
    let s := s.setFeDev ma full
    if full then s.latch (.dev vd (gpa / 128)) else s
  | .scr blk off _ =>
    let s := s.setFeScr blk off full
    if full then s.latch (.scr blk (off / 128)) else s
  | .host _ _ _ => s

def State.feData (s : State) : Loc → Nat
  | .dev _ _ ma => s.homeRead ma 8
  | .scr blk off _ => s.scrRead blk off 8
  | .host _ _ _ => 0

def State.feWrite (s : State) (l : Loc) (v : Nat) : State :=
  match l with
  | .dev vd gpa ma => s.homeWrite vd gpa ma 8 v
  | .scr blk off _ => s.scrWrite blk off 8 v
  | .host _ _ _ => s

def State.fePoisoned (s : State) (l : Loc) (n : Nat) : Bool :=
  match l with
  | .dev _ _ ma => s.devPoisoned ma n
  | .scr blk off _ => s.scrPoisoned blk off n
  | .host _ _ _ => false

/-- What a full/empty operation on `n` bytes does first: the dirty bytes of its lines are written back to the home slice, and poison
with them (R190, R423). -/
def State.feBefore (s : State) (core : Nat) (l : Loc) (n : Nat) : State :=
  match l with
  | .dev vd gpa _ =>
    (List.range ((gpa + n - 1) / 128 - gpa / 128 + 1)).foldl (fun s k => s.beyond core vd (gpa / 128 + k) true) s
  | _ => s

/-- What every full/empty operation does to the caches that hold its line (R190, R235), and its meter charge. -/
def State.feLine (s : State) (core : Nat) : Loc → State
  | .dev vd gpa ma =>
    ((s.beyond core vd (gpa / 128) true).charge vd ma).beyondWrite core vd (gpa / 128) true
  | _ => s

/-- The place `k` bytes further on in the same page or array. -/
def Loc.plus (l : Loc) (k : Nat) : Loc :=
  match l with
  | .dev vd gpa ma => .dev vd (gpa + k) (ma + k)
  | .host vd ap gpa => .host vd ap (gpa + k)
  | .scr blk off r => .scr blk (off + k) r

/-- Whether two places are one word. -/
def Loc.sameWord (a b : Loc) : Bool := a.space == b.space && a.addr == b.addr

/-- Whether an operation's condition holds for a bit (R238). -/
def FeKind.holds (k : FeKind) (full : Bool) : Bool :=
  match k with
  | .feldw => full
  | .feldc => full
  | .festf => !full

/-- A pending operation of a thread performed: its result is due under its window, an acquire performs its steps at the
thread's SCOPE, and the thread steps on (R238, R241). -/
def State.feResult (s : State) (e : FeWait) (v : Nat) : State :=
  let arrive (s : State) : State :=
    s.modTh e.ref fun x => { x with pending := x.pending ++ resultsOf e.dst e.la (natWords 2 v) noFlag 0 }
  match e.kind with
  | .feldw => ((arrive s).modTh e.ref Thread.step).acquire e.ref (s.scopeOf e.ref)
  | .feldc => ((arrive s).modTh e.ref Thread.stepRegion).acquire e.ref (s.scopeOf e.ref)
  | .festf => s.modTh e.ref Thread.stepRegion

/-- The operation performed at its word, whose condition holds (R238, R243). -/
def State.fePerform (s : State) (e : FeWait) : State :=
  let s := s.feLine (s.coreOf e.ref) e.loc
  let v := s.feData e.loc
  let s := match e.kind with
    | .feldw => s
    | .feldc => s.setFe e.loc false
    | .festf => (s.feWrite e.loc e.data.toNat).setFe e.loc true
  s.feResult e v

/-- The queues of a word served while an operation's condition holds (R243). -/
def State.serveLoop (s : State) (l : Loc) : Nat → State
  | 0 => s
  | fuel + 1 =>
    match s.feq.find? fun e => e.place == .table && e.loc.sameWord l && e.kind.holds (s.feBit l) with
    | none => s
    | some e => (({ s with feq := s.feq.filter fun x => x.ref != e.ref } : State).fePerform e).serveLoop l fuel

/-- The mooring records of a word whose condition holds now are woken (R243, R244); those of running blocks are presented
again. -/
def State.wakeMoored (s : State) (l : Loc) : State :=
  let woken (e : FeWait) : Bool := e.place == .moored && e.loc.sameWord l && e.kind.holds (s.feBit l)
  let due := s.feq.filter fun e => woken e && s.running e.ref.blk
  { s with
    feq := s.feq.map fun e => if woken e then { e with place := .woken true } else e
    agenda := s.agenda ++ due.map fun e => .fePresent e.ref }

/-- What follows any operation that leaves a word's bit changed (R243). -/
def State.feServe (s : State) (l : Loc) : State := (s.serveLoop l s.feq.length).wakeMoored l

/-- The queues of every word that operations wait on served, after a write that may have left words FULL (R243, R423). -/
def State.serveDue (s : State) : State := s.feq.foldl (fun s e => s.feServe e.loc) s

/-- They are served where a write has cleared poison. -/
def State.serveIf (s : State) (cleared : Bool) : State := if cleared then s.serveDue else s

/-! ## Commit regions (R407 to R410) -/

/-- The point of a policy's access to device memory (R188, R219): default and .cs at the L1, .cg at the die L2 point,
.far and .vol at the home slice. -/
def policyPoint (pol : Nat) : Point :=
  match pol with
  | 1 => .l2
  | 2 | 3 => .home
  | _ => .l1

/-- The point of scope `s` (R195). -/
def scopePoint (sc : Nat) : Point := if sc == 0 then .l1 else if sc < 3 then .l2 else .home

/-- A store performed at its point; true when it met poison in a unit that it does not cover whole, and was not performed (R423). `by_`
is who stores, `cs` the policy .cs. -/
def State.performStore (s : State) (core : Nat) (l : Loc) (size v : Nat) (pt : Point) (by_ : PostBy := {}) (cs : Bool := false) :
    State × Bool :=
  match l with
  | .dev vd gpa ma =>
    let (s', bad) := s.devWrite core vd gpa ma size v pt cs
    (s'.serveIf (s.devPoisoned ma size), bad)
  | .host vd ap gpa =>
    if pt == .l1 then
      let l0 : CLine := (s.l1Line core vd (gpa / 128)).getD
        { vd := vd, line := gpa / 128, ma := none, data := 0, valid := 0, dirty := 0, ap := ap }
      if badPart l0.poison (gpa % 128) size then (s, true)
      else
        let l := { l0.write (gpa % 128) size v with by_ := by_ }
        ((s.storeL1 core l cs).fillMissed core l, false)
    else (((s.l1WriteBack core vd (gpa / 128)).postHost core vd ap gpa size v by_).l1Drop core vd (gpa / 128), false)
  | .scr blk off _ =>
    if s.scrPoisoned blk off size && !(off % 8 == 0 && size ≥ 8) then (s, true)
    else ((s.scrWrite blk off size v).serveIf (s.scrPoisoned blk off size), false)

/-- The VAL of the notice of a consumed error at a place (R418): the virtual address where an HBM sector was in error, 0 where
an array was. -/
def State.poisonVal (s : State) (l : Loc) (va : Nat) : Nat :=
  match l with
  | .dev _ _ ma => if s.poison.contains (ma / 64 * 64) then va else 0
  | .host _ _ _ => 0
  | .scr _ _ _ => 0

/-- The thread's buffered stores performed at their points in program order (R410). A store that meets poison drops
itself and those after it, and its block is killed. -/
def State.commitList (s : State) (t : TRef) : List BufStore → State
  | [] => s
  | b :: r =>
    let by_ : PostBy := { src := 1, va := b.vpage * 65536 + b.loc.addr % 65536, thread := some (t, b.pc) }
    match s.performStore (s.coreOf t) b.loc b.size b.data.toNat (policyPoint b.pol) by_ (b.pol == 5) with
    | (s', false) => s'.commitList t r
    | (s', true) => s'.consume t (s'.poisonVal b.loc (b.vpage * 65536 + b.loc.addr % 65536))

/-- The thread's region closes: its stores commit and a new region begins at its PC. -/
def State.closeRegion (s : State) (t : TRef) : State :=
  let st := (s.th t).stores
  let s := s.modTh t fun x => ({ x with stores := [] } : Thread).beginRegion
  s.commitList t st

/-! ## Taking a trap, and returning (R400 to R403) -/

/-- Every open window closes: the thread waits for its pending results before its next instruction (R56). -/
def Thread.closeWindows (x : Thread) : Thread := { x with pending := x.pending.map fun p => { p with window := 0 } }

/-- The kernel failure of a trap that no handler can take (R401, R402). -/
def State.failTrap (s : State) (t : TRef) (cause : Nat) (pc val : DWord) : State :=
  s.failKernel (s.bkOf t).kernel
    (s.noticeOf t { kind := 1, cause := cause, flags := if (s.th t).trapSave.isSome then 1 else 0, val := val.toNat
                    pc := pc.toNat })

/-- Whether buffered stores of a thread wait for the results of its earlier loads: they commit only after these have arrived
(R56, R201). -/
def Thread.mustArrive (x : Thread) : Bool := !x.stores.isEmpty && x.pending.any fun p => !p.arrived

/-- Taking a trap (R401): TRAPPC and TRAPVAL as given, the predicate stack saved, the PC at TRAPVEC and a new region
there. With TRAPVEC 0 or an occupied trap save the kernel fails (R402, R415). Stores that wait for loads delay the entry. -/
def State.enterTrap (s : State) (t : TRef) (cause : Nat) (pc val : DWord) : State :=
  let x := s.th t
  if x.trapVec == 0 || x.trapSave.isSome then s.failTrap t cause pc val
  else if x.mustArrive then s.modTh t fun x => { x.closeWindows with park := .trapping cause pc val }
  else
    let s := s.closeRegion t
    s.modTh t fun x => ({ x.closeWindows with
      trapCause := BitVec.ofNat 8 cause, trapPc := pc, trapVal := val, trapSave := some x.stack, stack := []
      pc := x.trapVec, park := .running, shadowOk := false, firstTry := none, waitEng := none, relTags := none } : Thread).beginRegion

/-- A precise trap at the thread's own instruction (R400); a thread that an earlier trap of its group has ended meets none. -/
def State.trap (s : State) (t : TRef) (cause : Nat) (val : DWord) : State :=
  if s.live t then s.enterTrap t cause (s.th t).pc val else s

/-- A thread whose trap waited for its loads enters its handler once they have arrived (R201, R401). -/
def State.trapRetry (s : State) (t : TRef) : State :=
  match (s.th t).park with
  | .trapping cause pc val => if (s.th t).mustArrive then s else s.enterTrap t cause pc val
  | _ => s

/-- A host load that was refused traps its thread once it could issue: TRAPPC is the load (R367, R400; log entry 47). -/
def State.lateTrap (s : State) (t : TRef) : State :=
  let x := s.th t
  match x.late with
  | some (pc, va) =>
    if s.live t && x.park == .running && s.running t.blk then
      (s.modTh t fun x => { x with late := none }).enterTrap t causeProt pc va
    else s
  | none => s

/-- Returning from a trap to TRAPPC (R403); the caller has made TRET's checks. -/
def State.returnTrap (s : State) (t : TRef) : State :=
  let s := s.closeRegion t
  s.modTh t fun x => ({ x.closeWindows with
    stack := x.trapSave.getD [], trapSave := none, pc := x.trapPc, park := .running } : Thread).beginRegion

/-- A replay (R411): the region's uncommitted stores and its pending results are discarded and the snapshot restored. -/
def State.replay (s : State) (t : TRef) : State :=
  s.modTh t fun x =>
    { x with stores := [], pending := (x.pending.filter fun p => !p.discard).map fun p => { p with window := 0 }
             pc := x.snap.pc, stack := x.snap.stack, sp := x.snap.sp, rngs := x.snap.rngs
             fpcsr := (x.fpcsr &&& 0xF) ||| (x.snap.flags.setWidth 9 <<< 4), park := .running
             shadowOk := false, firstTry := none, waitEng := none, relTags := none, late := none }

/-- A trap of the Region class (R400): the thread is replayed and enters its handler with TRAPPC at REGIONPC. -/
def State.regionTrap (s : State) (t : TRef) (cause : Nat) (val : DWord) : State :=
  let s := s.replay t
  s.enterTrap t cause (s.th t).regionPc val

/-! ## Fault records (R353, R354) -/

/-- The lowest free FID, 1 to 256. -/
def Vd.freeFid (v : Vd) : Option Nat := ((List.range 256).map (· + 1)).find? fun i => !(v.faults.any fun f => f.fid == i)

/-- A PAGE notice (R354, R418). -/
def pageNotice (fid vpage level kind src reason : Nat) : Notice :=
  { kind := 5, cause := if reason == 3 then causeProt else causePage, val := vpage * 65536
    aux := fid + 2 ^ 10 * level + 2 ^ 12 * kind + 2 ^ 16 * src + 2 ^ 20 * reason }

/-- A requester that waits attaches itself to the fault record of its page (R354). Under device-managed paging Harbour
pages in a BACKED or ZF entry (R358); otherwise a notice goes to the fault queue. `fill` adds the requester's context. -/
def State.attach (s : State) (vd va level kind src : Nat) (p : Party) (fill : Notice → Notice) : State × Nat :=
  let page := va / 65536
  let v := s.vd vd
  match v.faults.find? fun f => f.vpage == page with
  | some f =>
    (s.modVd vd fun v => { v with faults := v.faults.map fun x =>
      if x.fid == f.fid then
        { x with kind := x.kind ||| BitVec.ofNat 3 kind, src := x.src ||| BitVec.ofNat 3 src, parties := x.parties ++ [p] }
      else x }, f.fid)
  | none =>
    match v.freeFid with
    | none => (s, 0)
    | some fid =>
      let entry : Option (Nat × Nat) := match s.walk vd va fun _ => none with
        | .absent 3 egpa e => some (egpa, e)
        | _ => none
      let rec_ : FaultRec :=
        { fid := fid, vpage := page, level := level, kind := BitVec.ofNat 3 kind, src := BitVec.ofNat 3 src
          parties := [p], entry := entry, ctx := fill { kind := 5 } }
      let supplied := match entry with
        | some (_, e) => v.dpage && (pteBacked e || pteZf e)
        | none => false
      let s := s.modVd vd fun v => { v with faults := v.faults ++ [{ rec_ with paging := supplied }] }
      if supplied then (s, fid)
      else (s.post vd (fill (pageNotice fid page level kind src 0)), fid)

/-- A thread's PAGE fault: it is replayed and parks at its fault record (R353, R411). -/
def State.pageFault (s : State) (t : TRef) (va level kind : Nat) : State :=
  if !s.live t then s else
  let pc := (s.th t).pc
  let fill (n : Notice) : Notice := { s.noticeOf t n with pc := pc.toNat }
  let s := s.replay t
  let s := s.modTh t fun x => { x with faultVa := dw va }
  let (s, fid) := s.attach (s.vdOf t) va level kind 1 (.thread t) fill
  s.modTh t fun x => { x with park := .fault fid }

/-! ## Release and acquire (R195) -/

/-- The release steps at a scope for a thread whose region has closed (R195). At SYS the zero-length reads are sent; who waits for
their answers is `releaseStep`'s and `releaseBlock`'s. -/
def State.release (s : State) (t : TRef) (sc : Nat) : State :=
  let core := s.coreOf t
  let s := if sc ≥ 1 then s.l1WriteBackAll core else s
  let s := if sc ≥ 3 then s.farWriteBackVd (dieOfCore core) (s.vdOf t) else s
  if sc ≥ 5 then s.flushPorts core else s

/-- The release steps of a thread that presents its instruction, and whether they are complete (R195): at SYS, once the zero-length
reads are answered. Until then the thread keeps their tags, and presents its instruction again. -/
def State.releaseStep (s : State) (t : TRef) (sc : Nat) : State × Bool :=
  if sc < 5 then (s.release t sc, true)
  else match (s.th t).relTags with
  | some tags => (s, !(s.reqs.any fun r => tags.contains r.tag))
  | none =>
    let s := s.release t sc
    let core := s.coreOf t
    if s.flushed core then (s, true)
    else if (s.co core).posted.isEmpty then (s.modTh t fun x => { x with relTags := some (s.flushTags core) }, false)
    else (s, false)

/-! ## Long-latency results -/

/-- A long-latency result of the instruction being issued: its window counts the instructions that follow (R55). The step
past the instruction itself counts one, so the window starts at `la + 1`. `tag` names a host request it waits for. -/
def State.later (s : State) (t : TRef) (d la : Nat) (vals : List Word) (flags : FFlags := noFlag) (tag : Nat := 0) :
    State :=
  let p := (s.buOf t).base + d
  s.modTh t fun x => { x with pending := x.pending ++ resultsOf p la vals flags tag }

end Sys2Proof.Machine
end

