-- ==== Sys2Proof/Machine/Issue.lean ====
section
/-! DEFINITION. Issuing an instruction to a group: the checks of R78 that do not depend on operand values, what an
inactive thread does (R38), the closing of regions (R407), the shadow's hold (R426), and then each thread's own part or
the group's one operation (R74). -/

namespace Sys2Proof.Machine

/-- What issuing needs to know of an instruction: the registers it names in the order of R78 step 4, those it reads, and
whether it closes the region (R408), is sent only once its shadow has compared equal though it closes no region (`held`:
FELDW, R241; a store, R426) or once its own checks have passed (`late`: TRET, R403), pushes on every thread, needs a top
predicate entry, or is performed by inactive threads too (`all`: branches, PELSE, PEND, and compares that combine). -/
structure Form where
  regs : List (Nat × Nat) := []
  reads : List (Nat × Nat) := []
  closes : Bool := false
  held : Bool := false
  late : Bool := false
  pushes : Bool := false
  needsTop : Bool := false
  all : Bool := false
  deriving DecidableEq, Repr

/-- What an instruction does to a thread that performs it: it is done, it transfers control, it traps, it meets a page
fault or poison, or it parks at its instruction; `gone` when the thread has been dealt with. -/
inductive Act where
  | next (s : State)
  | jump (s : State) (pc : DWord)
  | trap (s : State) (cause : Nat) (val : DWord)
  | page (s : State) (va level kind : Nat)
  | poison (s : State) (va : Nat)
  | park (s : State) (p : Park)
  | gone (s : State)

/-- The thread steps past its instruction. -/
def State.finish (s : State) (t : TRef) (closes : Bool) : State :=
  s.modTh t (if closes then Thread.stepRegion else Thread.step)

/-- An inactive thread steps past the instruction (R38): its region closes where the instruction closes regions, and a
pushing instruction pushes 0 (R37). -/
def State.skip (s : State) (f : Form) (t : TRef) : State :=
  let s := if f.closes then s.closeRegion t else s
  let s := if f.pushes then s.modTh t (·.pushPred false) else s
  s.finish t f.closes

/-- The trap of R78 steps 4 and 5, if any: WINDOW, then PRED_OVERFLOW and PRED_UNDERFLOW. -/
def State.earlyTrap (s : State) (f : Form) (t : TRef) : Option (Nat × DWord) :=
  match windowTrap (s.buOf t) f.regs with
  | some p => some (causeWindow, dw p)
  | none =>
    if f.pushes && (s.th t).stack.length ≥ 16 then some (causePredOverflow, 0)
    else if f.needsTop && (s.th t).stack.isEmpty then some (causePredUnderflow, 0)
    else none

/-- What an act leaves of the thread. -/
def State.perform (f : Form) (t : TRef) : Act → State
  | .next s => s.finish t f.closes
  | .jump s pc =>
    s.modTh t fun x =>
      { x.closeWindows with pc := pc, park := .running, shadowOk := false, firstTry := none, waitEng := none }
  | .trap s cause val => s.trap t cause val
  | .page s va level kind => s.pageFault t va level kind
  | .poison s va => s.consume t va
  | .park s p => s.modTh t fun x => { x with park := p }
  | .gone s => s

/-- One thread of the group; the traps of R78 steps 4 and 5 are checked in the state `s0` in which the group issues. -/
def State.issueOne (f : Form) (body : State → TRef → Act) (s0 s : State) (t : TRef) : State :=
  if !s.live t then s
  else
    match s0.earlyTrap f t with
    | some (cause, val) => s.trap t cause val
    | none =>
      if !(s.th t).active && !f.all then s.skip f t
      else
        let s := if f.closes && !f.late then s.closeRegion t else s
        if !s.live t then s
        else if (s.buOf t).badRegs t.lane f.reads then s.consume t 0
        else State.perform f t (body s t)

/-! ## Undertow (R426) -/

/-- Whether the group belongs to a VD with SHADOW = 1. -/
def State.shadowed (s : State) : Bool :=
  match s.group.refs with
  | [] => false
  | t :: _ => (s.vd (s.vdOf t)).shadow

/-- The words of some registers of a thread. -/
def State.wordsOf (s : State) (t : TRef) (l : List (Nat × Nat)) : List Word :=
  l.flatMap fun r => (List.range r.2).map fun k => s.reg t (r.1 + k)

/-- What an entry holds of a thread, from the state in which its group issues and the one that the group brings about. -/
def Form.shadowLane (f : Form) (s s' : State) (t : TRef) : ShadowLane :=
  { ref := t, srcs := s.wordsOf t f.reads, outs := s'.wordsOf t f.regs
    results := (s'.th t).pending.filter fun p => !(s.th t).pending.contains p
    stores := (s'.th t).stores.filter fun b => !(s.th t).stores.contains b }

/-- The entry that a group leaves in its sub-core's shadow queue, for those of its threads that are `there` still. -/
def State.leave (s : State) (f : Form) (before after : State) (there : TRef → Bool) (pre : Bool) : State :=
  match before.group.refs.filter there with
  | [] => s
  | t :: r =>
    { s with shadows := s.shadows ++
        [{ core := before.coreOf t, sub := (before.buOf t).sub, refs := t :: r, pc := before.group.pc
           word := before.group.word, lanes := (t :: r).map (f.shadowLane before after), pre := pre
           since := before.cycles (dieOfCore (before.coreOf t)) }] }

/-- Whether a group that closes no region of its own accord would enter a handler, or end a kernel. -/
def State.entersTrap (s s' : State) : Bool :=
  s.group.refs.any fun t => s.live t && (!s'.live t || (s'.th t).trapSave != (s.th t).trapSave)

/-- The stamp of a stall. -/
def Park.stalled : Park → Option Nat
  | .stall n => some n
  | _ => none

/-- A group of a shadowed VD: one that closes a region, stores, or takes a trap must not proceed before its comparison, and parks
until the shadow has compared it; any other leaves its entry. Nothing that the group would do is done before. -/
def State.undertow (s : State) (f : Form) (run : State → State) : State :=
  if !s.shadowed || s.group.refs.all fun t => (s.th t).shadowOk then run s
  else
    let s' := run s
    if f.closes || f.held || s.entersTrap s' then
      s.group.refs.foldl (fun s t => s.modTh t fun x => { x with park := .shadow }) (s.leave f s s' s.live true)
    else s'.leave f s s' (fun t => s'.live t && (s'.th t).park.stalled.isNone) false

/-! ## The ways to issue -/

/-- A per-thread instruction: each thread of the group performs its own part. -/
def State.issue (f : Form) (body : State → TRef → Act) (s : State) : Host.Outcome State Fault Refusal :=
  .next (s.undertow f fun s => s.group.refs.foldl (State.issueOne f body s) s)

/-- The active threads of the group, in lane order. -/
def State.actives (s : State) : List TRef := s.group.refs.filter fun t => (s.th t).active

/-- The threads of a group that none of the early traps takes, in lane order. -/
def State.survivors (s : State) (f : Form) : List TRef :=
  s.group.refs.filter fun t => s.live t && (s.earlyTrap f t).isNone

/-- A group operation (R74): early traps are each thread's own; the inactive survivors step past; the rest perform the
body once, with the lowest active lane's operands, and share its outcome. Threads whose block a commit has ended take no part. -/
def State.groupRun (f : Form) (body : State → TRef → List TRef → Act) (s : State) : State :=
  let sv := s.survivors f
  let act := sv.filter fun t => (s.th t).active
  let s := (s.group.refs.filter fun t => !sv.contains t).foldl (fun s t =>
    match s.earlyTrap f t with
    | some (cause, val) => s.trap t cause val
    | none => s) s
  let s := (sv.filter fun t => !act.contains t).foldl (fun s t => s.skip f t) s
  let s := if f.closes then act.foldl State.closeRegion s else s
  let act := act.filter s.live
  match act with
  | [] => s
  | lead :: _ =>
    if (s.buOf lead).badRegs lead.lane f.reads then s.consume lead 0
    else
      match body s lead act with
      | .next s => act.foldl (fun s t => s.finish t f.closes) s
      | .jump s pc => act.foldl (fun s t => State.perform f t (.jump s pc)) s
      | .trap s cause val => act.foldl (fun s t => s.trap t cause val) s
      | .page s va level kind => act.foldl (fun s t => s.pageFault t va level kind) s
      | .poison s va => s.consume lead va
      | .park s p => act.foldl (fun s t => State.perform f t (.park s p)) s
      | .gone s => s

def State.issueGroup (f : Form) (body : State → TRef → List TRef → Act) (s : State) :
    Host.Outcome State Fault Refusal :=
  .next (s.undertow f (State.groupRun f body))

/-- A bundle-convergent instruction (R127): outside a round its threads close their windows and park; in a round the
group performs it. Early traps are the participants' own in either case. -/
def State.issueConv (f : Form) (body : State → TRef → Act) (s : State) : Host.Outcome State Fault Refusal :=
  if s.group.round then s.issue { f with closes := true } body
  else .next (s.group.refs.foldl (fun s t => s.modTh t fun x => { x.closeWindows with park := .conv }) s)

/-- A per-thread instruction that writes one register from the thread's own registers. -/
def State.alu (d : Nat) (reads : List (Nat × Nat)) (r : State → TRef → Word) (s : State) :
    Host.Outcome State Fault Refusal :=
  s.issue { regs := (d, 1) :: reads, reads := reads } fun s t => .next (s.setReg t d (r s t))

/-- One that writes a pair. -/
def State.alu64 (d : Nat) (reads : List (Nat × Nat)) (r : State → TRef → DWord) (s : State) :
    Host.Outcome State Fault Refusal :=
  s.issue { regs := (d, 2) :: reads, reads := reads } fun s t => .next (s.setPair t d (r s t))

end Sys2Proof.Machine
end

