-- ==== Sys2Proof/Machine/Affine.lean ====
section
/-! DEFINITION. The affine instructions (R122, R123). -/

namespace Sys2Proof.Machine

/-- Whether a thread performs what its group does once for its bundle: the bundle's active thread with the lowest home
lane (R36, R122, R125). -/
def State.leads (s : State) (t : TRef) : Bool :=
  (s.th t).active && s.group.refs.all fun u => !(u.blk == t.blk && u.bun == t.bun && (s.th u).active && u.lane < t.lane)

/-- Whether a thread belongs to a bundle that the group's affine instruction writes: one with an active thread (R122). -/
def State.bundleActs (s : State) (t : TRef) : Bool :=
  s.group.refs.any fun u => u.blk == t.blk && u.bun == t.bun && (s.th u).active

/-- An affine write (R122): once for each bundle with an active thread. The regions of the threads of the written bundles
close. -/
def State.affineOp (s : State) (d : Nat) (regs : List (Nat × Nat)) (v : State → TRef → Bundle → DWord × Word) :
    Host.Outcome State Fault Refusal :=
  .next (s.undertow { regs := regs, reads := regs, closes := true } fun s =>
    let body (s' : State) (t : TRef) : Act :=
      if s.leads t then
        if (s'.buOf t).badRegs t.lane regs then .poison s' 0
        else .next (s'.modBu t.blk t.bun fun b => b.setAffine d (v s' t b))
      else .next s'
    s.group.refs.foldl (fun s' t => State.issueOne { regs := regs, closes := s.bundleActs t } body s s' t) s)

/-- A signed 10-bit field as a base and as a stride factor. -/
def x10D (i : Nat) : DWord := dwordOfInt (signExt 10 i)
def x10W (i : Nat) : Word := wordOfInt (signExt 10 i)

/-- AADD (R123). -/
def execAadd (d a b : Nat) (s : State) : Host.Outcome State Fault Refusal :=
  s.affineOp d [] fun _ _ bu => ((bu.affine a).1 + (bu.affine b).1, (bu.affine a).2 + (bu.affine b).2)

/-- ASUB (R123). -/
def execAsub (d a b : Nat) (s : State) : Host.Outcome State Fault Refusal :=
  s.affineOp d [] fun _ _ bu => ((bu.affine a).1 - (bu.affine b).1, (bu.affine a).2 - (bu.affine b).2)

/-- ASHL (R123). -/
def execAshl (d a n : Nat) (s : State) : Host.Outcome State Fault Refusal :=
  s.affineOp d [] fun _ _ bu => ((bu.affine a).1 <<< n, if n < 32 then (bu.affine a).2 <<< n else 0)

/-- AMULI (R123). -/
def execAmuli (d a i : Nat) (s : State) : Host.Outcome State Fault Refusal :=
  s.affineOp d [] fun _ _ bu => ((bu.affine a).1 * x10D i, (bu.affine a).2 * x10W i)

/-- AMOV (R123). -/
def execAmov (d a : Nat) (s : State) : Host.Outcome State Fault Refusal := s.affineOp d [] fun _ _ bu => bu.affine a

/-- ASETB (R123). -/
def execAsetb (d v : Nat) (s : State) : Host.Outcome State Fault Refusal :=
  s.affineOp d [(v, 2)] fun s t bu => (s.pair t v, (bu.affine d).2)

/-- ASETS (R123). -/
def execAsets (d v : Nat) (s : State) : Host.Outcome State Fault Refusal :=
  s.affineOp d [(v, 1)] fun s t bu => ((bu.affine d).1, s.reg t v)

/-- AADDI (R123). -/
def execAaddi (d a i : Nat) (s : State) : Host.Outcome State Fault Refusal :=
  s.affineOp d [] fun _ _ bu => ((bu.affine a).1 + x10D i, (bu.affine a).2)

/-- A thread's value of an affine register (R35). -/
def affineAt (v : DWord × Word) (lane : Nat) : DWord := v.1 + v.2.signExtend 64 * BitVec.ofNat 64 lane

/-- AGET (R123). -/
def execAget (a v : Nat) (s : State) : Host.Outcome State Fault Refusal :=
  s.alu64 v [] fun s t => affineAt ((s.buOf t).affine a) t.lane

end Sys2Proof.Machine
end

