-- ==== Sys2Proof/Machine/Access.lean ====
section
/-! DEFINITION. What every memory access of a thread shares: the checks of R216, the store buffer's view (R190), reads
and writes at their points (R188, R219), and requests to host memory (R205, R366, R389). -/

namespace Sys2Proof.Machine

/-- A thread presents its instruction again: it parks with the moment of its first attempt, which orders the waiters. -/
def State.stallAct (s : State) (t : TRef) : Act :=
  match (s.th t).firstTry with
  | some n => .park s (.stall n)
  | none => .park ({ s with seq := s.seq + 1 }.modTh t fun x => { x with firstTry := some s.seq }) (.stall s.seq)

/-- The lane of the core that a thread issues on (R347). -/
def State.walkerOf (s : State) (t : TRef) : Walker := .lane (s.coreOf t) (s.buOf t).sub t.lane

/-- The bit of a fault notice's KIND that an access has (R354). -/
def needKind : Need → Nat
  | .read => 1
  | .write => 2
  | .fetch => 4

/-! ## Host requests -/

/-- Whether an ATS Translation Request for an aperture address can be sent now (R366, R367, R389). -/
def State.atsFree (s : State) (vd ap gpa : Nat) : Bool :=
  let (port, h, stream, _) := s.busAddr vd ap gpa
  s.portFree port && !s.atsHeld port (s.vd vd).vfn h && s.dmaOk vd stream

/-- A Translation Request sent for a host address of a VD, with the kind of access that it is for (R366): its tag, and the state with
it. -/
def State.askTr (s : State) (vd port stream h : Nat) (va : DWord) (need : Nat) (what : ReqFor) : Nat × State :=
  let (tag, s) := s.fresh
  let r : HostReq :=
    { tag := tag, port := port, vd := vd, stream := stream, haddr := h, va := va, size := 0, since := s.clk.svc
      what := what, need := need }
  (tag, { (if s.streamFailed stream then s else s.sendTlp stream 1 (.atsRequest tag port (s.vd vd).vfn h)) with reqs := s.reqs ++ [r] })

/-- An ATS Translation Request sent: its tag, and the state with it (R366). -/
def State.sendAts (s : State) (vd ap gpa : Nat) (va : DWord) (need : Nat) (what : Nat → ReqFor) : Nat × State :=
  let (port, h, stream, _) := s.busAddr vd ap gpa
  s.askTr vd port stream h va need (what h)

/-- The Translation Request of a waiting posted write (R366). -/
def State.askPost (s : State) (x : PostWait) : Nat × State :=
  s.askTr x.vd x.port x.stream x.haddr (dw x.by_.va) 2 (.ats x.vd x.ap x.haddr none)

/-- An ATS Translation Request for an aperture address; the thread waits for its completion (R366). -/
def State.askAts (s : State) (t : TRef) (vd ap gpa : Nat) (va : DWord) (need : Nat) : Act :=
  if !s.atsFree vd ap gpa then s.stallAct t
  else
    let (tag, s) := s.sendAts vd ap gpa va need fun h => .ats vd ap h none
    .park s (.host tag)

/-- A release at a scope before what follows it (R195): until its steps are complete, the thread presents its instruction again. -/
def State.releasing (s : State) (t : TRef) (sc : Nat) (k : State → Act) : Act :=
  match s.releaseStep t sc with
  | (s, true) => k s
  | (s, false) => s.stallAct t

/-- The release steps of some threads, each at a scope that may be its own, and whether all are complete. -/
def State.releaseAll (s : State) (sc : State → TRef → Nat) (act : List TRef) : State × Bool :=
  act.foldl (fun x t => ((x.1.releaseStep t (sc x.1 t)).1, x.2 && (x.1.releaseStep t (sc x.1 t)).2)) (s, true)

/-- A group's release: its threads share the outcome (R74). -/
def State.releasingAll (s : State) (lead : TRef) (sc : State → TRef → Nat) (act : List TRef) (k : State → Act) : Act :=
  match s.releaseAll sc act with
  | (s, true) => k s
  | (s, false) => s.stallAct lead

/-! ## The checks of R216 -/

/-- The outcome of the checks: a place, or what the thread does instead. -/
inductive Reach where
  | at_ (s : State) (l : Loc)
  | act (a : Act)

/-- Checks 1 to 4 of R216 for `n` bytes at `ea`, which must be a multiple of `align`. A full/empty operation, an atomic that the host
refuses and an MWATCH pass them too, so that they ask for a missing translation first (R237, R205, R233; DESIGN CHOICE, log entry
57). -/
def State.reach (s : State) (t : TRef) (ea : DWord) (n align : Nat) (need : Need) : Reach :=
  if ea.toNat % align != 0 then .act (.trap s causeAlignData ea)
  else
    match s.region t.blk ea.toNat n with
    | .prot => .act (.trap s causeProt ea)
    | .ticket => .act (.trap s causeGangTicket ea)
    | .gangWait => .act (s.stallAct t)
    | .array blk off remote => .at_ s (.scr blk off remote)
    | .global va =>
      match s.translate (s.walkerOf t) (s.vdOf t) va need with
      | (s', .absent level) => .act (.page s' va level (needKind need))
      | (s', .denied _) => .act (.trap s' causeProt ea)
      | (s', .ok (.host vd ap gpa)) =>
        if s'.atsMiss vd ap gpa then .act (s'.askAts t vd ap gpa ea (needKind need)) else .at_ s' (.host vd ap gpa)
      | (s', .ok l) => .at_ s' l

/-! ## The store buffer's view (R190) -/

/-- The byte that the latest buffered store of a list leaves at an address, if some store covers it. -/
def bufByte (st : List BufStore) (sp : Nat × Nat) (a : Nat) : Option Nat :=
  (st.reverse.find? fun b => b.loc.space == sp && b.loc.addr ≤ a && a < b.loc.addr + b.size).map fun b =>
    b.data.toNat / 2 ^ (8 * (a - b.loc.addr)) % 256

/-- The mask of the bytes of `[l, l + n)` that the stores cover, and their values. -/
def bufView (st : List BufStore) (l : Loc) (n : Nat) : Nat × Nat :=
  (List.range n).foldl (fun acc i =>
    match bufByte st l.space (l.addr + i) with
    | some v => (acc.1 + 2 ^ i, acc.2 + v * 2 ^ (8 * i))
    | none => acc) (0, 0)

/-- A value with the masked bytes replaced. -/
def mergeBytes (n mask own v : Nat) : Nat :=
  (List.range n).foldl (fun acc i =>
    acc + (if mask.testBit i then own / 2 ^ (8 * i) % 256 else v / 2 ^ (8 * i) % 256) * 2 ^ (8 * i)) 0

/-! ## Reads and writes at a point -/

/-- A read of device memory or an array for a core; `cs` is the policy .cs. -/
def State.locRead (s : State) (core : Nat) (l : Loc) (n : Nat) (pt : Point) (cs : Bool := false) : State × Nat × Bool :=
  match l with
  | .dev vd gpa ma => s.devRead core vd gpa ma n pt cs
  | .scr blk off _ => (s, s.scrRead blk off n, s.scrPoisoned blk off n)
  | .host _ _ _ => (s, 0, false)

/-- The register words of a loaded value (R221). -/
def loadWords (n : Nat) (sext : Bool) (v : Nat) : List Word :=
  if n ≤ 4 then [if sext then wordOfInt (signExt (8 * n) v) else BitVec.ofNat 32 v] else natWords (n / 4) v

/-- A load's result: it arrives under its window, and an acquire performs its steps (R195). -/
def State.loaded (s : State) (t : TRef) (d la n : Nat) (sext : Bool) (v : Nat) (acq : Option Nat) : State :=
  let s := s.later t d la (loadWords n sext v)
  match acq with
  | some sc => s.acquire t sc
  | none => s

/-- The core's line of a host address waits for a request's data (R189). -/
def State.awaitLine (s : State) (core vd ap line tag : Nat) (cs : Bool := false) : State :=
  match s.l1Line core vd line with
  | some l => s.putL1 core { l with fill := tag }
  | none =>
    s.fillL1 core { vd := vd, line := line, ma := none, data := 0, valid := 0, dirty := 0, ap := ap, fill := tag } cs

/-- The bytes of `[off, off + n)` that a line holds, under those that a mask already has: the new mask and the bytes. -/
def CLine.under (c : CLine) (off n mask own : Nat) : Nat × Nat :=
  (List.range n).foldl (fun acc i =>
    if mask.testBit i then (acc.1 + 2 ^ i, acc.2 + own / 2 ^ (8 * i) % 256 * 2 ^ (8 * i))
    else if c.valid.getLsbD (off + i) then (acc.1 + 2 ^ i, acc.2 + lineGet c.data (off + i) 1 * 2 ^ (8 * i))
    else acc) (0, 0)

/-- A host line that a thread needs at its instruction is asked for, unless it is on its way; the thread presents its instruction
again. -/
def State.askLine (s : State) (t : TRef) (vd ap gpa n : Nat) (va : DWord) : Act :=
  let line := gpa / 128
  let coming := ((s.l1Line (s.coreOf t) vd line).map s.filling).getD false
  if coming || !s.hostFree vd ap gpa then s.stallAct t
  else
    let tag := s.seq
    .park ((s.ask vd ap (line * 128) va 128 (.load t true line (gpa % 128) n false 0 0 none)
      fun tag port h => .request tag port h 128 (s.tOut vd)).awaitLine (s.coreOf t) vd ap line tag) (.host tag)

/-- A load from a place (R221). What a core's line holds of a host address is the L1's own, whatever the line's fill brings (R190). -/
def State.loadFrom (s : State) (t : TRef) (l : Loc) (ea : DWord) (d la n : Nat) (sext : Bool) (pt : Point)
    (acq : Option Nat) (cs : Bool := false) : Act :=
  let core := s.coreOf t
  let (mask, own) := bufView (s.th t).stores l n
  if mask == 2 ^ n - 1 then .next (s.loaded t d la n sext own acq)
  else
    match l with
    | .host vd ap gpa =>
      let off := gpa % 128
      let send (s : State) (fill : Bool) (at_ size off mask own : Nat) : Act :=
        if !s.hostFree vd ap gpa then s.stallAct t
        else
          let tag := s.seq
          let s := s.ask vd ap at_ ea size (.load t fill (gpa / 128) off n sext mask own acq)
            fun tag port h => .request tag port h size (s.tOut vd)
          let s := if fill then s.awaitLine core vd ap (gpa / 128) tag cs else s
          .next (s.later t d la (List.replicate ((n + 3) / 4) 0) noFlag tag)
      if pt == .l1 then
        match s.l1Line core vd (gpa / 128) with
        | some c =>
          if c.bad off n then .poison s 0
          else if c.has off n then .next (s.loaded t d la n sext (mergeBytes n mask own (lineGet c.data off n)) acq)
          else send s true (gpa / 128 * 128) 128 off (c.under off n mask own).1 (c.under off n mask own).2
        | none => send s true (gpa / 128 * 128) 128 off mask own
      else send (s.l1WriteBack core vd (gpa / 128)) false gpa n 0 mask own
    | l =>
      match s.locRead core l n pt cs with
      | (s', _, true) => .poison s' (s'.poisonVal l ea.toNat)
      | (s', v, false) => .next (s'.loaded t d la n sext (mergeBytes n mask own v) acq)

/-- A store into the region store buffer (R222, R409). -/
def State.bufferStore (s : State) (t : TRef) (l : Loc) (ea : DWord) (n v pol : Nat) : Act :=
  let x := s.th t
  if x.stores.length ≥ 16 * (s.bkOf t).rbuf then .gone (s.regionTrap t causeRegionOverflow ea)
  else
    let page : Nat × Nat := match l with
      | .scr _ _ _ => (0, 0)
      | _ => ((s.cachedTr (s.walkerOf t) (s.vdOf t) ea.toNat).map fun e => (e.va, e.size)).getD (ea.toNat / 65536 * 65536, 65536)
    .next (s.modTh t fun x =>
      { x with stores := x.stores ++
          [{ loc := l, size := n, data := BitVec.ofNat 128 v, pol := pol, vpage := ea.toNat / 65536, pageVa := page.1
             pageSize := page.2, pc := x.pc }] })

/-- A store performed at once at a point. -/
def State.storeNow (s : State) (t : TRef) (l : Loc) (ea : DWord) (n v : Nat) (pt : Point) : Act :=
  match s.performStore (s.coreOf t) l n v pt { src := 1, va := ea.toNat, thread := some (t, (s.th t).pc) } with
  | (s', true) => .poison s' (s'.poisonVal l ea.toNat)
  | (s', false) => .next s'

/-- The M format's effective address (R53): the pair plus the scaled, sign-extended offset. -/
def eaOf (base : DWord) (o n : Nat) : DWord := base + dwordOfInt (signExt 5 o * n)

end Sys2Proof.Machine
end

