-- ==== Sys2Proof/Machine/Atomic.lean ====
section
/-! DEFINITION. Atomics (R203, R205, R224 to R228). -/

namespace Sys2Proof.Machine

/-- What an atomic is sent as on a host port (R205): FetchAdd, Swap or CAS; none for the others. -/
inductive HostOp where
  | fetchAdd
  | swap
  | cas
  deriving DecidableEq, Repr

/-- An atomic: the value it writes, none when it writes nothing, from the old value, vb's and ATCAS's new value, all of
`bits` bits. -/
abbrev AtomicFn := (bits old b nv : Nat) → Option Nat

/-- The code of an AtomicOp as the model sends it. -/
def hostOpCode : HostOp → Nat
  | .fetchAdd => 0
  | .swap => 1
  | .cas => 2

/-- The lesser of two `bits`-bit patterns, signed or unsigned. -/
def lesser (signed : Bool) (bits x y : Nat) : Bool :=
  if signed then signExt bits x < signExt bits y else x < y

/-- ATFADD's sum (R228): RNE, no flush, no flag. -/
def atomicFadd : AtomicFn := fun bits old b _ =>
  let f : Fmt := if bits == 32 then .f32 else .f64
  some (addV f modeRne false (unpack f old) (unpack f b)).1

/-- A device or array atomic at its point (R224): the state and the old value, or poison. -/
def State.rmw (s : State) (t : TRef) (l : Loc) (n : Nat) (f : Nat → Option Nat) : State × Nat × Bool :=
  let core := s.coreOf t
  match l with
  | .dev vd gpa ma =>
    let s := (s.beyond core vd (gpa / 128) true).charge vd ma
    if s.devPoisoned ma n then (s, 0, true)
    else
      let old := s.homeRead ma n
      match f old with
      | some v => ((s.homeWrite vd gpa ma n v).beyondWrite core vd (gpa / 128) true, old, false)
      | none => (s.overtake core vd gpa n old true, old, false)
  | .scr blk off _ =>
    if s.scrPoisoned blk off n then (s, 0, true)
    else
      let old := s.scrRead blk off n
      match f old with
      | some v => (s.scrWrite blk off n v, old, false)
      | none => (s, old, false)
  | .host _ _ _ => (s, 0, false)

/-- An atomic of `n` bytes (R224): `host` is its AtomicOp, `f` its function, `cas` for ATCAS's two operands. A reduction,
`d = a`, writes no register. In an aperture with ATS a missing translation is asked for before HOST_ATOMIC is found (R216, R205;
DESIGN CHOICE, log entry 57). -/
def State.atomic (d a b l w : Nat) (host : Option HostOp) (cas : Bool) (f : AtomicFn) (s : State) :
    Host.Outcome State Fault Refusal :=
  let n := 4 * (w + 1)
  let rb := (b, (w + 1) * (if cas then 2 else 1))
  s.issue { regs := atomicRegs d a w ++ [rb], reads := [(a, 2), rb], closes := true } fun s t =>
    let ea := s.pair t a
    let rd (k : Nat) : Nat := if w == 0 then (s.reg t k).toNat else (s.pair t k).toNat
    let x := rd b
    let nv := if cas then rd (b + w + 1) else 0
    match s.reach t ea n n .write with
    | .act act => act
    | .at_ s (.host vd ap gpa) =>
      match host with
      | none => .trap s causeHostAtomic ea
      | some op =>
        if !((assocGet ap (s.vd vd).aps).getD {}).aop then .trap s causeHostAtomic ea
        else if !s.hostFree vd ap gpa then s.stallAct t
        else
          let s := (s.l1WriteBack (s.coreOf t) vd (gpa / 128)).l1Drop (s.coreOf t) vd (gpa / 128)
          let tag := s.seq
          .park (s.ask vd ap gpa ea n (.atomic t (if d == a then none else some (d, w + 1)) l)
            fun tag port h => .hostAtomic tag port h n (hostOpCode op) (if cas then nv else x) (if cas then x else 0) (s.tOut vd))
            (.host tag)
    | .at_ s loc =>
      match s.rmw t loc n fun old => f (8 * n) old x nv with
      | (s, _, true) => .poison s (s.poisonVal loc ea.toNat)
      | (s, old, false) => .next (if d == a then s else s.later t d l (natWords (w + 1) old))

/-- ATADD (R224). -/
def execAtadd (d a b l w : Nat) (s : State) : Host.Outcome State Fault Refusal :=
  s.atomic d a b l w (some .fetchAdd) false fun k old x _ => some ((old + x) % 2 ^ k)

/-- ATFADD (R224). -/
def execAtfadd (d a b l w : Nat) (s : State) : Host.Outcome State Fault Refusal :=
  s.atomic d a b l w none false atomicFadd

/-- ATMIN (R224). -/
def execAtmin (d a b l w : Nat) (s : State) : Host.Outcome State Fault Refusal :=
  s.atomic d a b l w none false fun k old x _ => some (if lesser true k x old then x else old)

/-- ATMAX (R224). -/
def execAtmax (d a b l w : Nat) (s : State) : Host.Outcome State Fault Refusal :=
  s.atomic d a b l w none false fun k old x _ => some (if lesser true k old x then x else old)

/-- ATMINN (R224). -/
def execAtminn (d a b l w : Nat) (s : State) : Host.Outcome State Fault Refusal :=
  s.atomic d a b l w none false fun k old x _ => some (if lesser false k x old then x else old)

/-- ATMAXN (R224). -/
def execAtmaxn (d a b l w : Nat) (s : State) : Host.Outcome State Fault Refusal :=
  s.atomic d a b l w none false fun k old x _ => some (if lesser false k old x then x else old)

/-- ATAND (R224). -/
def execAtand (d a b l w : Nat) (s : State) : Host.Outcome State Fault Refusal :=
  s.atomic d a b l w none false fun _ old x _ => some (old &&& x)

/-- ATOR (R224). -/
def execAtor (d a b l w : Nat) (s : State) : Host.Outcome State Fault Refusal :=
  s.atomic d a b l w none false fun _ old x _ => some (old ||| x)

/-- ATXOR (R224). -/
def execAtxor (d a b l w : Nat) (s : State) : Host.Outcome State Fault Refusal :=
  s.atomic d a b l w none false fun _ old x _ => some (old ^^^ x)

/-- ATXCH (R224). -/
def execAtxch (d a b l w : Nat) (s : State) : Host.Outcome State Fault Refusal :=
  s.atomic d a b l w (some .swap) false fun _ _ x _ => some x

/-- ATCAS (R224). -/
def execAtcas (d a b l w : Nat) (s : State) : Host.Outcome State Fault Refusal :=
  s.atomic d a b l w (some .cas) true fun _ old x nv => if old == x then some nv else none

end Sys2Proof.Machine
end

