-- ==== Sys2Proof/Machine/Fence.lean ====
section
/-! DEFINITION. Fences, SCOPE, remote-scope promotion, the line monitor and REGION (R207, R208, R229 to R234, R408). -/

namespace Sys2Proof.Machine

/-- FENCE (R229): release steps, acquire steps or both, at the encoded scope, for each active thread. -/
def execFence (k sc : Nat) (s : State) : Host.Outcome State Fault Refusal :=
  s.issueGroup { closes := true } fun s lead act =>
    let acquires (s : State) : Act := .next (if k == 1 then s else act.foldl (fun s t => s.acquire t sc) s)
    if k == 0 then acquires s else s.releasingAll lead (fun _ _ => sc) act acquires

/-- SETSCOPE (R230). -/
def execSetscope (sc : Nat) (s : State) : Host.Outcome State Fault Refusal :=
  s.issueGroup { closes := true } fun s _ act =>
    .next (act.foldl (fun s t => s.modTh t fun x => { x with scope := BitVec.ofNat 3 sc }) s)

/-- The cores whose L1 holds lines of a VD. -/
def State.coresOf (s : State) (vd : Nat) : List Nat :=
  (List.range s.cores.length).filter fun c => (s.co c).l1.any fun l => l.vd == vd

/-- ACQR (R207): every core of the VD writes back its L1, each die its far partition, then acquire at PKG. -/
def State.promoteAcquire (s : State) (t : TRef) : State :=
  let vd := s.vdOf t
  let s := (s.coresOf vd).foldl State.l1WriteBackAll s
  let s := (s.farWriteBackVd 0 vd).farWriteBackVd 1 vd
  s.acquire t 3

def execAcqr (s : State) : Host.Outcome State Fault Refusal :=
  s.issueGroup { closes := true } fun s _ act => .next (act.foldl State.promoteAcquire s)

/-- RELR (R208): release at PKG, then every L1 and far partition drops the VD's lines. -/
def State.promoteRelease (s : State) (t : TRef) : State :=
  let vd := s.vdOf t
  let s := s.release t 3
  let s := (s.coresOf vd).foldl State.l1InvalidateAll s
  (s.farInvalidateVd 0 vd).farInvalidateVd 1 vd

def execRelr (s : State) : Host.Outcome State Fault Refusal :=
  s.issueGroup { closes := true } fun s _ act => .next (act.foldl State.promoteRelease s)

/-- REGION (R408). -/
def execRegion (s : State) : Host.Outcome State Fault Refusal := s.issueGroup { closes := true } fun s _ _ => .next s

/-! ## The line monitor -/

/-- The monitor that watches a place (R233): one on host memory holds its event at once. -/
def monitorOf : Loc → Monitor
  | .dev vd gpa _ => { key := .dev vd (gpa / 128), event := false }
  | .scr blk off _ => { key := .scr blk (off / 128), event := false }
  | .host _ _ _ => { key := .host, event := true }

/-- MWATCH (R233): the address of the lowest active lane, checked as a 1-byte access, for which an aperture with ATS may ask for a
translation first (DESIGN CHOICE, log entry 57). -/
def execMwatch (a : Nat) (s : State) : Host.Outcome State Fault Refusal :=
  s.issueGroup { regs := [(a, 2)], reads := [(a, 2)] } fun s lead act =>
    match s.reach lead (s.pair lead a) 1 1 .read with
    | .act x => x
    | .at_ s loc => .next (act.foldl (fun s t => s.modTh t fun x => { x with monitor := some (monitorOf loc) }) s)

/-- A thread that leaves an MWAIT: its status, its monitor disarmed, and the step on (R234). -/
def State.endMwait (s : State) (t : TRef) (dst : Nat) (status : Word) : State :=
  (s.modBu t.blk t.bun fun b => b.write t.lane dst status).modTh t fun x => { x with monitor := none }.step

/-- MWAIT (R234): the limit of the lowest active lane; a thread whose monitor holds an event, or that has none armed, or
whose limit is 0, returns at once. -/
def execMwait (d b : Nat) (s : State) : Host.Outcome State Fault Refusal :=
  s.issueGroup { regs := [(d, 1), (b, 1)], reads := [(b, 1)] } fun s lead act =>
    let n := s.reg lead b
    .gone (act.foldl (fun s t =>
      let dst := (s.buOf t).base + d
      match (s.th t).monitor with
      | none => s.endMwait t dst 2
      | some m =>
        if m.event then s.endMwait t dst 0
        else if n == 0 then s.endMwait t dst 1
        else s.modTh t fun x => { x with park := .mwait (if n == 0xFFFFFFFF then none else some n.toNat) dst }) s)

/-- A thread in MWAIT whose monitor has latched an event returns status 0 (R234). -/
def State.wakeMwait (s : State) (t : TRef) : State :=
  match (s.th t).park, (s.th t).monitor with
  | .mwait _ dst, some m => if m.event then s.endMwait t dst 0 else s
  | _, _ => s

/-- MWAIT_LIMIT_EXPIRE (R234): status 1, or 0 when an event is there in the same cycle. -/
def execMwaitLimitExpire (t : TRef) (s : State) : Host.Outcome State Fault Refusal :=
  .next (match (s.th t).park, (s.th t).monitor with
    | .mwait (some 0) dst, some m => s.endMwait t dst (if m.event then 0 else 1)
    | _, _ => s)

/-- MONITOR_DISPLACEMENT (R233): the device may latch an event at any moment while a monitor is armed. -/
def execMonitorDisplacement (t : TRef) (s : State) : Host.Outcome State Fault Refusal :=
  .next (s.modTh t latchOwn)

end Sys2Proof.Machine
end

