-- ==== Sys2Proof/Machine/Sync.lean ====
section
/-! DEFINITION. Arrival barriers, named queues, hardware barriers and WAITC (R257 to R270), and yielding and sleeping
(R282, R283). -/

namespace Sys2Proof.Machine

/-! ## Arrival barriers (R259, R260): the fields of the 16-byte object read as one number -/

def barNarr (v : Nat) : Nat := bitsOf v 15 0
def barArr (v : Nat) : Nat := bitsOf v 31 16
def barXbytes (v : Nat) : Nat := bitsOf v 55 32
def barPhase (v : Nat) : Bool := bitsOf v 56 56 == 1
def barErr (v : Nat) : Bool := bitsOf v 57 57 == 1
def barExpb (v : Nat) : Nat := bitsOf v 87 64
def barEcode (v : Nat) : Nat := bitsOf v 95 88
def barBcnt (v : Nat) : Nat := bitsOf v 119 96

/-- NARR is 0 or a reserved bit is set (R260). -/
def barBad (v : Nat) : Bool := barNarr v == 0 || bitsOf v 63 58 != 0 || bitsOf v 127 120 != 0

/-- The object with counts replaced. -/
def barCounts (v arr bcnt expb : Nat) : Nat :=
  barNarr v + 2 ^ 16 * arr + 2 ^ 32 * bitsOf v 63 32 + 2 ^ 64 * expb + 2 ^ 88 * barEcode v + 2 ^ 96 * bcnt +
    2 ^ 120 * bitsOf v 127 120

/-- The object after Complete(err, code): PHASE inverts and the counts are zero (R260). -/
def barComplete (v : Nat) (err : Bool) (code : Nat) : Nat :=
  barNarr v + 2 ^ 32 * barXbytes v + 2 ^ 56 * (if barPhase v then 0 else 1) + 2 ^ 57 * (if err then 1 else 0) +
    2 ^ 58 * bitsOf v 63 58 + 2 ^ 88 * code + 2 ^ 120 * bitsOf v 127 120

/-- The status that a released waiter reads (R262). -/
def barStatus (v : Nat) : Word := BitVec.ofNat 32 ((if barErr v then 1 else 0) + 2 ^ 8 * barEcode v)

/-- A thread that leaves a BWAIT completed: its status, its mark cleared, an acquire at SCOPE (R262). -/
def State.endBwait (s : State) (t : TRef) (dst : Nat) (v : Nat) : State :=
  ((s.modBu t.blk t.bun fun b => b.write t.lane dst (barStatus v)).modTh t fun x =>
    { x with mark := none }.stepRegion).acquire t (s.scopeOf t)

/-- The waiters of a barrier whose phase has passed are released (R260, R262); those of halted blocks compare again when
they resume. -/
def State.releaseBar (s : State) (blk off : Nat) : State :=
  let v := s.scrRead blk off 16
  s.threads.foldl (fun s x =>
    match x.park with
    | .bwait b o phase _ dst =>
      if b == blk && o == off && phase != barPhase v && s.running x.ref.blk then s.endBwait x.ref dst v else s
    | _ => s) s

/-- Complete(err, code) at a barrier (R260). -/
def State.completeBar (s : State) (blk off : Nat) (err : Bool) (code : Nat) : State :=
  (s.scrWrite blk off 16 (barComplete (s.scrRead blk off 16) err code)).releaseBar blk off

/-- An update by `a` arrivals, `b` bytes and `e` expected bytes of a well-formed barrier (R260). -/
def State.updateBar (s : State) (blk off a b e : Nat) : State :=
  let v := s.scrRead blk off 16
  if barArr v + a > barNarr v || barBcnt v + b > 2 ^ 24 - 1 || barExpb v + e > 2 ^ 24 - 1 then
    s.completeBar blk off true causeBarrier
  else
    let v' := barCounts v (barArr v + a) (barBcnt v + b) (barExpb v + e)
    let s := s.scrWrite blk off 16 v'
    if barArr v' == barNarr v' && barBcnt v' == barXbytes v' + barExpb v' then s.completeBar blk off false 0 else s

/-- An engine's arrival: an overwritten barrier completes in error with BARRIER (R260). -/
def State.engineArrive (s : State) (blk off bytes : Nat) : State :=
  if barBad (s.scrRead blk off 16) then s.completeBar blk off true causeBarrier else s.updateBar blk off 1 bytes 0

/-- The scratchpad place that an instruction names for a 16-byte object (R263): alignment, then a scratchpad region. -/
def State.reachScr (s : State) (t : TRef) (ea : DWord) : Reach :=
  if ea.toNat % 16 == 0 && ea.toNat < scratchBase then .act (.trap s causeProt ea) else s.reach t ea 16 16 .write

/-- A thread's wait mark set to a barrier and its phase (R261). -/
def State.setMark (s : State) (blk off : Nat) (t : TRef) : State :=
  s.modTh t fun x => { x with mark := some (blk, off, barPhase (s.scrRead blk off 16)) }

/-- ARRIVE and EXPECT (R260, R261, R263, R446): A is the number of active threads, vb the lowest active lane's. -/
def State.arriveOp (expect : Bool) (a b : Nat) (s : State) : Host.Outcome State Fault Refusal :=
  s.issueGroup { regs := [(a, 2), (b, 1)], reads := [(a, 2), (b, 1)], closes := true } fun s lead act =>
    let ea := s.pair lead a
    match s.reachScr lead ea with
    | .act x => x
    | .at_ s (.scr blk off _) =>
      if s.scrPoisoned blk off 16 then .poison s 0
      else if barBad (s.scrRead blk off 16) then .trap s causeBarrier ea
      else
        let n := (s.reg lead b).toNat * act.length
        s.releasingAll lead State.scopeOf act fun s =>
          let s := act.foldl (fun s t => s.setMark blk off t) s
          .next (if expect then s.updateBar blk off 0 0 n else s.updateBar blk off n 0 0)
    | .at_ s _ => .trap s causeProt ea

/-- ARRIVE (R260). -/
def execArrive (a b : Nat) (s : State) : Host.Outcome State Fault Refusal := s.arriveOp false a b

/-- EXPECT (R260). -/
def execExpect (a b : Nat) (s : State) : Host.Outcome State Fault Refusal := s.arriveOp true a b

/-- BWAIT and BWAITT (R262): `left` is the limit, none for no limit. -/
def State.bwaitOp (d a : Nat) (rb : List (Nat × Nat)) (limit : State → TRef → Option Nat) (s : State) :
    Host.Outcome State Fault Refusal :=
  s.issueGroup { regs := (d, 1) :: (a, 2) :: rb, reads := (a, 2) :: rb, closes := true } fun s lead act =>
    let ea := s.pair lead a
    let left := limit s lead
    match s.reachScr lead ea with
    | .act x => x
    | .at_ s (.scr blk off _) =>
      let v := s.scrRead blk off 16
      if s.scrPoisoned blk off 16 then .poison s 0
      else if barBad v then .trap s causeBarrier ea
      else
        .gone (act.foldl (fun s t =>
          let dst := (s.buOf t).base + d
          let phase := match (s.th t).mark with
            | some (b, o, p) => if b == blk && o == off then p else barPhase v
            | none => barPhase v
          if phase != barPhase v then s.endBwait t dst v
          else
            let s := s.modTh t fun x => { x with mark := some (blk, off, phase) }
            if left == some 0 then
              (s.modBu t.blk t.bun fun b => b.write t.lane dst 2).modTh t Thread.stepRegion
            else s.modTh t fun x => { x with park := .bwait blk off phase left dst }) s)
    | .at_ s _ => .trap s causeProt ea

/-- BWAIT (R262). -/
def execBwait (d a : Nat) (s : State) : Host.Outcome State Fault Refusal := s.bwaitOp d a [] fun _ _ => none

/-- BWAITT (R262): 0xFFFF_FFFF is no limit. -/
def execBwaitt (d a b : Nat) (s : State) : Host.Outcome State Fault Refusal :=
  s.bwaitOp d a [(b, 1)] fun s lead => if s.reg lead b == 0xFFFFFFFF then none else some (s.reg lead b).toNat

/-- BWAITT_LIMIT_EXPIRE (R262): status 2, the mark kept; a completion in the same cycle gives 0 or 1. -/
def execBwaittLimitExpire (t : TRef) (s : State) : Host.Outcome State Fault Refusal :=
  .next (match (s.th t).park with
    | .bwait blk off phase (some 0) dst =>
      let v := s.scrRead blk off 16
      if phase != barPhase v then s.endBwait t dst v
      else (s.modBu t.blk t.bun fun b => b.write t.lane dst 2).modTh t Thread.stepRegion
    | _ => s)

/-! ## Named queues (R264 to R267) -/

def queueByte (s : State) (blk off k : Nat) : Nat := s.scrRead blk (off + k) 1

/-- Whether a descriptor is malformed (R267). -/
def State.queueBad (s : State) (blk off q : Nat) : Bool :=
  let b := queueByte s blk off
  b 7 != 0x80 + q || b 0 == 0 || b 0 > 128 || b 2 ≥ b 0 || b 3 > b 0 || s.scrRead blk (off + 4) 3 != 0 ||
    s.scrRead blk (off + 8) 8 != 0

/-- SLOTS rounded up to 8. -/
def queueP (slots : Nat) : Nat := (slots + 7) / 8 * 8

/-- The send allowance of a producer bundle (R264). -/
def State.allowance (s : State) (blk off : Nat) : Nat :=
  let a := queueByte s blk off 1
  if a != 0 then a
  else
    let n := queueByte s blk off 0 / Nat.max 1 (s.ke (s.bk blk).kernel).desc.bundles
    if n == 0 then 1 else n

/-- push(h) by a bundle (R265); none when it fails. -/
def State.qPush (s : State) (blk off bun : Nat) (h : DWord) : Option State :=
  let slots := queueByte s blk off 0
  let count := queueByte s blk off 3
  let occ := queueByte s blk off (16 + bun)
  if count < slots && occ < s.allowance blk off then
    let k := (queueByte s blk off 2 + count) % slots
    let s := s.scrWrite blk (off + 48 + queueP slots + 8 * k) 8 h.toNat
    let s := s.scrWrite blk (off + 48 + k) 1 bun
    let s := s.scrWrite blk (off + 16 + bun) 1 (occ + 1)
    some (s.scrWrite blk (off + 3) 1 (count + 1))
  else none

/-- pop (R265); none when the queue is empty. -/
def State.qPop (s : State) (blk off : Nat) : Option (State × DWord) :=
  let slots := queueByte s blk off 0
  let count := queueByte s blk off 3
  let head := queueByte s blk off 2
  if count > 0 then
    let h := s.scrRead blk (off + 48 + queueP slots + 8 * head) 8
    let own := queueByte s blk off (48 + head)
    let s := s.scrWrite blk (off + 16 + own) 1 ((queueByte s blk off (16 + own) + 255) % 256)
    let s := s.scrWrite blk (off + 2) 1 ((head + 1) % slots)
    some (s.scrWrite blk (off + 3) 1 (count - 1), dw h)
  else none

/-- The threads of a waiter. -/
def QWaiter.refs (w : QWaiter) (blk : Nat) : List TRef := w.lanes.map fun l => { blk := blk, bun := w.bun, lane := l }

/-- A pop's handle given to its threads, each an acquire at its SCOPE (R194, R265). -/
def State.popTo (s : State) (l : List TRef) (dst : Nat) (h : DWord) : State :=
  l.foldl (fun s t =>
    ((s.modBu t.blk t.bun fun b => b.writes t.lane dst [loWord h, hiWord h]).acquire t (s.scopeOf t))) s

/-- A waiter's operation tried (R266). -/
def State.tryWaiter (s : State) (blk off : Nat) (w : QWaiter) : Option State :=
  match w.push with
  | some h => (s.qPush blk off w.bun h).map fun s => (w.refs blk).foldl State.resume s
  | none => (s.qPop blk off).map fun r => (w.refs blk).foldl State.resume (r.1.popTo (w.refs blk) w.dst r.2)

/-- The first waiter of a queue that can be served: pops in the order in which they blocked, pushes in the order of their
first attempt; one that cannot proceed is passed over. -/
def State.serveOne (s : State) (blk off : Nat) : List QWaiter → Option (QWaiter × State)
  | [] => none
  | w :: r =>
    match s.tryWaiter blk off w with
    | some s' => some (w, s')
    | none => s.serveOne blk off r

/-- Blocked operations served after an operation that succeeded (R266). -/
def State.serveQueue (s : State) (blk q off : Nat) : Nat → State
  | 0 => s
  | fuel + 1 =>
    match s.serveOne blk off (((s.bk blk).waiters.filter fun w => w.q == q).inOrder fun a b => a.stamp ≤ b.stamp) with
    | none => s
    | some (w, s') =>
      (s'.modBk blk fun b => { b with waiters := b.waiters.filter fun x => x != w }).serveQueue
        blk q off fuel

/-- The queue's offset, or the QUEUE trap (R267). -/
def State.queueAt (s : State) (blk q : Nat) : Except DWord Nat :=
  match (s.bk blk).queues[q]? with
  | none => .error (dw (q + 0x100))
  | some off => if s.queueBad blk off q then .error (dw (q + 0x200)) else .ok off

/-- A push or a pop attempted for a group (R265, R266): `try_` pushes the outcome instead of blocking. -/
def State.queueTry (s : State) (q off : Nat) (lead : TRef) (act : List TRef) (h : Option DWord) (dst : Nat) (try_ : Bool)
    (stamp : Nat) : Act :=
  let blk := lead.blk
  let res : Option State := match h with
    | some h => s.qPush blk off lead.bun h
    | none => (s.qPop blk off).map fun r => r.1.popTo act dst r.2
  let told (s : State) (ok : Bool) : State :=
    if try_ then act.foldl (fun s t => s.modTh t (·.pushPred ok)) s else s
  match res with
  | some s => .next ((told s true).serveQueue blk q off (s.bk blk).waiters.length)
  | none =>
    if try_ then .next (told s false)
    else
      let w : QWaiter := { q := q, bun := lead.bun, lanes := act.map fun t => t.lane, push := h, dst := dst, stamp := stamp }
      let s := ({ s with seq := s.seq + 1 } : State).modBk blk fun b => { b with waiters := b.waiters ++ [w] }
      .park (act.foldl (fun s t => s.modTh t fun x => { x with firstTry := some stamp }) s) (.queue q)

/-- A queue instruction (R265 to R267): `push` gives the handle of a push; `try_` pushes the outcome instead of blocking. -/
def State.queueOp (q d : Nat) (regs reads : List (Nat × Nat)) (push : Option (State → TRef → DWord)) (try_ : Bool)
    (s : State) : Host.Outcome State Fault Refusal :=
  s.issueGroup { regs := regs, reads := reads, closes := true, pushes := try_ } fun s lead act =>
    let blk := lead.blk
    match s.queueAt blk q with
    | .error v => .trap s causeQueue v
    | .ok off =>
      if s.scrPoisoned blk off (48 + 9 * queueP (queueByte s blk off 0)) then .poison s 0
      else
        let stamp := if push.isSome then (s.th lead).firstTry.getD s.seq else s.seq
        let dst := (s.buOf lead).base + d
        let h := push.map fun f => f s lead
        let run (s : State) : Act :=
          s.queueTry q off lead act h dst try_ stamp
        if push.isSome then s.releasingAll lead State.scopeOf act run else run s

/-- QPUSH (R265). -/
def execQpush (q b : Nat) (s : State) : Host.Outcome State Fault Refusal :=
  s.queueOp q 0 [(b, 2)] [(b, 2)] (some fun s t => s.pair t b) false

/-- QPOP (R265). -/
def execQpop (d q : Nat) (s : State) : Host.Outcome State Fault Refusal := s.queueOp q d [(d, 2)] [] none false

/-- QTRYPUSH (R265). -/
def execQtrypush (q b : Nat) (s : State) : Host.Outcome State Fault Refusal :=
  s.queueOp q 0 [(b, 2)] [(b, 2)] (some fun s t => s.pair t b) true

/-- QTRYPOP (R265). -/
def execQtrypop (d q : Nat) (s : State) : Host.Outcome State Fault Refusal := s.queueOp q d [(d, 2)] [] none true

/-! ## Hardware barriers (R269, R399) -/

/-- Whether a thread takes part in a barrier (R269). -/
def State.partOf (s : State) (k : BarKey) (t : TRef) : Bool :=
  let b := s.bk t.blk
  match k with
  | .core blk _ => t.blk == blk
  | .quad g _ => b.gang == g
  | .die ke die _ => b.kernel == ke && dieOfCore b.core == die
  | .pkg ke _ => b.kernel == ke
  | .pod vd _ => b.vd == vd && (s.ke b.kernel).desc.cooperative

/-- The scope of a barrier. -/
def BarKey.scope : BarKey → Nat
  | .core _ _ => 0
  | .quad _ _ => 1
  | .die _ _ _ => 2
  | .pkg _ _ => 3
  | .pod _ _ => 4

def BarKey.id : BarKey → Nat
  | .core _ i => i
  | .quad _ i => i
  | .die _ _ i => i
  | .pkg _ i => i
  | .pod _ i => i

/-- The barrier's state, at generation 0 when none is recorded. -/
def State.bar (s : State) (k : BarKey) : BarState := (s.bars.find? fun x => x.key == k).getD { key := k }

def State.setBar (s : State) (b : BarState) : State :=
  { s with bars := b :: s.bars.filter fun x => x.key != b.key }

/-- Whether every participant on this package has arrived or exited. -/
def State.allArrived (s : State) (b : BarState) : Bool :=
  s.threads.all fun x => !s.partOf b.key x.ref || x.park == .exited || b.arrived.contains x.ref

/-- The generation opens: the arrived threads resume after the acquire steps at the scope. -/
def State.openBar (s : State) (b : BarState) : State :=
  let s := s.setBar { b with gen := b.gen + 1, arrived := [], sent := false, ranks := b.ranks.filter fun r => r / 1024 > b.gen }
  b.arrived.foldl (fun s t => (s.acquire t b.key.scope).resume t) s

/-- The POD ranks of a VD's partition. -/
def State.podRanks (s : State) (vd : Nat) : List Rank :=
  ((s.parts.getD (s.vd vd).part {}).ranks).filter fun r => r.v && r.pod

/-- A barrier flit's DATA, as the model lays it out (log entry 12): the id, and the generation from bit 32 on. -/
def barFlitData (id gen : Nat) : BitVec 1024 := BitVec.ofNat 1024 (id + 2 ^ 32 * gen)

/-- The enabled Longshore ports (R437). -/
def State.linkPorts (s : State) : Nat := Nat.max 1 (Nat.min 36 s.boot.ports)

/-- The IV of a flit (R395): KEY, the package's physical id, which is 0 here (log entry 5), and the port's transmit counter. -/
def flitIv (key count : Nat) : BitVec 96 := BitVec.ofNat 96 (2 ^ 80 * key + count % 2 ^ 64)

/-- A flit sent under the link key of a partition (R395): bytes 16 to 239 are encrypted, with bytes 0 to 15 as AAD, and the port's
transmit counter for the key advances. The port is the transfer tag modulo the ports enabled: R398 lets a flit take any (log entry
49). -/
def State.flitOut (s : State) (part typ drank srank addr tag : Nat) (data : BitVec 1024) (be : BitVec 128) (fev few : BitVec 16) :
    State :=
  let p := s.parts.getD part {}
  let port := tag % s.linkPorts
  let n := (assocGet port p.linkTx).getD 0
  let iv := flitIv p.key n
  let head := natBytes 2 p.key ++ natBytes 2 drank ++ natBytes 2 srank ++ natBytes 1 typ ++ natBytes 1 0 ++
    natBytes 8 (addr % 2 ^ 52 + 2 ^ 52 * (tag % 4096))
  let body := natBytes 128 data.toNat ++ natBytes 16 be.toNat ++ natBytes 2 fev.toNat ++ natBytes 2 few.toNat ++
    List.replicate 76 0
  let out := gcmSeal (p.linkKey.getD 0) iv head body
  ({ s with parts := s.parts.modify part fun p => { p with linkTx := assocSet port (n + 1) p.linkTx } } : State).emit
    (.flit port p.key drank srank typ addr tag data be fev few iv (out.1 ++ natBytes 16 out.2.toNat))

/-- This package's arrival flits, one to every other POD rank, when the link keys are loaded (R396, R399); with no other POD rank
there is nothing to send. -/
def State.sendArrivals (s : State) (vd : Nat) (b : BarState) : State :=
  let part := (s.vd vd).part
  let p := s.parts.getD part {}
  let others := (s.podRanks vd).filter fun r => !(r.pkgid == 0 && r.vd == vd)
  match ((s.podRanks vd).find? fun r => r.pkgid == 0 && r.vd == vd).map (·.rank) with
  | none => s
  | some me =>
    if !others.isEmpty && (p.linkKey.isNone || !p.linkUsable) then s
    else
      (others.foldl (fun s r => s.flitOut part 4 r.rank me 0 0 (barFlitData b.key.id b.gen) 0 0 0) s).setBar { b with sent := true }

/-- A pod barrier opens when this package has arrived and holds arrivals from every other POD rank (R399). -/
def State.checkPod (s : State) (vd : Nat) (b : BarState) : State :=
  if b.arrived.isEmpty || !s.allArrived b then s
  else
    let s := if b.sent then s else s.sendArrivals vd b
    let b := s.bar b.key
    let ok := b.sent && (s.podRanks vd).all fun r =>
      (r.pkgid == 0 && r.vd == vd) || b.ranks.contains (1024 * b.gen + r.rank)
    if ok then s.openBar b else s

/-- A barrier that may have become complete. -/
def State.checkBar (s : State) (k : BarKey) : State :=
  let b := s.bar k
  match k with
  | .pod vd _ => s.checkPod vd b
  | _ => if b.arrived.isEmpty || !s.allArrived b then s else s.openBar b

/-- Every barrier checked again, after a thread has ended. -/
def State.checkBars (s : State) : State := (s.bars.map (·.key)).foldl State.checkBar s

/-- The barrier that BAR names (R269). -/
def State.barKey (s : State) (t : TRef) (sc id : Nat) : BarKey :=
  let b := s.bkOf t
  match sc with
  | 0 => .core t.blk id
  | 1 => .quad b.gang id
  | 2 => .die b.kernel (dieOfCore b.core) id
  | 3 => .pkg b.kernel id
  | _ => .pod b.vd id

/-- BAR (R269, R270, R399): a QUAD arrival waits for gang start, and traps when its gang's ticket is retired (R372). -/
def execBar (sc id : Nat) (s : State) : Host.Outcome State Fault Refusal :=
  s.issueGroup { closes := true } fun s lead act =>
    let b := s.bkOf lead
    if sc ≥ 2 && !(s.ke b.kernel).desc.cooperative then .trap s causeBarrier (dw sc)
    else if sc == 1 && !(s.ga b.gang).started then
      if s.hasGa b.gang then s.stallAct lead else .trap s causeGangTicket (dw id)
    else if sc == 4 && (s.cmds.any fun c => c.blk == lead.blk && c.bun == lead.bun && c.cls == 2 && c.inFlight) then
      s.stallAct lead
    else
      let s := act.foldl (fun s t => s.release t sc) s
      let k := s.barKey lead sc id
      let st := s.bar k
      let s := s.setBar { st with arrived := st.arrived ++ act }
      let s := act.foldl (fun s t => s.modTh t fun x => { x with park := .bar sc id st.gen }) s
      .gone (s.checkBar k)

/-! ## WAITC (R257, R258) -/

/-- A group whose counter satisfies WAITC: each thread acquires at its SCOPE; the oldest held fault of the class is then
raised by each and cleared. -/
def State.endWaitc (s : State) (blk bun cls : Nat) (act : List TRef) : State :=
  let s := act.foldl (fun s t => s.acquire t (s.scopeOf t)) s
  match (s.bu blk bun).held.find? fun h => h.cls == cls with
  | none => act.foldl State.resume s
  | some h =>
    let s := s.modBu blk bun fun b => { b with held := b.held.filter fun x => x.cmd != h.cmd }
    act.foldl (fun s t => s.trap t h.cause h.val) s

/-- WAITC (R258). -/
def execWaitc (c n : Nat) (s : State) : Host.Outcome State Fault Refusal :=
  s.issueGroup { closes := true } fun s lead act =>
    if s.counter lead.blk lead.bun c ≤ n then .gone (s.endWaitc lead.blk lead.bun c act)
    else .park { s with seq := s.seq + 1 } (.waitc c n s.seq)

/-- The groups of a bundle that wait for a class and whose counter now satisfies them (R257, R258). -/
def State.wakeWaitc (s : State) (blk bun cls : Nat) : State :=
  let n := s.counter blk bun cls
  let due (p : Park) : Option Nat := match p with
    | .waitc c m k => if c == cls && n ≤ m then some k else none
    | _ => none
  let ths := (s.threadsOf blk bun).inOrder fun a b => a.ref.lane ≤ b.ref.lane
  let stamps := ((ths.filterMap fun x => due x.park).eraseDups).inOrder fun a b => a ≤ b
  if !s.running blk then s
  else
    stamps.foldl (fun s k =>
      s.endWaitc blk bun cls ((ths.filter fun x => due x.park == some k).map (·.ref))) s

/-! ## Yielding and sleeping (R282, R283) -/

/-- YIELD (R282). -/
def execYield (s : State) : Host.Outcome State Fault Refusal :=
  s.issueGroup {} fun s _ act =>
    .gone (act.foldl (fun s t => s.modTh t fun x => { x.step with park := .yielding 64 }) s)

/-- YIELD_END (R282): the yielding thread is ready again. -/
def execYieldEnd (t : TRef) (s : State) : Host.Outcome State Fault Refusal :=
  .next (match (s.th t).park with
    | .yielding _ => s.modTh t fun x => { x with park := .running }
    | _ => s)

/-- SLEEP (R283): the count of the lowest active lane; with 0 the thread is ready at the next pick. -/
def execSleep (b : Nat) (s : State) : Host.Outcome State Fault Refusal :=
  s.issueGroup { regs := [(b, 1)], reads := [(b, 1)] } fun s lead act =>
    let n := (s.reg lead b).toNat
    .gone (act.foldl (fun s t =>
      s.modTh t fun x => { x.step with park := if n == 0 then .running else .sleep n }) s)

/-- SLEEP_EXPIRE (R283). -/
def execSleepExpire (t : TRef) (s : State) : Host.Outcome State Fault Refusal :=
  .next (match (s.th t).park with
    | .sleep 0 => s.modTh t fun x => { x with park := .running }
    | _ => s)

end Sys2Proof.Machine
end

