-- ==== Sys2Proof/Machine/Tile.lean ====
section
/-! DEFINITION. Tiles as lists of raw elements in row-major order: their formats, the checked image (R155, R172, R173),
checksums (R170, R171), exact products (R110, R111) and the checks of a product (R181, R182). -/

namespace Sys2Proof.Machine

/-! ## Elements -/

/-- The float format of a format code of R31, for the float codes. -/
def codeFmt : Nat → Option Fmt
  | 0 => some .e2m1
  | 1 => some .e4m3
  | 2 => some .e5m2
  | 5 => some .f16
  | 6 => some .bf16
  | 7 => some .f32
  | 9 => some .f64
  | _ => none

/-- The value of an integer element: s8, n8, s32 or n64. -/
def intElem (code x : Nat) : Int :=
  match code with
  | 3 => signExt 8 x
  | 8 => signExt 32 x
  | _ => x

/-- The value of a float element. -/
def floatElem (code x : Nat) : FVal :=
  match codeFmt code with
  | some f => unpack f x
  | none => .nan false 0 0 false

/-- Bytes of a list, as a little-endian number; missing bytes read as zero. -/
def bytesAt (l : List Byte) (off n : Nat) : Nat := bytesNat ((l.drop off).take n)

/-- Element `n` of packed elements: a nibble for e2m1 (R96), whole bytes otherwise. -/
def packedElem (code : Nat) (l : List Byte) (n : Nat) : Nat :=
  if code == 0 then bytesAt l (n / 2) 1 / 2 ^ (4 * (n % 2)) % 16
  else let e := elemNibbles code / 2; bytesAt l (n * e) e

/-- Elements packed into bytes. -/
def packElems (code : Nat) (l : List Nat) : List Byte :=
  if code == 0 then
    (List.range ((l.length + 1) / 2)).map fun i => BitVec.ofNat 8 (l.getD (2 * i) 0 + 16 * l.getD (2 * i + 1) 0)
  else l.flatMap fun x => natBytes (elemNibbles code / 2) x

def roundUp (k n : Nat) : Nat := (n + k - 1) / k * k

/-! ## The checked image (R172, R173) -/

/-- A header's fields. -/
structure TileHdr where
  fmt : Nat
  rows : Nat
  cols : Nat
  mode : Bool
  comp : Nat
  plen : Nat
  stale : Nat
  modq : Nat
  deriving DecidableEq, Repr

/-- The fields of 64 header bytes. -/
def readHdr (h : List Byte) : TileHdr :=
  { fmt := bytesAt h 2 1 % 16, rows := bytesAt h 3 1, cols := bytesAt h 4 1, mode := bytesAt h 5 1 % 2 == 1
    comp := bytesAt h 6 1, plen := bytesAt h 8 4, stale := bytesAt h 16 16, modq := bytesAt h 32 8 }

/-- Raw payload bytes of an element matrix, before padding. -/
def rawBytes (code rows cols : Nat) : Nat := (rows * cols * elemNibbles code + 1) / 2

/-- Whether a payload length can belong to the header (R155, R173); a zero-run payload is judged again when it is read. -/
def plenBad (t : TileHdr) : Bool :=
  match t.comp with
  | 0 => t.plen != roundUp 16 (rawBytes t.fmt t.rows t.cols)
  | 1 => !(t.fmt == 1 || t.fmt == 2 || t.fmt == 3 || t.fmt == 4 || t.fmt == 5 || t.fmt == 6) || t.plen % 16 != 0 ||
      t.plen < roundUp 16 (8 * t.rows) || t.plen > roundUp 16 (8 * t.rows + rawBytes t.fmt t.rows t.cols)
  | _ => t.fmt != 0 || t.rows % 32 != 0 || t.plen != roundUp 16 (t.rows * t.cols / 2 + t.rows / 32 * t.cols)

/-- Whether a header breaks R172 or the layout of R173. -/
def hdrBad (h : List Byte) : Bool :=
  let t := readHdr h
  bytesAt h 0 2 != 0x544B || bytesAt h 2 1 / 16 != 0 || t.fmt > 10 || t.rows == 0 || t.rows > 64 || t.cols == 0 ||
    t.cols > 64 || bytesAt h 5 1 / 2 != 0 || t.comp > 2 || bytesAt h 7 1 != 0 || bytesAt h 12 4 != 0 ||
    bytesAt h 40 24 != 0 || (if t.fmt == 10 then !legalModulus (dw t.modq) else t.modq != 0) || plenBad t

/-- The format of a record's elements once expanded: e4m3 for the e2m1 expansion. -/
def TileHdr.outFmt (t : TileHdr) : Nat := if t.comp == 2 then 1 else t.fmt

/-- Bytes of a checksum (R170), by the format of the elements summed. -/
def ckBytes (code : Nat) : Nat := if code == 7 || code == 9 || code == 10 then 8 else 4

def TileHdr.rcl (t : TileHdr) : Nat := roundUp 16 (t.rows * ckBytes t.outFmt)
def TileHdr.ccl (t : TileHdr) : Nat := roundUp 16 (t.cols * ckBytes t.outFmt)
def TileHdr.ilen (t : TileHdr) : Nat := roundUp 64 (64 + t.plen + t.rcl + t.ccl)

/-- The header's bytes. -/
def TileHdr.bytes (t : TileHdr) (magic : Nat) : List Byte :=
  natBytes 2 magic ++ natBytes 1 t.fmt ++ natBytes 1 t.rows ++ natBytes 1 t.cols ++ natBytes 1 (if t.mode then 1 else 0) ++
    natBytes 1 t.comp ++ natBytes 1 0 ++ natBytes 4 t.plen ++ natBytes 4 0 ++ natBytes 16 t.stale ++ natBytes 8 t.modq ++
    natBytes 24 0

/-- Bytes padded with zeros to a length. -/
def padTo (n : Nat) (l : List Byte) : List Byte := l ++ List.replicate (n - l.length) 0

/-- The set bits of a row's mask below a column. -/
def bitsBelow (m j : Nat) : Nat := ((List.range j).filter fun i => m.testBit i).length

/-- A zero-run payload expanded (R155); none when a mask names a column beyond N or the length disagrees. -/
def expandRuns (t : TileHdr) (p : List Byte) : Option (List Nat) :=
  let e := elemNibbles t.fmt / 2
  let masks := (List.range t.rows).map fun k => bytesAt p (8 * k) 8
  let total := (masks.map fun m => bitsBelow m 64).sum
  if (masks.any fun m => m / 2 ^ t.cols != 0) || t.plen != roundUp 16 (8 * t.rows + e * total) then none
  else
    some ((masks.foldl (fun (acc : List Nat × Nat) m =>
      (acc.1 ++ (List.range t.cols).map (fun j =>
        if m.testBit j then bytesAt p (8 * t.rows + e * (acc.2 + bitsBelow m j)) e else 0),
        acc.2 + bitsBelow m t.cols)) ([], 0)).1)

/-- An e2m1 element with an e8m0 scale, as e4m3 (R155). -/
def expandE2m1 (v e : Nat) : Nat :=
  if e == 0xFF then 0x7F
  else match unpack .e2m1 v with
    | .fin s m x => (roundTo .e4m3 modeRne true (.fin s m (x + e - 127))).1
    | _ => 0

/-- The elements of a payload, expanded (R155). -/
def expandTile (t : TileHdr) (p : List Byte) : Option (List Nat) :=
  match t.comp with
  | 0 => some ((List.range (t.rows * t.cols)).map (packedElem t.fmt p))
  | 1 => expandRuns t p
  | _ => some ((List.range (t.rows * t.cols)).map fun n =>
      let k := n / t.cols
      let j := n % t.cols
      expandE2m1 (packedElem 0 p n) (bytesAt p (t.rows * t.cols / 2 + k / 32 * t.cols + j) 1))

/-! ## Checksums (R170, R171) -/

def fvFinite : FVal → Bool
  | .fin _ _ _ => true
  | _ => false

/-- The exact sum of values: a NaN, or infinities of both signs, give a NaN. -/
def sumV (l : List FVal) : FVal :=
  if l.any fvIsNan then .nan false 0 0 false
  else
    let infs := l.filter fun x => !fvFinite x
    if infs.any fvSign && infs.any (fun x => !fvSign x) then .nan false 0 0 false
    else match infs with
      | x :: _ => x
      | [] =>
        match l with
        | [] => .fin false 0 0
        | x :: r => r.foldl (fun a b => match a, b with
            | .fin s1 m1 e1, .fin s2 m2 e2 =>
              let (s, m, e) := addFin modeRne s1 m1 e1 s2 m2 e2
              .fin s m e
            | a, _ => a) x

/-- An exact value rounded to a format in a mode, with the matrix engines' NaN (R111). -/
def roundV (f : Fmt) (md : Mode) (x : FVal) : Nat :=
  match x with
  | .nan _ _ _ _ => canonicalNan f
  | .inf s => (if s then signBit f else 0) + infPattern f
  | .fin s m e => (roundFin f md false false s m e).1

/-- The checksum format of float elements: f64 for f32 and f64, f32 for the others. -/
def ckFmt (code : Nat) : Fmt := if code == 7 || code == 9 then .f64 else .f32

/-- S of some elements (R171), or the integer or residue sum (R170). -/
def checksum (code q : Nat) (l : List Nat) : Nat :=
  match codeFmt code with
  | some _ => roundV (ckFmt code) modeRne (sumV (l.map (floatElem code)))
  | none =>
    if code == 10 then l.sum % q
    else ((l.map (intElem code)).sum % 2 ^ 32).toNat

/-- A row, and a column, of row-major elements. -/
def rowOf (cols i : Nat) (l : List Nat) : List Nat := (l.drop (i * cols)).take cols
def colOf (rows cols j : Nat) (l : List Nat) : List Nat := (List.range rows).map fun i => l.getD (i * cols + j) 0

def rowSums (code q rows cols : Nat) (l : List Nat) : List Nat :=
  (List.range rows).map fun i => checksum code q (rowOf cols i l)
def colSums (code q rows cols : Nat) (l : List Nat) : List Nat :=
  (List.range cols).map fun j => checksum code q (colOf rows cols j l)

/-- The stored checksums of an image's tail. -/
def storedSums (code n : Nat) (l : List Byte) : List Nat :=
  (List.range n).map fun i => bytesAt l (i * ckBytes code) (ckBytes code)

/-- The bytes of an image's checksum parts. -/
def sumBytes (code : Nat) (rs cs : List Nat) : List Byte :=
  let part (l : List Nat) : List Byte :=
    padTo (roundUp 16 (l.length * ckBytes code)) (l.flatMap fun x => natBytes (ckBytes code) x)
  part rs ++ part cs

/-- Row and column bits of a stale bitmap (R172), within a tile. -/
def staleRows (rows bits : Nat) : List Nat := (List.range rows).filter fun i => bits.testBit i
def staleCols (cols bits : Nat) : List Nat := (List.range cols).filter fun j => bits.testBit (64 + j)

/-- The bitmap of some rows and columns. -/
def staleBits (rs cs : List Nat) : Nat := (rs.map fun i => 2 ^ i).sum + (cs.map fun j => 2 ^ (64 + j)).sum

/-- The places at which stored and computed checksums differ, stale places apart (R178). -/
def mismatches (stored computed : List Nat) (stale : List Nat) : List Nat :=
  (List.range computed.length).filter fun i => !stale.contains i && stored.getD i 0 != computed.getD i 0

/-! ## Products (R110, R111) -/

def fvAbs : FVal → FVal
  | .fin _ m e => .fin false m e
  | .inf _ => .inf false
  | x => x

/-- An exact product; 0 × ∞ is a NaN. -/
def prodV (a b : FVal) : FVal :=
  let s := fvSign a != fvSign b
  match a, b with
  | .fin _ m1 e1, .fin _ m2 e2 => .fin s (m1 * m2) (e1 + e2)
  | .nan x y z w, _ => .nan x y z w
  | _, .nan x y z w => .nan x y z w
  | a, b => if fvIsZero a || fvIsZero b then .nan false 0 0 false else .inf s

/-- An A element as the engine multiplies it: a float or integer value, or a place that sparsity leaves at zero. -/
inductive AElem where
  | val (v : FVal)
  | num (v : Int)
  | gap
  deriving DecidableEq, Repr

/-- The float product of an A element and a B value: a gap counts as a +0 product. -/
def AElem.times (a : AElem) (b : FVal) : FVal :=
  match a with
  | .val v => prodV v b
  | _ => .fin false 0 0

def AElem.float : AElem → FVal
  | .val v => v
  | _ => .fin false 0 0

def AElem.int : AElem → Int
  | .num v => v
  | _ => 0

/-- C after one K-group (R110, R111): `acc` is the accumulator's format code. -/
def groupAdd (acc q : Nat) (c : Nat) (as : List AElem) (bs : List Nat) (bcode : Nat) : Nat :=
  match codeFmt acc with
  | some f => roundV f modeRne (sumV (unpack f c :: List.zipWith (fun a b => a.times (floatElem bcode b)) as bs))
  | none =>
    let s := (List.zipWith (fun a b => a.int * intElem bcode b) as bs).sum
    if acc == 10 then ((c + s) % (q : Int)).toNat else ((intElem 8 c + s) % 2 ^ 32).toNat

/-- The K-group of a pair of formats (R110): e2m1 with e2m1 64, 8-bit formats 32, 16-bit 16, 64-bit 4. -/
def groupSize (a b : Nat) : Nat :=
  let n := Nat.max (elemNibbles a) (elemNibbles b)
  match n with
  | 1 => 64
  | 2 => 32
  | 4 => 16
  | _ => 4

/-! ## Checking a product (R180 to R182) -/

/-- Whether an accumulator is a float one. -/
def accFloat (acc : Nat) : Bool := (codeFmt acc).isSome

/-- Acc and RoundUp of R180 on exact values. -/
def accRound (x : FVal) : Nat := roundV .f64 modeRne x
def upRound (x : FVal) : Nat := roundV .f64 { rm := 2 } x

/-- `|a| ≤ b` for exact values that are finite. -/
def leV (a b : FVal) : Bool := !ltV false b a

/-- The bound T of R181: (G + 2) × u × m. -/
def boundOf (acc g m : Nat) : FVal :=
  match unpack .f64 m with
  | .fin s x e => .fin s (x * (g + 2)) (e - (if acc == 7 then 23 else 52))
  | x => x

/-- The exact difference of two f64 values. -/
def diffV (a b : Nat) : FVal := sumV [unpack .f64 a, fvNeg (unpack .f64 b)]

/-- A check's outcome (R181): passed, exempt or failed. -/
inductive Judged where
  | pass
  | exempt
  | fail
  deriving DecidableEq, Repr

/-- One row or column judged: its prediction, magnitude and actual checksum. -/
def judge (acc g p m a : Nat) : Judged :=
  if !accFloat acc then (if p == a then .pass else .fail)
  else if !fvFinite (unpack .f64 p) || !fvFinite (unpack .f64 m) then .exempt
  else if !fvFinite (unpack .f64 a) then .fail
  else if leV (fvAbs (diffV p a)) (boundOf acc g m) then .pass
  else .fail

/-- The corrected element of R182, when the residues agree: `tr` and `tc` are the bounds. -/
def correct (code q c pr ar pc ac : Nat) (ck : Fmt) (tr tc : FVal) : Option Nat :=
  match codeFmt code with
  | some f =>
    let dr := sumV [unpack ck pr, fvNeg (unpack ck ar)]
    let dc := sumV [unpack ck pc, fvNeg (unpack ck ac)]
    if fvFinite dr && fvFinite dc && leV (fvAbs (sumV [dr, fvNeg dc])) (sumV [tr, tc]) then
      some (roundV f modeRne (sumV [unpack f c, dr]))
    else none
  | none =>
    let m := if code == 10 then q else 2 ^ 32
    let dr := (pr + m - ar % m) % m
    let dc := (pc + m - ac % m) % m
    if dr == dc then
      some (if code == 10 then (c + dr) % q else (c + dr) % 2 ^ (4 * elemNibbles code))
    else none

end Sys2Proof.Machine
end

