-- ==== Sys2Proof/Machine/Views.lean ====
section
/-! DEFINITION. Tiles in registers (R31, R32, R161), the checksum sidecar (R174 to R176), and the weight buffers (R149,
R165). -/

namespace Sys2Proof.Machine

/-! ## Tiles in views -/

/-- `n` registers of a lane from `p` on, as one number. -/
def Bundle.laneNat (b : Bundle) (lane p : Nat) : Nat → Nat
  | 0 => 0
  | n + 1 => (b.reg lane p).toNat + 2 ^ 32 * b.laneNat lane (p + 1) n

/-- The elements of a view's tile, row-major. -/
def Bundle.readTile (b : Bundle) (v : Word) : List Nat :=
  let e := 4 * elemNibbles (viewFmt v)
  let lanes := (List.range 32).map fun l => b.laneNat l (viewBase v) (viewRegs false v)
  (List.range (viewRows v * viewCols v)).map fun n =>
    let i := n / viewCols v
    lanes.getD (i % 32) 0 / 2 ^ (e * (i / 32 * viewCols v + n % viewCols v)) % 2 ^ e

/-- The rows of a tile of `rows` rows that a lane holds (R32). -/
def laneRows (rows lane : Nat) : List Nat := [lane, lane + 32].filter (· < rows)

/-- The nibbles of a lane's part of a tile, lowest first, as one number. -/
def lanePack (e cols : Nat) (els : List Nat) (rows : List Nat) : Nat :=
  rows.foldr (fun i acc => ((els.drop (i * cols)).take cols).foldr (fun x a => x % 2 ^ e + 2 ^ e * a) acc) 0

/-- Registers set without a stale bit: what an engine writes. -/
def Bundle.setRegs (b : Bundle) (lane : Nat) : Nat → List Word → Bundle
  | _, [] => b
  | p, v :: r => (b.setReg lane p v).setRegs lane (p + 1) r

/-- A tile written into a view's footprint: only the bytes of its elements change (R32, R158). -/
def Bundle.writeTile (b : Bundle) (v : Word) (els : List Nat) : Bundle :=
  let e := 4 * elemNibbles (viewFmt v)
  (List.range 32).foldl (fun b l =>
    let rows := laneRows (viewRows v) l
    let bits := rows.length * viewCols v * e
    let n := (bits + 31) / 32
    let old := b.laneNat l (viewBase v) n
    b.setRegs l (viewBase v) (natWords n (old / 2 ^ bits * 2 ^ bits + lanePack e (viewCols v) els rows))) b

/-- Whether a poisoned word holds a byte of a view's tile: what a lane holds beyond its rows is not read (R32, R423). -/
def Bundle.badTile (b : Bundle) (v : Word) : Bool :=
  b.poison.any fun x =>
    let bits := (laneRows (viewRows v) x.1).length * viewCols v * 4 * elemNibbles (viewFmt v)
    viewBase v ≤ x.2 && x.2 < viewBase v + (bits + 31) / 32

/-! ## The sidecar (R174, R175) -/

/-- A checksum slot: the row or column checksum `i` of the sidecar, `part` 0 for rows and 4 for columns. -/
def Bundle.ckSlot (b : Bundle) (ck : Word) (part i : Nat) : Nat :=
  let v := b.laneNat (i % 32) (viewBase ck + part + 2 * (i / 32)) 2
  v % 2 ^ (8 * ckBytes (viewFmt ck))

/-- The sidecar's row and column checksums, its stale bitmap and its status word. -/
def Bundle.ckRows (b : Bundle) (ck : Word) : List Nat := (List.range (viewRows ck)).map (b.ckSlot ck 0)
def Bundle.ckCols (b : Bundle) (ck : Word) : List Nat := (List.range (viewCols ck)).map (b.ckSlot ck 4)
def Bundle.ckStale (b : Bundle) (ck : Word) : Nat := b.laneNat 0 (viewBase ck + 8) 4
def Bundle.ckStatus (b : Bundle) (ck : Word) : Nat := b.laneNat 0 (viewBase ck + 12) 2

/-- Whether a poisoned word holds a checksum of the tile, the stale bitmap or the status word of a sidecar; its other bytes are ignored
(R174, R423). -/
def Bundle.badSidecar (b : Bundle) (ck : Word) : Bool :=
  b.poison.any fun x =>
    viewBase ck ≤ x.2 &&
      (match (x.2 - viewBase ck) / 2 with
        | 0 => decide (x.1 < viewRows ck)
        | 1 => decide (x.1 + 32 < viewRows ck)
        | 2 => decide (x.1 < viewCols ck)
        | 3 => decide (x.1 + 32 < viewCols ck)
        | k => decide (k < 7) && x.1 == 0)

/-- The checksum slots and the stale bitmap written; slots beyond the tile are zero. -/
def Bundle.putSums (b : Bundle) (ck : Word) (rs cs : List Nat) (stale : Nat) : Bundle :=
  let b := (List.range 32).foldl (fun b l =>
    b.setRegs l (viewBase ck) (natWords 2 (rs.getD l 0) ++ natWords 2 (rs.getD (l + 32) 0) ++ natWords 2 (cs.getD l 0) ++
      natWords 2 (cs.getD (l + 32) 0))) b
  b.setRegs 0 (viewBase ck + 8) (natWords 4 stale)

def Bundle.putStatus (b : Bundle) (ck : Word) (v : Nat) : Bundle := b.setRegs 0 (viewBase ck + 12) (natWords 2 v)

/-- The reserved bytes of a sidecar written as zero. -/
def Bundle.zeroReserved (b : Bundle) (ck : Word) : Bundle :=
  ((List.range 31).foldl (fun b l => b.setRegs (l + 1) (viewBase ck + 8) (List.replicate 8 0)) b).setRegs 0
    (viewBase ck + 14) [0, 0]

/-- Every row and column bit of a tile. -/
def allStale (ck : Word) : Nat := staleBits (List.range (viewRows ck)) (List.range (viewCols ck))

/-- The status word with a check's outcome: FAIL, CORR, NEXEMPT and the corrections counted (R175, R183). -/
def statusAfter (old : Nat) (fail corr : Bool) (nexempt : Nat) : Nat :=
  let cnt := bitsOf old 31 16
  let cnt := if corr then Nat.min (cnt + 1) 0xFFFF else cnt
  old % 2 + bitsOf old 15 3 * 8 + (if corr then 2 else 0) + (if fail then 4 else 0) + 2 ^ 16 * cnt + 2 ^ 32 * nexempt +
    2 ^ 40 * bitsOf old 63 40

/-! ## Weight buffers -/

/-- The weight buffer that a VD's commands see on a sub-core (R165): the one in place when it is the VD's, else the VD's
image, else zeros. -/
def State.wbuf (s : State) (core sub vd : Nat) : WBuf :=
  let here (w : WBuf) : Bool := w.core == core && w.sub == sub
  let zero : WBuf := { core := core, sub := sub, vd := vd, bytes := [] }
  match s.wbufs.find? here with
  | some w => if w.vd == vd then w else ((s.vd vd).images.find? here).getD zero
  | none => ((s.vd vd).images.find? here).getD zero

/-- The claim of a weight buffer by a VD (R165): the other VD's contents go to its images, the claimant's image comes
back, or zeros. -/
def State.claimWbuf (s : State) (core sub vd : Nat) : State :=
  let here (w : WBuf) : Bool := w.core == core && w.sub == sub
  let new := s.wbuf core sub vd
  let s := match s.wbufs.find? here with
    | some w => if w.vd == vd then s else s.modVd w.vd fun v => { v with images := w :: v.images.filter fun x => !here x }
    | none => s
  ({ s with wbufs := new :: s.wbufs.filter fun x => !here x } : State).modVd vd fun v =>
    { v with images := v.images.filter fun x => !here x }

/-- Bytes of a weight buffer; bytes beyond it read as zero. -/
def WBuf.read (w : WBuf) (off n : Nat) : List Byte := natBytes n (readCells w.bytes off n)

/-- Whether a poisoned 8-byte word holds a byte of `[off, off + n)`. -/
def WBuf.bad (w : WBuf) (off n : Nat) : Bool := w.poison.any fun p => p < off + n && off < p + 8

/-- Bytes written into a sub-core's weight buffer, which the command's VD has claimed. -/
def State.wbufWrite (s : State) (core sub off : Nat) (l : List Byte) : State :=
  { s with wbufs := s.wbufs.map fun w =>
      if w.core == core && w.sub == sub then
        { w with bytes := writeCells w.bytes off l.length (bytesNat l)
                 poison := w.poison.filter fun p => !(off ≤ p && p + 8 ≤ off + l.length) }
      else w }

end Sys2Proof.Machine
end

