-- ==== Sys2Proof/Machine/Engine.lean ====
section
/-! DEFINITION. Issuing engine commands: the checks of R163 and R256, the stalls of R151 and R162, what a command captures
(R34, R44, R158, R180), and the meanings of the ENG instructions. -/

namespace Sys2Proof.Machine

/-! ## Fault values (R168, R184) -/

/-- TRAPVAL of a PAGE, PROT or GANG_TICKET fault of a command (R168). -/
def engAddrVal (fn va : Nat) : DWord := dw (2 ^ 56 * fn + va % 2 ^ 52)

/-- TRAPVAL of ENGINE_ERROR (R168). -/
def engErrVal (fn done sub : Nat) : DWord := dw (2 ^ 56 * fn + 2 ^ 16 * (done % 2 ^ 16) + sub)

/-- TRAPVAL of a CHECKSUM fault (R184). -/
def engCkVal (fn kind done : Nat) (rs cs : List Nat) : DWord :=
  dw (2 ^ 56 * fn + 2 ^ 52 * kind + 2 ^ 45 * rs.length + 2 ^ 38 * cs.length + 2 ^ 16 * (done % 2 ^ 16) +
    2 ^ 8 * rs.headD 0xFF + cs.headD 0xFF)

/-- The kinds of a CHECKSUM fault (R184). -/
def kindProduct : Nat := 1
def kindTransit : Nat := 2
def kindStale : Nat := 3
def kindVerify : Nat := 4

/-! ## The words of a command (R152, R153, R161, R185) -/

/-- Word `k` of a command's quad, and the image address in its first pair. -/
def Cmd.word (c : Cmd) (k : Nat) : Nat := (c.w.getD k 0).toNat
def Cmd.addr (c : Cmd) : Nat := c.word 0 + 2 ^ 32 * c.word 1

def Cmd.chk (c : Cmd) : Bool := bitsOf (c.word 0) 31 31 == 1
def Cmd.sc (c : Cmd) : Bool := bitsOf (c.word 0) 30 30 == 1
def Cmd.asrc (c : Cmd) : Nat := bitsOf (c.word 0) 29 28
def Cmd.afmt (c : Cmd) : Nat := bitsOf (c.word 0) 27 24
def Cmd.bfmt (c : Cmd) : Nat := bitsOf (c.word 0) 23 20
def Cmd.zc (c : Cmd) : Bool := bitsOf (c.word 0) 19 19 == 1
def Cmd.steps (c : Cmd) : Nat := bitsOf (c.word 0) 11 0
def Cmd.binc (c : Cmd) : Nat := bitsOf (c.word 1) 28 16
def Cmd.boff (c : Cmd) : Nat := bitsOf (c.word 1) 12 0
def Cmd.apitch (c : Cmd) : Nat := bitsOf (c.word 2) 31 20
def Cmd.abase (c : Cmd) : Nat := bitsOf (c.word 2) 19 0
def Cmd.spitch (c : Cmd) : Nat := bitsOf (c.word 3) 31 20
def Cmd.ascl (c : Cmd) : Nat := bitsOf (c.word 3) 19 0

/-- The rows and columns of the accumulator, and its format. -/
def Cmd.m (c : Cmd) : Nat := viewRows c.viewAcc
def Cmd.n (c : Cmd) : Nat := viewCols c.viewAcc
def Cmd.acc (c : Cmd) : Nat := viewFmt c.viewAcc

/-- The A view of a command with ASRC below 2. -/
def Cmd.aview (c : Cmd) : Word := if c.asrc == 0 then c.viewT0 else c.viewT1

/-- Function codes of the ENG major. -/
def fnMma : Nat := 0
def fnMloop : Nat := 1
def fnMspa : Nat := 2
def fnMmaq : Nat := 3
def fnMloopq : Nat := 4
def fnWbld : Nat := 5
def fnMzero : Nat := 6
def fnTld : Nat := 7
def fnTst : Nat := 8
def fnCopy : Nat := 9
def fnGather : Nat := 10
def fnScatter : Nat := 11
def fnPut : Nat := 12
def fnGet : Nat := 13
def fnTsum : Nat := 16
def fnTchk : Nat := 17
def fnTfix : Nat := 18

/-- Whether a command is one of the five matrix steps. -/
def Cmd.isStep (c : Cmd) : Bool := c.cls == 1 && c.fn < 5

/-- The view that w2 selects. -/
def Cmd.tview (c : Cmd) : Word := match c.word 2 with
  | 0 => c.viewT0
  | 1 => c.viewT1
  | _ => c.viewAcc

/-- Whether the command works on VIEWACC with an attached sidecar. -/
def Cmd.onSidecar (c : Cmd) : Bool := c.word 2 == 2 && c.sidecar

/-- Whether a check command works on registers. -/
def Cmd.tgtRegs (c : Cmd) : Bool := c.word 2 == 1

/-- Whether a poisoned word holds what a command reads at issue (R32, R423): a matrix step's A view, accumulator, predictions and
metadata; TST's view and the sidecar that it compares with; a check command's accumulator and sidecar. -/
def Bundle.badFor (b : Bundle) (c : Cmd) : Bool :=
  if c.isStep then
    (c.asrc < 2 && b.badTile c.aview) || (!c.zc && b.badTile c.viewAcc) || (c.chk && !c.zc && b.badSidecar c.viewCk) ||
      (c.fn == fnMspa && b.poison.any fun x =>
        b.base + c.sel ≤ x.2 && x.2 < b.base + c.sel + 2 * (laneRows c.m x.1).length)
  else if c.fn == fnTst then b.badTile c.tview || (c.onSidecar && b.badSidecar c.viewCk)
  else c.cls == 3 && c.tgtRegs && (b.badTile c.viewAcc || b.badSidecar c.viewCk)

/-! ## Engines, queues and stalls (R148, R151, R162, R251) -/

/-- Commands that an engine's queue holds. -/
def engRoom : EngId → Nat
  | .matrix _ _ => 8
  | .copy _ => 32
  | .fabric _ => 16
  | _ => 32

/-- The control register of an engine (R428); one never touched is in RUN. -/
def State.engCtl (s : State) (e : EngId) : EngCtl := (s.engs.find? fun x => x.eng == e).getD { eng := e }

def State.setEngCtl (s : State) (x : EngCtl) : State := { s with engs := x :: s.engs.filter fun y => y.eng != x.eng }

/-- Whether a kill-and-drain in progress covers a command. -/
def EngCtl.targets (x : EngCtl) (c : Cmd) : Bool := x.state == 1 && (x.every || x.target == c.vd)

/-- Whether an engine takes no new work of a VD: a kill-and-drain of it is in progress, or has ended in SLACK or FENCED (R428). -/
def EngCtl.refuses (x : EngCtl) (vd : Nat) : Bool := x.state != 0 && (x.every || x.target == vd)

/-- The core of an engine that can become FENCED. -/
def engCore : EngId → Option Nat
  | .matrix core _ => some core
  | .copy core => some core
  | .fabric core => some core
  | _ => none

/-- The commands of running blocks that wait in an engine's queue. -/
def State.queuedOn (s : State) (e : EngId) : Nat := s.cmds.countP fun c => c.eng == e && c.st == .queued && s.running c.blk

/-- The bundles that stalled for a slot of an engine's queue before a group did (R151). -/
def State.stalledBefore (s : State) (e : EngId) (t : TRef) : Nat :=
  let mine := (s.th t).firstTry.getD s.seq
  (((s.threads.filter fun x =>
    x.waitEng == some e && (x.ref.blk != t.blk || x.ref.bun != t.bun) && x.firstTry.getD mine < mine && s.running x.ref.blk).map
      fun x => (x.ref.blk, x.ref.bun)).eraseDups).length

/-- Whether the queue of an engine has no slot for a group, or takes no work of its VD (R151, R428). -/
def State.engFull (s : State) (e : EngId) (t : TRef) : Bool :=
  (s.engCtl e).refuses (s.vdOf t) || s.queuedOn e + s.stalledBefore e t ≥ engRoom e

/-- Whether two lists of register ranges meet. -/
def meets (a b : List (Nat × Nat)) : Bool := a.any fun x => b.any fun y => x.1 < y.1 + y.2 && y.1 < x.1 + x.2

/-- Whether a command meets rows that an in-flight command of its bundle will write (R162). -/
def State.interlocked (s : State) (c : Cmd) : Bool :=
  s.cmds.any fun x => x.blk == c.blk && x.bun == c.bun && x.inFlight && meets x.writes (c.reads ++ c.writes)

/-- A group stalls at its ENG word, for a slot of an engine's queue or for something else. -/
def State.stallEng (s : State) (t : TRef) (e : Option EngId) : Act :=
  (s.modTh t fun x => { x with waitEng := e }).stallAct t

/-! ## The checks on addresses -/

/-- The completion barrier that vb names, as an offset; check 4 of R163. -/
def State.barCheck (s : State) (t : TRef) (b : Nat) : Except (Nat × DWord) (Option Nat) :=
  if b == 0 then .ok none
  else
    let a := s.pair t b
    if a.toNat % 16 != 0 then .error (causeAlignData, a)
    else if scratchBase ≤ a.toNat && a.toNat - scratchBase + 16 ≤ (s.bkOf t).sb then .ok (some (a.toNat - scratchBase))
    else .error (causeProt, a)

/-- What a check of addresses finds: nothing, a trap, or siblings that are not placed yet (R47). -/
inductive AddrRes where
  | ok
  | trap (cause : Nat) (val : DWord)
  | wait
  deriving DecidableEq, Repr

/-- Check 5 of R163: the first address of a tile image, a multiple of 64. -/
def State.firstAddr (s : State) (t : TRef) (a : DWord) : AddrRes :=
  if a.toNat % 64 != 0 then .trap causeAlignData a
  else match s.region t.blk a.toNat 1 with
    | .prot => .trap causeProt a
    | .ticket => .trap causeGangTicket a
    | .gangWait => .wait
    | _ => .ok

/-! ## Issuing -/

/-- What an ENG instruction supplies to the common issue: its captured basis, its checks in the order of R163 and R256
(the ones before the barrier, the addresses, the ones on captured state), and what it captures when it issues. -/
structure EngForm where
  build : State → TRef → Cmd
  check : State → TRef → Cmd → Option (Nat × DWord)
  addr : State → TRef → Cmd → AddrRes
  late : State → TRef → Cmd → Option (Nat × DWord)
  capture : State → TRef → Cmd → State × Cmd

/-- A command joins its engine's queue: the threads' marks are set (R261) and the core's dirty L1 bytes written back
(R209). -/
def State.enqueue (s : State) (act : List TRef) (c : Cmd) : State :=
  let s := match c.bar with
    | some off => act.foldl (fun (s : State) t => s.setMark c.blk off t) s
    | none => s
  let s := s.l1WriteBackAll (s.bk c.blk).core
  let (id, s) := s.fresh
  { s with cmds := s.cmds ++ [{ c with id := id }] }

/-- Issuing a command for a group (R150): the checks, the stalls, then the command joins the queue. -/
def State.engIssue (s : State) (f : EngForm) (b : Nat) (lead : TRef) (act : List TRef) : Act :=
  let c := f.build s lead
  match f.check s lead c with
  | some (cause, val) => .trap s cause val
  | none =>
    match s.barCheck lead b with
    | .error (cause, val) => .trap s cause val
    | .ok bar =>
      match f.addr s lead c with
      | .trap cause val => .trap s cause val
      | .wait => s.stallEng lead none
      | .ok =>
        if s.counter c.blk c.bun c.cls ≥ 63 || s.interlocked c then s.stallEng lead none
        else if s.engFull c.eng lead then s.stallEng lead (some c.eng)
        else if (s.buOf lead).badFor c then .poison s 0
        else
          match f.late s lead c with
          | some (cause, val) => .trap (if cause == causeChecksum then s.countError c.vd 5 else s) cause val
          | none =>
            let (s, c) := f.capture s lead { c with bar := bar }
            .next (s.enqueue act c)

/-- The registers of a barrier pair; vb = 0 names none (R74). -/
def barPair (b : Nat) : List (Nat × Nat) := if b == 0 then [] else [(b, 2)]

/-- An ENG instruction (R150): region-closing, once for each group. -/
def State.eng (regs : List (Nat × Nat)) (b : Nat) (f : EngForm) (s : State) : Host.Outcome State Fault Refusal :=
  s.issueGroup { regs := regs ++ barPair b, reads := regs ++ barPair b, closes := true } fun s lead act =>
    s.engIssue f b lead act

/-- The basis of every command: who issued it, on which engine, with the views and MODQ of the bundle (R44). -/
def State.cmdOf (s : State) (t : TRef) (cls fn : Nat) (w : List Word) : Cmd :=
  let k := s.bkOf t
  let b := s.buOf t
  { id := 0, eng := if cls == 1 then .matrix k.core b.sub else if cls == 2 then .fabric k.core else .copy k.core
    cls := cls, fn := fn, vd := k.vd, blk := t.blk, bun := t.bun, lane := t.lane, w := w
    viewT0 := b.viewT0, viewT1 := b.viewT1, viewAcc := b.viewAcc, viewCk := b.viewCk, modq := b.modq
    sidecar := attached b.viewCk b.viewAcc, since := s.cycles (dieOfCore k.core) }

/-- The four operand words from va on. -/
def State.words4 (s : State) (t : TRef) (a : Nat) : List Word := (List.range 4).map fun k => s.reg t (a + k)

/-- The footprint of a view. -/
def viewRange (ck : Bool) (v : Word) : Nat × Nat := (viewBase v, viewRegs ck v)

/-- The ILLEGAL trap of an ENG word's fields: TRAPVAL is the word (R163). -/
def State.badWord (s : State) (bad : Bool) : Option (Nat × DWord) :=
  if bad then some (causeIllegal, dw s.group.word) else none

/-- Check 3 of R163: the captured MODQ. -/
def Cmd.badModq (c : Cmd) : Option (Nat × DWord) := if legalModulus c.modq then none else some (causeIllegal, c.modq)

def orElse {α : Type} (a b : Option α) : Option α := match a with
  | some x => some x
  | none => b

/-! ## Matrix steps (R152 to R159) -/

/-- The format combinations of R153. -/
def comboOk (fn : Nat) (sc : Bool) (a b acc : Nat) : Bool :=
  let plain := fn == 0 || fn == 1 || fn == 2
  (a == 0 && (b == 0 || b == 1) && acc == 7 && plain && sc) ||
    ((a == 1 || a == 2) && (b == 1 || b == 2) && acc == 7 && plain) ||
    ((a == 3 || a == 4) && (b == 3 || b == 4) && acc == 8 && plain && !sc) ||
    (((a == 5 && b == 5) || (a == 6 && b == 6)) && acc == 7 && plain && !sc) ||
    (a == 9 && b == 9 && acc == 9 && (fn == 0 || fn == 1) && !sc) ||
    (a == 10 && b == 10 && acc == 10 && (fn == 3 || fn == 4) && !sc)

/-- Whether the words or views of a matrix step break R152 to R154, or sel R159. -/
def Cmd.stepBad (c : Cmd) : Bool :=
  let loop := c.fn == fnMloop || c.fn == fnMloopq
  !viewEn c.viewAcc || (c.asrc < 2 && !viewEn c.aview) || (c.chk && !c.sidecar) ||
    bitsOf (c.word 0) 18 12 != 0 || bitsOf (c.word 1) 31 29 != 0 || bitsOf (c.word 1) 15 13 != 0 ||
    (if loop then c.steps == 0 || c.asrc != 2 else c.steps != 1 || c.binc != 0) || c.asrc == 3 ||
    (if c.asrc < 2 then c.word 2 != 0 else c.abase % 16 != 0) || (!c.sc && c.word 3 != 0) ||
    !comboOk c.fn c.sc c.afmt c.bfmt c.acc ||
    (c.asrc < 2 && (viewRows c.aview != c.m || viewFmt c.aview != c.afmt)) || c.sel % 4 != 0

/-- The register footprints of a matrix step (R162). -/
def Cmd.stepReads (c : Cmd) (wbase : Nat) : List (Nat × Nat) :=
  (if c.asrc < 2 then [viewRange false c.aview] else []) ++ (if c.zc then [] else [viewRange false c.viewAcc]) ++
    (if c.chk && !c.zc then [viewRange true c.viewCk] else []) ++ (if c.fn == fnMspa then [(wbase + c.sel, 4)] else [])

/-- The accumulator's rows and those of an attached sidecar, which a command that writes VIEWACC writes or marks too (R176). -/
def Cmd.accWrites (c : Cmd) : List (Nat × Nat) :=
  viewRange false c.viewAcc :: if c.sidecar then [viewRange true c.viewCk] else []

/-- Row `i`'s metadata string (R159). -/
def Bundle.metaOf (b : Bundle) (sel i : Nat) : Nat := b.laneNat (i % 32) (b.base + sel + 2 * (i / 32)) 2

/-- p0 and p1 of entry `g` of a string. -/
def metaP0 (m g : Nat) : Nat := bitsOf m (4 * g + 1) (4 * g)
def metaP1 (m g : Nat) : Nat := bitsOf m (4 * g + 3) (4 * g + 2)

/-- The logical K of an MSPA at issue: from its A view, or from the record's header in the weight buffer (log entry 20). -/
def State.spaK (s : State) (c : Cmd) : Nat :=
  if c.asrc < 2 then 2 * viewCols c.aview
  else match c.eng with
    | .matrix core sub =>
      let h := (s.wbuf core sub c.vd).read (64 * c.boff) 64
      if hdrBad h then 0 else (readHdr h).rows
    | _ => 0

/-- The entries of the metadata that name no two ascending positions, in row-major order (R159). -/
def State.badMetas (s : State) (t : TRef) (c : Cmd) : List Nat :=
  let b := s.buOf t
  (List.range c.m).flatMap fun i =>
    let m := b.metaOf c.sel i
    ((List.range (s.spaK c / 4)).filter fun g => metaP0 m g ≥ metaP1 m g).map fun g => 256 * i + g

/-- The strict-mode check of a sidecar (R177). -/
def Bundle.strictStale (b : Bundle) (c : Cmd) : Option (Nat × DWord) :=
  let st := b.ckStale c.viewCk
  let rs := staleRows c.m st
  let cs := staleCols c.n st
  if b.ckStatus c.viewCk % 2 == 1 && !(rs.isEmpty && cs.isEmpty) then
    some (causeChecksum, engCkVal c.fn kindStale 0 rs cs)
  else none

/-- Stored checksums with the stale ones replaced by computed ones (R177). -/
def refreshed (stored computed stale : List Nat) : List Nat :=
  (List.range computed.length).map fun i => if stale.contains i then computed.getD i 0 else stored.getD i 0

/-- The magnitude sum of some accumulator elements, rounded up (R180). -/
def magOf (acc : Nat) (l : List Nat) : Nat := upRound (sumV (l.map fun x => fvAbs (floatElem acc x)))

/-- What a matrix step captures at issue: C, the A view, the metadata, and the predictions of R180. -/
def State.captureStep (s : State) (t : TRef) (c : Cmd) : State × Cmd :=
  let b := s.buOf t
  let els := if c.zc then List.replicate (c.m * c.n) 0 else b.readTile c.viewAcc
  let q := c.modq.toNat
  let st := b.ckStale c.viewCk
  let float := accFloat c.acc
  let pr := if c.zc then List.replicate c.m 0
    else refreshed (b.ckRows c.viewCk) (rowSums c.acc q c.m c.n els) (staleRows c.m st)
  let pc := if c.zc then List.replicate c.n 0
    else refreshed (b.ckCols c.viewCk) (colSums c.acc q c.m c.n els) (staleCols c.n st)
  let c := { c with
    c := els
    tile := if c.asrc < 2 then b.readTile c.aview else []
    metas := if c.fn == fnMspa then (List.range c.m).map (b.metaOf c.sel) else [] }
  let c := if c.chk then
      { c with
        pr := pr, pc := pc
        mr := if float then (List.range c.m).map fun i => magOf c.acc (rowOf c.n i els) else []
        mc := if float then (List.range c.n).map fun j => magOf c.acc (colOf c.m c.n j els) else [] }
    else c
  let s := if c.fn == fnMspa && !(s.badMetas t c).isEmpty then s.modBu t.blk t.bun fun b => { b with spm := true } else s
  (s, c)

/-- A matrix step as an ENG form. -/
def stepForm (fn a sel : Nat) : EngForm where
  build := fun s t =>
    let c := { s.cmdOf t 1 fn (s.words4 t a) with sel := sel }
    { c with reads := c.stepReads (s.buOf t).base, writes := c.accWrites }
  check := fun s t c =>
    orElse (s.badWord c.stepBad)
      (orElse (if fn == fnMspa then (windowTrap (s.buOf t) [(sel, 4)]).map fun p => (causeWindow, dw p) else none)
        (if fn == fnMmaq || fn == fnMloopq then c.badModq else none))
  addr := fun _ _ _ => .ok
  late := fun s t c =>
    orElse
      (if fn == fnMspa && (s.buOf t).spmt then
        ((s.badMetas t c).head?).map fun v => (causeSparseMeta, dw v) else none)
      (if c.chk && !c.zc then (s.buOf t).strictStale c else none)
  capture := State.captureStep

/-- MMA (R158). -/
def execMma (a b : Nat) (s : State) : Host.Outcome State Fault Refusal := s.eng [(a, 4)] b (stepForm fnMma a 0)

/-- MLOOP (R158). -/
def execMloop (a b : Nat) (s : State) : Host.Outcome State Fault Refusal := s.eng [(a, 4)] b (stepForm fnMloop a 0)

/-- MSPA (R159). -/
def execMspa (sel a b : Nat) (s : State) : Host.Outcome State Fault Refusal := s.eng [(a, 4)] b (stepForm fnMspa a sel)

/-- MMAQ (R158). -/
def execMmaq (a b : Nat) (s : State) : Host.Outcome State Fault Refusal := s.eng [(a, 4)] b (stepForm fnMmaq a 0)

/-- MLOOPQ (R158). -/
def execMloopq (a b : Nat) (s : State) : Host.Outcome State Fault Refusal := s.eng [(a, 4)] b (stepForm fnMloopq a 0)

/-! ## WBLD and MZERO (R156, R160) -/

def Cmd.doff (c : Cmd) : Nat := bitsOf (c.word 2) 12 0
def Cmd.len (c : Cmd) : Nat := bitsOf (c.word 3) 19 0

/-- Whether WBLD's words break R156. -/
def Cmd.wbldBad (c : Cmd) : Bool :=
  bitsOf (c.word 2) 31 13 != 0 || bitsOf (c.word 3) 31 20 != 0 || c.len % 64 != 0 || c.len < 64 || 524288 < c.len ||
    64 * c.doff + c.len > 524288

/-- Nothing beyond the basis is captured. -/
def captureNone (s : State) (_ : TRef) (c : Cmd) : State × Cmd := (s, c)

/-- WBLD as an ENG form. -/
def wbldForm (a : Nat) : EngForm where
  build := fun s t => s.cmdOf t 1 fnWbld (s.words4 t a)
  check := fun s _ c => s.badWord c.wbldBad
  addr := fun s t c => s.firstAddr t (dw c.addr)
  late := fun _ _ _ => none
  capture := captureNone

/-- WBLD (R156). -/
def execWbld (a b : Nat) (s : State) : Host.Outcome State Fault Refusal := s.eng [(a, 4)] b (wbldForm a)

/-- MZERO as an ENG form. -/
def mzeroForm : EngForm where
  build := fun s t =>
    let c := s.cmdOf t 1 fnMzero []
    { c with writes := c.accWrites }
  check := fun s _ c => s.badWord (!viewEn c.viewAcc)
  addr := fun _ _ _ => .ok
  late := fun _ _ _ => none
  capture := captureNone

/-- MZERO (R160). -/
def execMzero (b : Nat) (s : State) : Host.Outcome State Fault Refusal := s.eng [] b mzeroForm

/-! ## TLD and TST (R161, R179) -/

/-- Whether TLD's or TST's words break R161, or its view is off. -/
def Cmd.tileBad (c : Cmd) : Bool := 3 ≤ c.word 2 || c.word 3 != 0 || !viewEn c.tview

/-- TLD as an ENG form. -/
def tldForm (a : Nat) : EngForm where
  build := fun s t =>
    let c := s.cmdOf t 0 fnTld (s.words4 t a)
    { c with writes := if c.onSidecar then c.accWrites else [viewRange false c.tview] }
  check := fun s _ c => s.badWord c.tileBad
  addr := fun s t c => s.firstAddr t (dw c.addr)
  late := fun _ _ _ => none
  capture := captureNone

/-- TLD (R161). -/
def execTld (a b : Nat) (s : State) : Host.Outcome State Fault Refusal := s.eng [(a, 4)] b (tldForm a)

/-- The image of a raw tile with its checksums (R173, R179). -/
def tileImage (fmt rows cols : Nat) (mode : Bool) (q : Nat) (els rs cs : List Nat) : List Byte :=
  let h : TileHdr :=
    { fmt := fmt, rows := rows, cols := cols, mode := mode, comp := 0, plen := roundUp 16 (rawBytes fmt rows cols), stale := 0
      modq := if fmt == 10 then q else 0 }
  padTo h.ilen (h.bytes 0x544B ++ padTo h.plen (packElems fmt els) ++ sumBytes fmt rs cs)

/-- TST's capture: the elements, the sidecar's stored checksums, and the image to write. MODE is the sidecar's where VIEWACC is the source
and 0 for VIEWT0 and VIEWT1, whose tile no sidecar describes (DEDUCED from R174 and R179, log entry 58). -/
def State.captureTst (s : State) (t : TRef) (c : Cmd) : State × Cmd :=
  let b := s.buOf t
  let v := c.tview
  let els := b.readTile v
  let q := c.modq.toNat
  let rs := rowSums (viewFmt v) q (viewRows v) (viewCols v) els
  let cs := colSums (viewFmt v) q (viewRows v) (viewCols v) els
  let mode := c.onSidecar && b.ckStatus c.viewCk % 2 == 1
  (s, { c with
    c := els, mode := mode
    pr := if c.onSidecar then b.ckRows c.viewCk else []
    pc := if c.onSidecar then b.ckCols c.viewCk else []
    stale := b.ckStale c.viewCk
    img := tileImage (viewFmt v) (viewRows v) (viewCols v) mode q els rs cs })

/-- TST as an ENG form. -/
def tstForm (a : Nat) : EngForm where
  build := fun s t =>
    let c := s.cmdOf t 0 fnTst (s.words4 t a)
    { c with reads := viewRange false c.tview :: if c.onSidecar then [viewRange true c.viewCk] else [] }
  check := fun s _ c => orElse (s.badWord c.tileBad) (if viewFmt c.tview == 10 then c.badModq else none)
  addr := fun s t c => s.firstAddr t (dw c.addr)
  late := fun s t c => if c.onSidecar then (s.buOf t).strictStale c else none
  capture := State.captureTst

/-- TST (R161, R179). -/
def execTst (a b : Nat) (s : State) : Host.Outcome State Fault Refusal := s.eng [(a, 4)] b (tstForm a)

/-! ## Check commands (R185 to R187) -/

/-- Whether a check command's words break R185. -/
def Cmd.checkBad (c : Cmd) : Bool :=
  2 ≤ c.word 2 || c.word 3 != 0 || (c.tgtRegs && (c.addr != 0 || !c.sidecar))

/-- A check command's capture: VIEWACC and its sidecar. -/
def State.captureCheck (s : State) (t : TRef) (c : Cmd) : State × Cmd :=
  if c.tgtRegs then
    let b := s.buOf t
    (s, { c with
      c := b.readTile c.viewAcc, pr := b.ckRows c.viewCk, pc := b.ckCols c.viewCk, stale := b.ckStale c.viewCk
      mode := b.ckStatus c.viewCk % 2 == 1 })
  else (s, c)

/-- A check command as an ENG form. -/
def checkForm (fn a : Nat) : EngForm where
  build := fun s t =>
    let c := s.cmdOf t 3 fn (s.words4 t a)
    if c.tgtRegs then
      { c with
        reads := [viewRange false c.viewAcc, viewRange true c.viewCk]
        writes := if fn == fnTsum then [viewRange true c.viewCk]
          else if fn == fnTfix then [viewRange false c.viewAcc, viewRange true c.viewCk] else [] }
    else c
  check := fun s _ c => orElse (s.badWord c.checkBad) (if c.tgtRegs && c.acc == 10 then c.badModq else none)
  addr := fun s t c => if c.tgtRegs then .ok else s.firstAddr t (dw c.addr)
  late := fun _ _ _ => none
  capture := State.captureCheck

/-- TSUM (R186). -/
def execTsum (a b : Nat) (s : State) : Host.Outcome State Fault Refusal := s.eng [(a, 4)] b (checkForm fnTsum a)

/-- TCHK (R186). -/
def execTchk (a b : Nat) (s : State) : Host.Outcome State Fault Refusal := s.eng [(a, 4)] b (checkForm fnTchk a)

/-- TFIX (R186). -/
def execTfix (a b : Nat) (s : State) : Host.Outcome State Fault Refusal := s.eng [(a, 4)] b (checkForm fnTfix a)

/-! ## Descriptors (R253 to R256) -/

/-- The fields of 64 descriptor bytes; `reserved` collects every bit that must be zero. -/
def readDesc (d : Nat) : CopyDesc :=
  let f (off n : Nat) : Nat := bitsOf d (8 * (off + n) - 1) (8 * off)
  { src := dw (f 0 8), dst := dw (f 8 8), rlen := f 16 4, nrow := f 20 4, spitch := signExt 32 (f 24 4), dpitch := f 28 4
    idx := dw (f 32 8), femode := f 40 1 % 4, ckmode := bitsOf (f 40 1) 3 2, eszl := bitsOf (f 40 1) 7 4, rank := f 42 2
    reserved := f 41 1 + f 44 20 }

def CopyDesc.indexed (fn : Nat) : Bool := fn == fnGather || fn == fnScatter
def CopyDesc.esz (d : CopyDesc) : Nat := 2 ^ d.eszl

/-- Whether a descriptor breaks R253, or a combination R249, R254 or R255. -/
def CopyDesc.bad (d : CopyDesc) (fn : Nat) : Bool :=
  let m8 (x : Nat) : Bool := x % 8 != 0
  d.reserved != 0 || 1 < d.ckmode ||
    (if CopyDesc.indexed fn then
      d.rlen < 1 || 65536 < d.rlen || d.nrow != 0 || d.spitch != 0 || d.dpitch != 0 || d.idx.toNat % 4 != 0 || 12 < d.eszl ||
        d.rank != 0 || d.femode != 0 || d.ckmode != 0
    else
      d.rlen < 1 || 4194304 < d.rlen || d.nrow < 1 || 65536 < d.nrow || 4194304 < d.rlen * d.nrow ||
        (1 < d.nrow && d.dpitch < d.rlen) || d.idx != 0 || d.eszl != 0 ||
        (if fn == fnPut || fn == fnGet then 1023 < d.rank else d.rank != 0) || (fn == fnGet && d.femode != 0) ||
        (d.femode != 0 && (m8 d.dst.toNat || m8 d.rlen || (1 < d.nrow && m8 d.dpitch))) ||
        (d.femode == 3 && (m8 d.src.toNat || (1 < d.nrow && d.spitch % 8 != 0))) ||
        (d.ckmode == 1 && (d.nrow != 1 || d.src.toNat % 64 != 0 || d.dst.toNat % 64 != 0 || d.rlen % 64 != 0)))

/-- The bounds of the region of R45 to R47 that holds an address, inside SB where that applies, whether or not a sibling's gang ticket
still holds; none when no region holds it. -/
def State.bounds (s : State) (blk a : Nat) : Option (Nat × Nat) :=
  let b := s.bk blk
  if a < scratchBase then some (0, scratchBase)
  else if a < scratchBase + 2 ^ 20 then some (scratchBase, scratchBase + b.sb)
  else if remoteBase ≤ a && a < remoteBase + 2 ^ 24 then
    let lo := remoteBase + (a - remoteBase) / 2 ^ 20 * 2 ^ 20
    if s.hasGa b.gang && (a - remoteBase) / 2 ^ 20 ≥ (s.ga b.gang).size then none else some (lo, lo + b.sb)
  else none

/-- The first byte of `[a, a + n)` outside the bounds. -/
def outside (lo hi a n : Nat) : Option Nat :=
  if a < lo || hi ≤ a then some a else if a + n > hi then some hi else none

/-- The first offending byte of rows of `n` bytes that start at `start r`. -/
def firstOutside (lo hi n rows : Nat) (start : Nat → Nat) : Option Nat :=
  (List.range rows).findSome? fun r => outside lo hi (start r) n

/-- A side of a copy: rows of `n` bytes, or the base alone where the rest follows indices. -/
structure Side where
  start : Nat → Nat
  n : Nat
  rows : Nat

/-- The start of row `r` of the source and of the destination (R254). -/
def CopyDesc.srcRow (d : CopyDesc) (r : Nat) : Nat := (d.src + dwordOfInt (d.spitch * r)).toNat
def CopyDesc.dstRow (d : CopyDesc) (r : Nat) : Nat := (d.dst + dw (d.dpitch * r)).toNat

/-- The local sides of a command, and its remote side. R256 reports the first offending address and gives the sides no order: the model
takes source, destination, indices, and each side's rows ascending (DESIGN CHOICE, log entry 58). -/
def CopyDesc.sides (d : CopyDesc) (fn : Nat) : List (Bool × Side) :=
  let flat (a : DWord) (n : Nat) : Side := { start := fun _ => a.toNat, n := n, rows := 1 }
  if CopyDesc.indexed fn then
    let total := d.rlen * d.esz
    [(false, flat d.src (if fn == fnScatter then total else 1)), (false, flat d.dst (if fn == fnGather then total else 1)),
      (false, flat d.idx (4 * d.rlen))]
  else
    [(fn == fnGet, { start := d.srcRow, n := d.rlen, rows := d.nrow }),
      (fn == fnPut, { start := d.dstRow, n := d.rlen, rows := d.nrow })]

/-- Checks 5 and 6 of R256 for one side: its whole extent, then the gang ticket of a remote window. -/
def State.sideCheck (s : State) (blk : Nat) (x : Bool × Side) : AddrRes :=
  let (remote, sd) := x
  let first := sd.start 0
  match if remote then (if first < scratchBase then some (0, scratchBase) else none) else s.bounds blk first with
  | none => .trap causeProt (dw first)
  | some (lo, hi) =>
    match firstOutside lo hi sd.n sd.rows sd.start with
    | some a => .trap causeProt (dw a)
    | none =>
      if first < scratchBase then .ok
      else match s.region blk first 1 with
        | .prot => .trap causeProt (dw first)
        | .ticket => .trap causeGangTicket (dw first)
        | .gangWait => .wait
        | _ => .ok

/-- The checks of several sides: PROT of any side before GANG_TICKET of any, then the waits. -/
def worst (l : List AddrRes) : AddrRes :=
  let prot (r : AddrRes) : Bool := match r with | .trap c _ => c == causeProt | _ => false
  let ticket (r : AddrRes) : Bool := match r with | .trap _ _ => true | _ => false
  match l.find? prot with
  | some r => r
  | none => match l.find? ticket with
    | some r => r
    | none => if l.contains .wait then .wait else .ok

/-- Check 4 and then 5 and 6 of R256. -/
def State.copyAddr (s : State) (t : TRef) (c : Cmd) : AddrRes :=
  let d := c.desc
  let al := Nat.min d.esz 128
  if CopyDesc.indexed c.fn && d.src.toNat % al != 0 then .trap causeAlignData d.src
  else if CopyDesc.indexed c.fn && d.dst.toNat % al != 0 then .trap causeAlignData d.dst
  else worst ((d.sides c.fn).map (s.sideCheck t.blk))

/-- The descriptor's address (R253), in the words that the command keeps. -/
def copyForm (cls fn a : Nat) : EngForm where
  build := fun s t =>
    let c := s.cmdOf t cls fn [s.reg t a, s.reg t (a + 1)]
    { c with desc := readDesc (s.scrRead t.blk (c.addr - scratchBase) 64) }
  check := fun s t c =>
    let ad := dw c.addr
    if c.addr % 64 != 0 then some (causeAlignData, ad)
    else if c.addr < scratchBase || c.addr - scratchBase + 64 > (s.bkOf t).sb then some (causeProt, ad)
    else if c.desc.bad fn then some (causeIllegal, ad)
    else none
  addr := State.copyAddr
  late := fun _ _ _ => none
  capture := captureNone

/-- A copy-class or fabric command (R253): a poisoned descriptor is consumed before it is judged. -/
def State.copyOp (cls fn a b : Nat) (s : State) : Host.Outcome State Fault Refusal :=
  s.issueGroup { regs := (a, 2) :: barPair b, reads := (a, 2) :: barPair b, closes := true } fun s lead act =>
    let ea := (s.pair lead a).toNat
    if ea % 64 == 0 && scratchBase ≤ ea && ea - scratchBase + 64 ≤ (s.bkOf lead).sb &&
        s.scrPoisoned lead.blk (ea - scratchBase) 64 then .poison s 0
    else s.engIssue (copyForm cls fn a) b lead act

/-- COPY (R254). -/
def execCopy (a b : Nat) (s : State) : Host.Outcome State Fault Refusal := s.copyOp 0 fnCopy a b

/-- GATHER (R254). -/
def execGather (a b : Nat) (s : State) : Host.Outcome State Fault Refusal := s.copyOp 0 fnGather a b

/-- SCATTER (R254). -/
def execScatter (a b : Nat) (s : State) : Host.Outcome State Fault Refusal := s.copyOp 0 fnScatter a b

/-- PUT (R254). -/
def execPut (a b : Nat) (s : State) : Host.Outcome State Fault Refusal := s.copyOp 2 fnPut a b

/-- GET (R254). -/
def execGet (a b : Nat) (s : State) : Host.Outcome State Fault Refusal := s.copyOp 2 fnGet a b

end Sys2Proof.Machine
end

