-- ==== Sys2Proof/Machine/FullEmpty.lean ====
section
/-! DEFINITION. Full/empty words (R235 to R248): the operations, serving a word's queues, waiting and mooring, and the
presentation of a woken operation (FE_PRESENT). -/

namespace Sys2Proof.Machine

/-! ## Queueing (R242, R244) -/

/-- Whether the waiter table of an operation's point is full: 256 entries at a home slice, 64 at an array. -/
def State.tableFull (s : State) (l : Loc) : Bool :=
  let at_ (e : FeWait) : Bool := e.place == .table &&
    (match l, e.loc with
      | .dev _ _ ma, .dev _ _ ma' => dieOfMa ma == dieOfMa ma' && sliceOf ma == sliceOf ma'
      | .scr b _ _, .scr b' _ _ => (s.bk b).core == (s.bk b').core
      | _, _ => false)
  match l with
  | .dev _ _ _ => s.feq.countP at_ ≥ 256
  | _ => s.feq.countP at_ ≥ 64

/-- An operation whose condition is false queues, or is moored when its table is full or its thread's block is halted. -/
def State.fePend (s : State) (e : FeWait) : State :=
  let place := if s.tableFull e.loc || !s.running e.ref.blk then FePlace.moored else .table
  { s with feq := (s.feq.filter fun x => x.ref != e.ref) ++ [{ e with place := place }] }

/-! ## The checks of R237 -/

/-- Checks 1 to 6 of R237 for `n` bytes at `ea`. -/
def State.feReach (s : State) (t : TRef) (ea : DWord) (n align : Nat) (need : Need) : Reach :=
  match s.reach t ea n align need with
  | .act a => .act a
  | .at_ s (.host _ _ _) => .act (.trap s causeFeUnsupported ea)
  | .at_ s l => .at_ s l

/-- The release that FESTF performs first, at the thread's SCOPE (R194); FELDW and FELDC perform none. -/
def State.feRelease (s : State) (t : TRef) (kind : FeKind) (k : State → Act) : Act :=
  if kind == .festf then s.releasing t (s.scopeOf t) k else k s

/-- A non-try FELDW, FELDC or FESTF (R238, R242). -/
def State.feOp (kind : FeKind) (d a o la : Nat) (s : State) : Host.Outcome State Fault Refusal :=
  s.issue { regs := [(d, 2), (a, 2)], reads := if kind == .festf then [(d, 2), (a, 2)] else [(a, 2)],
            closes := kind != .feldw, held := true } fun s t =>
    let ea := eaOf (s.pair t a) o 8
    match s.feReach t ea 8 8 (if kind == .feldw then .read else .write) with
    | .act x => x
    | .at_ s loc =>
      s.feRelease t kind fun s =>
      let s := s.feBefore (s.coreOf t) loc 8
      if s.fePoisoned loc 8 then .poison s (s.poisonVal loc ea.toNat)
      else
        let e : FeWait :=
          { ref := t, kind := kind, loc := loc, va := ea, data := s.pair t d, dst := (s.buOf t).base + d, la := la
            count := (s.th t).feBudget.toNat, place := .table }
        if kind.holds (s.feBit loc) then
          let s := s.fePerform e
          .gone (if kind == .feldw then s else s.feServe loc)
        else .gone (((s.feLine (s.coreOf t) loc).fePend e).modTh t fun x => { x with park := .fe })

/-- FELDW (R238). -/
def execFeldw (d a o l : Nat) (s : State) : Host.Outcome State Fault Refusal := s.feOp .feldw d a o l

/-- FELDC (R238). -/
def execFeldc (d a o l : Nat) (s : State) : Host.Outcome State Fault Refusal := s.feOp .feldc d a o l

/-- FESTF (R238). -/
def execFestf (d a o : Nat) (s : State) : Host.Outcome State Fault Refusal := s.feOp .festf d a o 0

/-- A try form (R239): it tests once, and pushes the outcome. -/
def State.feTry (kind : FeKind) (d a o : Nat) (s : State) : Host.Outcome State Fault Refusal :=
  s.issue { regs := [(d, 2), (a, 2)], reads := if kind == .festf then [(d, 2), (a, 2)] else [(a, 2)],
            closes := kind != .feldw, held := true, pushes := true } fun s t =>
    let ea := eaOf (s.pair t a) o 8
    match s.feReach t ea 8 8 (if kind == .feldw then .read else .write) with
    | .act x => x
    | .at_ s loc =>
      s.feRelease t kind fun s =>
      let s := s.feBefore (s.coreOf t) loc 8
      if s.fePoisoned loc 8 then .poison s (s.poisonVal loc ea.toNat)
      else
        let full := s.feBit loc
        let s := s.feLine (s.coreOf t) loc
        let v := s.feData loc
        if !kind.holds full then .next (s.modTh t (·.pushPred false))
        else
          let s := s.modTh t (·.pushPred true)
          match kind with
          | .feldw => .next ((s.setPair t d (dw v)).acquire t (s.scopeOf t))
          | .feldc => .next (((s.setPair t d (dw v)).acquire t (s.scopeOf t)).setFe loc false |>.feServe loc)
          | .festf => .next (((s.feWrite loc (s.pair t d).toNat).setFe loc true).feServe loc)

/-- FELDW.try (R239). -/
def execFeldwTry (d a o : Nat) (s : State) : Host.Outcome State Fault Refusal := s.feTry .feldw d a o

/-- FELDC.try (R239). -/
def execFeldcTry (d a o : Nat) (s : State) : Host.Outcome State Fault Refusal := s.feTry .feldc d a o

/-- FESTF.try (R239). -/
def execFestfTry (d a o : Nat) (s : State) : Host.Outcome State Fault Refusal := s.feTry .festf d a o

/-- FESTS (R238): the word is written and full whatever it held. A word that was empty serves its queues. -/
def execFests (d a o : Nat) (s : State) : Host.Outcome State Fault Refusal :=
  s.issue { regs := [(d, 2), (a, 2)], reads := [(d, 2), (a, 2)], closes := true } fun s t =>
    let ea := eaOf (s.pair t a) o 8
    match s.feReach t ea 8 8 .write with
    | .act x => x
    | .at_ s loc =>
      s.releasing t (s.scopeOf t) fun s =>
      let s := s.feBefore (s.coreOf t) loc 8
      if s.fePoisoned loc 8 then .poison s (s.poisonVal loc ea.toNat)
      else
        let was := s.feBit loc
        let s := ((s.feLine (s.coreOf t) loc).feWrite loc (s.pair t d).toNat).setFe loc true
        .next (if was then s else s.feServe loc)

/-- FEQRY (R240): the mask of 64 words of a 512-byte block. -/
def execFeqry (d a : Nat) (s : State) : Host.Outcome State Fault Refusal :=
  s.issue { regs := [(d, 2), (a, 2)], reads := [(a, 2)], closes := true } fun s t =>
    let ea := s.pair t a
    match s.feReach t ea 512 512 .read with
    | .act x => x
    | .at_ s loc =>
      let s := s.feBefore (s.coreOf t) loc 512
      if s.fePoisoned loc 512 then .poison s (s.poisonVal loc ea.toNat)
      else
        let m := (List.range 64).foldl (fun m k => if s.feBit (loc.plus (8 * k)) then m + 2 ^ k else m) 0
        let s := (List.range 4).foldl (fun s k => s.feLine (s.coreOf t) (loc.plus (128 * k))) s
        .next ((s.setPair t d (dw m)).acquire t (s.scopeOf t))

/-- FESET and FECLR (R240): a run of 1 to 64 words within one 512-byte block. Each word whose bit changes is served. -/
def State.feRun (full : Bool) (a b : Nat) (s : State) : Host.Outcome State Fault Refusal :=
  s.issue { regs := [(a, 2), (b, 1)], reads := [(a, 2), (b, 1)], closes := true } fun s t =>
    let ea := s.pair t a
    let n := (s.reg t b).toNat
    if n < 1 || 64 < n then .trap s causeIllegal (dw n)
    else if bitsOf ea.toNat 8 3 + n > 64 then .trap s causeAlignData ea
    else
      match s.feReach t ea (8 * n) 8 .write with
      | .act x => x
      | .at_ s loc =>
        s.releasing t (s.scopeOf t) fun s =>
        let s := s.feBefore (s.coreOf t) loc (8 * n)
        if s.fePoisoned loc (8 * n) then .poison s (s.poisonVal loc ea.toNat)
        else
          let first := loc.addr / 128
          let last := (loc.addr + 8 * n - 1) / 128
          let s := (List.range (last + 1 - first)).foldl (fun s k => s.feLine (s.coreOf t) (loc.plus (128 * k))) s
          .next ((List.range n).foldl (fun s k =>
            let w := loc.plus (8 * k)
            let was := s.feBit w
            let s := s.setFe w full
            if was == full then s else s.feServe w) s)

/-- FESET (R240). -/
def execFeset (a b : Nat) (s : State) : Host.Outcome State Fault Refusal := s.feRun true a b

/-- FECLR (R240). -/
def execFeclr (a b : Nat) (s : State) : Host.Outcome State Fault Refusal := s.feRun false a b

/-! ## Presentation after a wake (R244, R245, R248) -/

/-- A pending operation dropped. -/
def State.feDrop (s : State) (t : TRef) : State := { s with feq := s.feq.filter fun x => x.ref != t }

/-- FE_PRESENT (R244): the woken operation of a running thread is checked anew (R248), then performed, or it spends its
count (R245) and waits again. -/
def State.fePresent (s : State) (e : FeWait) (counted : Bool) : State :=
  match s.feReach e.ref e.va 8 8 (if e.kind == .feldw then .read else .write) with
  | .act (.page s va level kind) => (s.feDrop e.ref).pageFault e.ref va level kind
  | .act (.trap s cause val) => (s.feDrop e.ref).regionTrap e.ref cause val
  | .act (.park s _) => s
  | .act _ => s
  | .at_ s loc =>
    let s := s.feBefore (s.coreOf e.ref) loc 8
    if s.fePoisoned loc 8 then (s.feDrop e.ref).consume e.ref (s.poisonVal loc e.va.toNat)
    else if e.kind.holds (s.feBit loc) then
      let s := (s.feDrop e.ref).fePerform { e with loc := loc }
      if e.kind == .feldw then s else s.feServe loc
    else
      let s := s.feLine (s.coreOf e.ref) loc
      if !counted then s.fePend { e with loc := loc }
      else if e.count == 0 then (s.feDrop e.ref).regionTrap e.ref causeFeStarve e.va
      else s.fePend { e with loc := loc, count := e.count - 1 }

/-- FE_PRESENT: nothing happens when the thread holds no woken operation, or its block is not running. -/
def execFePresent (t : TRef) (s : State) : Host.Outcome State Fault Refusal :=
  .next (match s.feq.find? fun e => e.ref == t with
    | some e =>
      match e.place with
      | .woken counted => if s.running t.blk then s.fePresent e counted else s
      | _ => s
    | none => s)

/-- Queued and moored operations woken without being counted, since their translation is invalidated (R248). `hit` says which. -/
def State.feWake (s : State) (hit : FeWait → Bool) : State :=
  let waits (e : FeWait) : Bool := match e.place with
    | .woken _ => false
    | _ => hit e
  let due := s.feq.filter fun e => waits e && s.running e.ref.blk
  { s with
    feq := s.feq.map fun e => if waits e then { e with place := .woken false } else e
    agenda := s.agenda ++ due.map fun e => .fePresent e.ref }

end Sys2Proof.Machine
end

