-- ==== Sys2Proof/Machine/EngMem.lean ====
section
/-! DEFINITION. The memory of an engine command in execution: resolving its addresses (R166, R256), reading and writing at
the die L2 point, the host or an array (R188, R191), full/empty modes (R249), and the lines of a target package (R395,
R398). -/

namespace Sys2Proof.Machine

/-- What a part of a unit's work comes to: a value, a fault that ends or sets aside the command, or a wait for the host or
a flit, after which the unit is worked again. -/
inductive EngR (α : Type) where
  | ok (s : State) (a : α)
  | stop (s : State) (f : CmdFault)
  | wait (s : State)

def EngR.andThen {α β : Type} (r : EngR α) (f : State → α → EngR β) : EngR β :=
  match r with
  | .ok s a => f s a
  | .stop s e => .stop s e
  | .wait s => .wait s

/-! ## Faults found in execution -/

/-- A fault at an address (R168). -/
def Cmd.addrFault (c : Cmd) (cause va : Nat) (level need : Nat) : CmdFault :=
  { cause := cause, val := engAddrVal c.fn va, va := dw va, level := level, need := need }

/-- An ENGINE_ERROR (R168). -/
def Cmd.errFault (c : Cmd) (sub : Nat) : CmdFault := { cause := causeEngineError, val := engErrVal c.fn c.done sub }

/-- A CHECKSUM fault (R184). -/
def Cmd.ckFault (c : Cmd) (kind : Nat) (rs cs : List Nat) : CmdFault :=
  { cause := causeChecksum, val := engCkVal c.fn kind c.done rs cs }

/-- A consumed error, with the VAL of the entry of R418. -/
def ueFault (va : Nat) : CmdFault := { cause := causeUe, val := 0, va := dw va }

def subBhdr : Nat := 0x01
def subBrange : Nat := 0x02
def subWblen : Nat := 0x03
def subTshape : Nat := 0x04
def subCancel : Nat := 0x05
def subClen : Nat := 0x06
def subRank : Nat := 0x07
def subLink : Nat := 0x08

/-! ## Places -/

/-- The core of a command, and the walker that translates for it (R347). -/
def State.cmdCore (s : State) (c : Cmd) : Nat := (s.bk c.blk).core

def State.cmdWalker (s : State) (c : Cmd) : Walker :=
  match c.eng with
  | .quay die => .quay die
  | _ => .engine (s.cmdCore c)

/-- The region of an address of a command; a Quay copy reaches global memory only (R309). -/
def State.cmdRegion (s : State) (c : Cmd) (va n : Nat) : Region :=
  match c.eng with
  | .quay _ => if va + n ≤ scratchBase then .global va else .prot
  | _ => s.region c.blk va n

/-- A command that waits for a host completion. -/
def State.cmdWaits (s : State) (c : Cmd) (tag : Nat) : State := s.modCmd c.id fun x => { x with st := .waitHost tag }

/-- The place of `n` bytes of a line for a command. -/
def State.engReach (s : State) (c : Cmd) (va n : Nat) (need : Need) : EngR Loc :=
  match s.cmdRegion c va n with
  | .prot => .stop s (c.addrFault causeProt va 0 (needKind need))
  | .ticket => .stop s (c.addrFault causeGangTicket va 0 (needKind need))
  | .gangWait => .wait s
  | .array blk off remote => .ok s (.scr blk off remote)
  | .global a =>
    match s.translate (s.cmdWalker c) c.vd a need with
    | (s', .absent level) => .stop s' (c.addrFault causePage va level (needKind need))
    | (s', .denied level) => .stop s' (c.addrFault causeProt va level (needKind need))
    | (s', .ok (.host vd ap gpa)) =>
      if s'.atsMiss vd ap gpa then
        if !s'.atsFree vd ap gpa then .wait s'
        else
          let (tag, s') := s'.sendAts vd ap gpa (dw va) (needKind need) fun _ => .cmd c.id
          .wait (s'.cmdWaits c tag)
      else .ok s' (.host vd ap gpa)
    | (s', .ok l) => .ok s' l

/-! ## Reading -/

/-- A read of at most a line at a place, and whether it met poison. A Quay copy reads at home. -/
def State.engPeek (s : State) (c : Cmd) (l : Loc) (n : Nat) : State × Nat × Bool :=
  match c.eng, l with
  | .quay _, .dev vd _ ma => (s.charge vd ma, s.homeRead ma n, s.devPoisoned ma n)
  | _, l => s.locRead (s.cmdCore c) l n .l2

/-- The VAL of a consumed error (R418): the line's first byte when the whole line was read, else the first 8-byte word that
met it; 0 where an array was in error. -/
def State.ueVa (s : State) (c : Cmd) (l : Loc) (va n : Nat) : Nat :=
  match l with
  | .scr _ _ _ => 0
  | l =>
    if n == 128 then Nat.max (s.poisonVal l va) (if s.poisonVal (l.plus 64) va == 0 then 0 else va)
    else
      let first := l.addr / 8 * 8
      let ks := (List.range 17).filter fun k => first + 8 * k < l.addr + n
      let base := va - va % 8
      match ks.find? fun k =>
        let lo := Nat.max l.addr (first + 8 * k)
        (s.engPeek c (l.plus (lo - l.addr)) (Nat.min 8 (first + 8 * k + 8 - lo))).2.2 with
      | some k => s.poisonVal (l.plus (Nat.max l.addr (first + 8 * k) - l.addr)) (base + 8 * k)
      | none => s.poisonVal l base

/-- The bytes that a request has brought for an address. -/
def Cmd.brought (c : Cmd) (va n : Nat) : Option (List Byte) :=
  (c.host.find? fun x => x.1 == va && x.2.length == n).map (·.2)

/-- The dirty bytes of a core's copy of a line written back before a command reads it beyond the L1 (R190); a Quay copy has no
core. -/
def State.engBefore (s : State) (c : Cmd) (vd line : Nat) : State :=
  match c.eng with
  | .quay _ => s
  | _ => s.l1WriteBack (s.cmdCore c) vd line

/-- A transfer of a command on the IDE stream of an aperture, noted (R380). -/
def State.engStream (s : State) (c : Cmd) (vd ap gpa : Nat) : State :=
  s.modCmd c.id fun x => { x with streams := setIns (s.busAddr vd ap gpa).2.2.1 x.streams }

/-- Bytes of one line read by a command. -/
def State.engGet (s : State) (c : Cmd) (va n : Nat) : EngR (List Byte) :=
  (s.engReach c va n .read).andThen fun s l =>
    match l with
    | .host vd ap gpa =>
      match c.brought va n with
      | some bs => .ok s bs
      | none =>
        let s := (s.engBefore c vd (gpa / 128)).engStream c vd ap gpa
        if !s.hostFree vd ap gpa then .wait s
        else
          let tag := s.seq
          .wait ((s.ask vd ap gpa (dw va) n (.cmd c.id) fun tag port h => .request tag port h n (s.tOut vd)).cmdWaits c tag)
    | l =>
      match s.engPeek c l n with
      | (s', _, true) => .stop s' (ueFault (s.ueVa c l va n))
      | (s', v, false) => .ok s' (natBytes n v)

/-! ## The fabric (R395 to R398) -/

/-- The transfer tag of a command in its flits. -/
def Cmd.tag (c : Cmd) : Nat := c.id % 4096

/-- A VD's flit, under its partition's link key. -/
def State.sendFlit (s : State) (vd typ drank srank addr tag : Nat) (data : BitVec 1024) (be : BitVec 128)
    (fev few : BitVec 16) : State :=
  s.flitOut (s.vd vd).part typ drank srank addr tag data be fev few

/-- The sender's rank of a VD's own flits. -/
def State.ownRank (s : State) (vd : Nat) : Nat := (s.pkgRank vd).toNat % 1024

/-- A command's flit, after which it waits for the answer (R398). -/
def State.askFlit (s : State) (c : Cmd) (typ addr : Nat) (data : BitVec 1024) (be : BitVec 128) (fev few : BitVec 16) :
    State :=
  (s.sendFlit c.vd typ c.desc.rank (s.ownRank c.vd) addr c.tag data be fev few).modCmd c.id fun x =>
    { x with st := .waitFlit, since := s.cycles (dieOfCore (s.cmdCore c)) }

/-- Bytes of one line of the target package (GET): the line is asked for, and kept until the unit ends. -/
def State.farGet (s : State) (c : Cmd) (va n : Nat) : EngR (List Byte) :=
  let line := va / 128 * 128
  match c.brought line 128 with
  | some bs => .ok s ((bs.drop (va % 128)).take n)
  | none => .wait (s.askFlit c 2 line 0 (BitVec.allOnes 128) 0 0)

/-- Bytes of any length read line by line; `far` from the target package. -/
def State.engBytes (s : State) (c : Cmd) (far : Bool) : Nat → Nat → Nat → EngR (List Byte)
  | 0, _, _ => .ok s []
  | fuel + 1, va, n =>
    if n == 0 then .ok s []
    else
      let k := Nat.min n (128 - va % 128)
      (if far then s.farGet c va k else s.engGet c va k).andThen fun s l =>
        (s.engBytes c far fuel (va + k) (n - k)).andThen fun s r => .ok s (l ++ r)

/-- `n` bytes from an address on. -/
def State.engRead (s : State) (c : Cmd) (far : Bool) (va n : Nat) : EngR (List Byte) := s.engBytes c far (n / 128 + 2) va n

/-! ## Full/empty words as a source (R249) -/

/-- Source words read at home with their bits: the bytes, and one bit for each word. -/
def State.engWords (s : State) (c : Cmd) : Nat → Nat → EngR (List Byte × List Bool)
  | 0, _ => .ok s ([], [])
  | k + 1, va =>
    (s.engReach c va 8 .read).andThen fun s l =>
      match l with
      | .host _ _ _ => .stop s (c.addrFault causeFeUnsupported va 0 1)
      | l =>
        let s := s.feLine (s.cmdCore c) l
        if s.fePoisoned l 8 then .stop s (ueFault (s.poisonVal l va))
        else
          let v := s.feData l
          let bit := s.feBit l
          (s.engWords c k (va + 8)).andThen fun s r => .ok s (natBytes 8 v ++ r.1, bit :: r.2)

/-! ## Writing -/

/-- A piece of a line to write: its address, its bytes, and the bits of its words under a full/empty mode. -/
structure Piece where
  va : Nat
  bytes : List Byte
  bits : Option (List Bool) := none
  deriving DecidableEq, Repr

/-- Where a command writes device memory: a full/empty word, a word that TST or a check command writes into an image (R161, R187), and what
Quay copies, at the home slice; the rest at the die L2 point. -/
def Cmd.writePoint (c : Cmd) (bits : Bool) : Point :=
  match c.eng with
  | .quay _ => .home
  | _ => if bits || c.fn == fnTst || c.cls == 3 then .home else .l2

/-- What a command's write does before it: the dirty bytes of the line are written back, and poison with them (R190, R423). -/
def State.engClean (s : State) (c : Cmd) (l : Loc) (pt : Point) : State :=
  match c.eng, l with
  | .quay _, _ => s
  | _, .dev vd gpa _ => s.beyond (s.cmdCore c) vd (gpa / 128) (pt == .home)
  | _, _ => s

/-- Whether a write to a place meets poison in a unit that it does not cover whole (R423). -/
def State.engPartly (s : State) (c : Cmd) (l : Loc) (n : Nat) (pt : Point) : Bool :=
  match l with
  | .dev vd gpa ma => if pt == .home then s.devPartly ma n else s.l2Bad (dieOfCore (s.cmdCore c)) vd gpa ma n
  | .scr blk off _ => (s.bk blk).poison.any fun p => p < off + n && off < p + 8 && !(off ≤ p && p + 8 ≤ off + n)
  | .host _ _ _ => false

/-- Who makes a command's write to host memory (R354). -/
def Cmd.writer (c : Cmd) (va : Nat) : PostBy :=
  { src := (match c.eng with | .quay _ => 4 | _ => 2), va := va, cmd := some c.id }

/-- A write of part of a line at a place; the place's poison has been checked. A cleared unit's words are served (R243, R423). -/
def State.engWrite (s : State) (c : Cmd) (l : Loc) (va n v : Nat) : State :=
  let core := s.cmdCore c
  match c.eng, l with
  | .quay _, .dev vd gpa ma =>
    (((s.charge vd ma).clearWhole ma n).homeWrite vd gpa ma n v).serveIf (s.devPoisoned ma n)
  | .quay _, .host vd ap gpa =>
    ((s.engStream c vd ap gpa).sendPosted vd ap gpa n v (c.writer va)).modKe c.acct fun k =>
      { k with posted := setIns (s.busAddr vd ap gpa).1 k.posted }
  | _, .dev vd gpa ma => (s.devWrite core vd gpa ma n v (c.writePoint false)).1.serveIf (s.devPoisoned ma n)
  | _, .host vd ap gpa =>
    let s := (s.engStream c vd ap gpa).l1WriteBack core vd (gpa / 128)
    (s.postHost core vd ap gpa n v (c.writer va)).l1Drop core vd (gpa / 128)
  | _, .scr blk off _ => (s.scrWrite blk off n v).serveIf (s.scrPoisoned blk off n)

/-- One word written with its bit at its point (R249); a bit that differs from `was`, what it was before the write, serves the word's
queues. -/
def State.engWord (s : State) (c : Cmd) (l : Loc) (v : Nat) (was bit : Bool) : State :=
  let s := ((s.feLine (s.cmdCore c) l).feWrite l v).setFe l bit
  if was == bit then s else s.feServe l

/-- The words of a piece written with their bits; each word's old bit stands beside its new one. -/
def State.engWordsOut (s : State) (c : Cmd) (l : Loc) : List Byte → List (Bool × Bool) → Nat → State
  | _, [], _ => s
  | bs, b :: r, k => (s.engWord c (l.plus (8 * k)) (bytesNat (bs.take 8)) b.1 b.2).engWordsOut c l (bs.drop 8) r (k + 1)

/-- The VAL of a write that meets poison in part (R418): the first 8-byte word that does, 0 where an array was in error. -/
def State.partVal (s : State) (c : Cmd) (l : Loc) (va n : Nat) (pt : Point) : Nat :=
  match (List.range (n / 8 + 2)).find? fun k =>
    let lo := Nat.max va ((va / 8 + k) * 8)
    lo < va + n && s.engPartly c (l.plus (lo - va)) (Nat.min 8 (va + n - lo)) pt with
  | some k => s.poisonVal (l.plus (Nat.max va ((va / 8 + k) * 8) - va)) ((va / 8 + k) * 8)
  | none => s.poisonVal l (va / 8 * 8)

/-- The places of some pieces, all resolved before the first is written. -/
def State.engPlaces (s : State) (c : Cmd) : List Piece → EngR (List Loc)
  | [] => .ok s []
  | p :: r =>
    (s.engReach c p.va p.bytes.length .write).andThen fun s l =>
      match l, p.bits with
      | .host _ _ _, some _ => .stop s (c.addrFault causeFeUnsupported p.va 0 2)
      | l, bits =>
        let pt := c.writePoint bits.isSome
        let s := s.engClean c l pt
        if s.engPartly c l p.bytes.length pt then .stop s (ueFault (s.partVal c l p.va p.bytes.length pt))
        else (s.engPlaces c r).andThen fun s ls => .ok s (l :: ls)

/-- Poison of the units that a word-by-word write covers whole, cleared first. -/
def State.engClear (s : State) (l : Loc) (n : Nat) : State := match l with
  | .dev _ _ ma => s.clearWhole ma n
  | _ => s

/-- One resolved piece written. -/
def State.engWriteOne (s : State) (c : Cmd) (x : Piece × Loc) : State :=
  match x.1.bits with
  | some bits =>
    let was := (List.range bits.length).map fun k => s.feBit (x.2.plus (8 * k))
    (s.engClear x.2 x.1.bytes.length).engWordsOut c x.2 x.1.bytes (was.zip bits) 0
  | none => s.engWrite c x.2 x.1.va x.1.bytes.length (bytesNat x.1.bytes)

/-- Some pieces written: nothing is written unless every place is reached. -/
def State.engWriteAll (s : State) (c : Cmd) (ps : List Piece) : EngR Unit :=
  (s.engPlaces c ps).andThen fun s ls => .ok ((ps.zip ls).foldl (fun s x => s.engWriteOne c x) s) ()

end Sys2Proof.Machine
end

