-- ==== Sys2Proof/Machine/EngUnit.lean ====
section
/-! DEFINITION. One unit of each engine command (R43, R158, R161, R178, R186, R252 to R255): K-groups, bands, lines and
rows. -/

namespace Sys2Proof.Machine

/-- The command after a finished unit, and whether it was the last. -/
structure UnitEnd where
  cmd : Cmd
  last : Bool
  deriving DecidableEq, Repr

/-- The end of a unit: the tidemark advances and the bytes brought for the unit are let go. -/
def Cmd.unitDone (c : Cmd) (last : Bool) : UnitEnd :=
  { cmd := { c with done := c.done + 1, host := [], ncheck := 0 }, last := last }

/-! ## Matrix K-groups (R154, R155, R158, R159, R180) -/

/-- Whether a record's format and compression suit a command (R153). -/
def recFits (c : Cmd) (h : TileHdr) : Bool :=
  if h.comp == 2 then c.bfmt == 1 && h.fmt == 0 && (c.afmt == 0 || c.afmt == 1 || c.afmt == 2)
  else h.fmt == c.bfmt && !(c.afmt == 0 && c.bfmt == 1)

/-- The stored columns of A for a record's K. -/
def Cmd.storedCols (c : Cmd) (k : Nat) : Nat := if c.fn == fnMspa then k / 2 else k

/-- The record of a step, its header and its expanded elements, or the subcode that ends the command. -/
def readRecord (c : Cmd) (w : WBuf) (step : Nat) : Except (Option Nat) (TileHdr × List Nat) :=
  let off := 64 * (c.boff + step * c.binc)
  if off + 64 > 524288 then .error (some subBrange)
  else if w.bad off 64 then .error none
  else
    let hb := w.read off 64
    let h := readHdr hb
    if hdrBad hb then .error (some subBhdr)
    else if off + h.ilen > 524288 then .error (some subBrange)
    else if !recFits c h || h.cols != c.n || (c.sc && h.rows % 32 != 0) || (c.fn == fnMspa && h.rows % 4 != 0) ||
        (c.asrc < 2 && viewCols c.aview != c.storedCols h.rows) then .error (some subBhdr)
    else if w.bad (off + 64) h.plen then .error none
    else match expandTile h (w.read (off + 64) h.plen) with
      | some els => .ok (h, els)
      | none => .error (some subBhdr)

/-- Bytes of the block's scratchpad for a matrix operand; PROT beyond SB (R166). The first operand to cross SB is reported, A's
elements before their scales, rows ascending (log entry 50). -/
def State.opBytes (s : State) (c : Cmd) (off n : Nat) : Except CmdFault Nat :=
  let sb := (s.bk c.blk).sb
  if off + n > sb then .error (c.addrFault causeProt (scratchBase + Nat.max off sb) 0 1)
  else if s.scrPoisoned c.blk off n then .error (ueFault 0)
  else .ok (s.scrRead c.blk off n)

/-- The stored elements `[lo, hi)` of row `i` of A in step `step`, whose panel has `kc` columns a step (R154). -/
def State.rawRow (s : State) (c : Cmd) (step kc i lo hi : Nat) : Except CmdFault (List Nat) :=
  if c.asrc < 2 then .ok (((c.tile.drop (i * kc)).take hi).drop lo)
  else
    let e := elemNibbles c.afmt
    let first := (step * kc + lo) * e
    let last := (step * kc + hi) * e
    match s.opBytes c (c.abase + 16 * c.apitch * i + first / 2) ((last + 1) / 2 - first / 2) with
    | .error f => .error f
    | .ok v => .ok ((List.range (hi - lo)).map fun k => v / 2 ^ (4 * (first % 2 + k * e)) % 2 ^ (4 * e))

/-- The scale bytes of the blocks `[lo, hi)` of row `i` (R96, R154); none without scales. -/
def State.scalesOf (s : State) (c : Cmd) (i lo hi : Nat) : Except CmdFault (List Nat) :=
  if !c.sc then .ok []
  else match s.opBytes c (c.ascl + 16 * c.spitch * i + lo) (hi - lo) with
    | .error f => .error f
    | .ok v => .ok ((List.range (hi - lo)).map fun k => v / 256 ^ k % 256)

/-- An element as the engine multiplies it, under its scale (R96). -/
def aElem (fmt : Nat) (scale : Option Nat) (x : Nat) : AElem :=
  if (codeFmt fmt).isNone then .num (intElem fmt x)
  else match scale with
    | none => .val (floatElem fmt x)
    | some e =>
      if e == 0xFF then .val (.nan false 0 0 false)
      else .val (match floatElem fmt x with
        | .fin sg m ex => .fin sg m (ex + e - 127)
        | v => v)

/-- The logical columns `[lo, hi)` of row `i` of A in a step (R158, R159). -/
def State.aRow (s : State) (c : Cmd) (step k i lo hi : Nat) : Except CmdFault (List AElem) :=
  let kc := c.storedCols k
  let spa := c.fn == fnMspa
  match s.rawRow c step kc i (if spa then lo / 2 else lo) (if spa then hi / 2 else hi) with
  | .error f => .error f
  | .ok raw =>
    let b0 := (step * k + lo) / 32
    match s.scalesOf c i b0 ((step * k + hi + 31) / 32) with
    | .error f => .error f
    | .ok sc =>
      .ok ((List.range (hi - lo)).map fun j =>
        let scale := if c.sc then some (sc.getD ((step * k + lo + j) / 32 - b0) 0) else none
        if !spa then aElem c.afmt scale (raw.getD j 0)
        else
          let g := (lo + j) / 4
          let p := (lo + j) % 4
          let m := c.metas.getD i 0
          let p0 := metaP0 m g
          let p1 := metaP1 m g
          if p0 < p1 && p == p0 then aElem c.afmt scale (raw.getD (2 * g - lo / 2) 0)
          else if p0 < p1 && p == p1 then aElem c.afmt scale (raw.getD (2 * g + 1 - lo / 2) 0)
          else .gap)

/-- Rows of A gathered in ascending order; the first fault ends them. -/
def State.aRows (s : State) (c : Cmd) (step k lo hi : Nat) : List Nat → Except CmdFault (List (List AElem))
  | [] => .ok []
  | i :: r =>
    match s.aRow c step k i lo hi with
    | .error f => .error f
    | .ok x => match s.aRows c step k lo hi r with
      | .error f => .error f
      | .ok xs => .ok (x :: xs)

/-- Element `j` of each list. -/
def columnOf {α : Type} (d : α) (rows : List (List α)) (j : Nat) : List α := rows.map fun r => r.getD j d

/-- An exact prediction or magnitude advanced by some products of a sum and an element (R180). -/
def accFloatStep (up : Bool) (old : Nat) (ps : List FVal) : Nat :=
  let x := sumV (unpack .f64 old :: ps)
  if up then upRound x else accRound x

def accIntStep (acc q old : Nat) (x : Int) : Nat :=
  if acc == 10 then (((old : Int) + x) % (q : Int)).toNat else (((old : Int) + x) % 2 ^ 32).toNat

/-- The predictions of R180 after a K-group. `a` has the rows of A, `b` the rows of B (one for each k). A place that sparsity
leaves is the number 0 here (log entry 50). -/
def Cmd.predict (c : Cmd) (a : List (List AElem)) (b : List (List Nat)) : Cmd :=
  let ks := List.range b.length
  if accFloat c.acc then
    let bv := b.map fun r => r.map (floatElem c.bfmt)
    let av := a.map fun r => r.map AElem.float
    let asum := ks.map fun k => sumV (columnOf (.fin false 0 0) av k)
    let amag := ks.map fun k => sumV ((columnOf (.fin false 0 0) av k).map fvAbs)
    let bsum := bv.map sumV
    let bmag := bv.map fun r => sumV (r.map fvAbs)
    { c with
      pc := c.pc.zipIdx.map fun x => accFloatStep false x.1 (List.zipWith prodV asum (columnOf (.fin false 0 0) bv x.2))
      mc := c.mc.zipIdx.map fun x =>
        accFloatStep true x.1 (List.zipWith prodV amag ((columnOf (.fin false 0 0) bv x.2).map fvAbs))
      pr := c.pr.zipIdx.map fun x => accFloatStep false x.1 (List.zipWith prodV (av.getD x.2 []) bsum)
      mr := c.mr.zipIdx.map fun x => accFloatStep true x.1 (List.zipWith prodV ((av.getD x.2 []).map fvAbs) bmag) }
  else
    let bv := b.map fun r => r.map (intElem c.bfmt)
    let av := a.map fun r => r.map AElem.int
    let asum := ks.map fun k => (columnOf 0 av k).sum
    let bsum := bv.map List.sum
    let q := c.modq.toNat
    { c with
      pc := c.pc.zipIdx.map fun x => accIntStep c.acc q x.1 (List.zipWith (· * ·) asum (columnOf 0 bv x.2)).sum
      pr := c.pr.zipIdx.map fun x => accIntStep c.acc q x.1 (List.zipWith (· * ·) (av.getD x.2 []) bsum).sum }

/-- C after a K-group (R110). -/
def Cmd.addGroup (c : Cmd) (a : List (List AElem)) (b : List (List Nat)) : Cmd :=
  let cols := (List.range c.n).map (columnOf 0 b)
  { c with c := a.zipIdx.flatMap fun r => cols.zipIdx.map fun col =>
      groupAdd c.acc c.modq.toNat (c.c.getD (r.2 * c.n + col.2) 0) r.1 col.1 c.bfmt }

/-- One K-group of a matrix step. -/
def State.stepUnit (s : State) (c : Cmd) : EngR UnitEnd :=
  match c.eng with
  | .matrix core sub =>
    match readRecord c (s.wbuf core sub c.vd) c.step with
    | .error none => .stop s (ueFault 0)
    | .error (some sub) => .stop s (c.errFault sub)
    | .ok (h, els) =>
      let g := groupSize c.afmt c.bfmt
      let lo := c.group * g
      let hi := Nat.min (lo + g) h.rows
      match s.aRows c c.step h.rows lo hi (List.range c.m) with
      | .error f => .stop s f
      | .ok a =>
        let b := (List.range (hi - lo)).map fun k => rowOf c.n (lo + k) els
        let c := (if c.chk then c.predict a b else c).addGroup a b
        let c := if hi == h.rows then { c with step := c.step + 1, group := 0 } else { c with group := c.group + 1 }
        .ok s (c.unitDone (c.step == c.steps))
  | _ => .ok s (c.unitDone true)

/-! ## Checked images (R172, R173, R177) -/

/-- The stale rows and columns of a header. -/
def TileHdr.staleR (h : TileHdr) : List Nat := staleRows h.rows h.stale
def TileHdr.staleC (h : TileHdr) : List Nat := staleCols h.cols h.stale

/-- The elements of an image. -/
def imageEls (h : TileHdr) (img : List Byte) : Option (List Nat) := expandTile h ((img.drop 64).take h.plen)

/-- The stored row and column checksums of an image. -/
def imageRs (h : TileHdr) (img : List Byte) : List Nat := storedSums h.outFmt h.rows (img.drop (64 + h.plen))
def imageCs (h : TileHdr) (img : List Byte) : List Nat := storedSums h.outFmt h.cols (img.drop (64 + h.plen + h.rcl))

/-- The computed checksums of an image's elements. -/
def computedRs (h : TileHdr) (els : List Nat) : List Nat := rowSums h.outFmt h.modq h.rows h.cols els
def computedCs (h : TileHdr) (els : List Nat) : List Nat := colSums h.outFmt h.modq h.rows h.cols els

/-- The rows and columns of an image whose stored checksums differ, stale ones apart (R178). -/
def imageDiff (h : TileHdr) (img : List Byte) (els : List Nat) : List Nat × List Nat :=
  (mismatches (imageRs h img) (computedRs h els) h.staleR, mismatches (imageCs h img) (computedCs h els) h.staleC)

/-- An image's checksum parts with recomputed values in place of stale ones, padded to the image's end. -/
def freshTail (h : TileHdr) (img : List Byte) (els : List Nat) : List Byte :=
  padTo (h.ilen - 64 - h.plen)
    (sumBytes h.outFmt (refreshed (imageRs h img) (computedRs h els) h.staleR)
      (refreshed (imageCs h img) (computedCs h els) h.staleC))

/-- An image's header with STALE cleared, under a MAGIC. -/
def freshHdr (h : TileHdr) (magic : Nat) : List Byte := { h with stale := 0 }.bytes magic

/-- A strict image with stale checksums. -/
def TileHdr.strict (h : TileHdr) : Bool := h.mode && !(h.staleR.isEmpty && h.staleC.isEmpty)

/-! ## WBLD (R156, R178) -/

/-- The bands of a record: a raw payload by K-groups of its format, any other as one. -/
def bandCount (h : TileHdr) : Nat :=
  if h.comp != 0 then 1 else let g := groupSize h.fmt h.fmt; (h.rows + g - 1) / g

/-- The image bytes at which band `b` ends. -/
def bandEnd (h : TileHdr) (b : Nat) : Nat :=
  if b + 1 ≥ bandCount h then 64 + h.plen
  else 64 + (b + 1) * groupSize h.fmt h.fmt * h.cols * elemNibbles h.fmt / 2

/-- What WBLD's header check finds (R155, R156, R177). -/
def wbldJudge (c : Cmd) (hb : List Byte) : Option CmdFault :=
  let h := readHdr hb
  if hdrBad hb || (h.comp == 0 && (h.fmt == 7 || h.fmt == 8)) then some (c.errFault subBhdr)
  else if h.ilen != c.len then some (c.errFault subWblen)
  else if h.strict then some (c.ckFault kindStale h.staleR h.staleC)
  else none

/-- One band of WBLD, written as soon as it has arrived: the first unit reads the header before it. -/
def State.wbldUnit (s : State) (c : Cmd) : EngR UnitEnd :=
  match c.eng with
  | .matrix core sub =>
    let first : EngR (List Byte) := if c.img.isEmpty then s.engRead c false c.addr 64 else .ok s c.img
    first.andThen fun s got =>
      match wbldJudge c got with
      | some f => .stop s f
      | none =>
        let h := readHdr got
        let last := c.done + 1 == bandCount h
        let lo := got.length
        let hi := bandEnd h c.done
        (s.engRead c false (c.addr + lo) (hi - lo)).andThen fun s more =>
          .ok (s.wbufWrite core sub (64 * c.doff + lo) more) ({ c with img := got ++ more }.unitDone last)
  | _ => .ok s (c.unitDone true)

/-! ## TLD and TST (R161, R178, R179) -/

/-- Line `k` of an image at `a` of length `n`: its first byte's and its end's offset in the image. -/
def lineSpan (a n k : Nat) : Nat × Nat :=
  let first := (a / 128 + k) * 128
  (if k == 0 then 0 else first - a, Nat.min n (first + 128 - a))

/-- What TLD's header check finds: BHDR, then TSHAPE, then a stale strict image. -/
def tldJudge (c : Cmd) (hb : List Byte) : Option CmdFault :=
  let h := readHdr hb
  let v := c.tview
  if hdrBad hb then some (c.errFault subBhdr)
  else if h.comp != 0 || h.fmt != viewFmt v || h.rows != viewRows v || h.cols != viewCols v then some (c.errFault subTshape)
  else if h.strict then some (c.ckFault kindStale h.staleR h.staleC)
  else none

/-- One line of TLD. -/
def State.tldUnit (s : State) (c : Cmd) : EngR UnitEnd :=
  let first : EngR (List Byte) := if c.img.isEmpty then s.engRead c false c.addr 64 else .ok s c.img
  first.andThen fun s got =>
    match tldJudge c got with
    | some f => .stop s f
    | none =>
      let h := readHdr got
      let hi := (lineSpan c.addr h.ilen c.done).2
      (s.engRead c false (c.addr + got.length) (hi - got.length)).andThen fun s more =>
        .ok s ({ c with img := got ++ more }.unitDone (hi == h.ilen))

/-- What TST's comparison with the sidecar finds (R179). -/
def tstJudge (c : Cmd) : Option CmdFault :=
  if !c.onSidecar then none
  else
    let q := c.modq.toNat
    let rs := mismatches c.pr (rowSums c.acc q c.m c.n c.c) (staleRows c.m c.stale)
    let cs := mismatches c.pc (colSums c.acc q c.m c.n c.c) (staleCols c.n c.stale)
    if rs.isEmpty && cs.isEmpty then none else some (c.ckFault kindTransit rs cs)

/-- One line of TST. -/
def State.tstUnit (s : State) (c : Cmd) : EngR UnitEnd :=
  match tstJudge c with
  | some f => .stop s f
  | none =>
    let (lo, hi) := lineSpan c.addr c.img.length c.done
    (s.engWriteAll c [{ va := c.addr + lo, bytes := (c.img.take hi).drop lo }]).andThen fun s _ =>
      .ok s (c.unitDone (hi == c.img.length))

/-! ## Check commands (R185 to R187) -/

/-- What a check command finds in an image's header. -/
def checkJudge (c : Cmd) (hb : List Byte) : Option CmdFault :=
  let h := readHdr hb
  if hdrBad hb || (c.fn == fnTfix && h.comp != 0) then some (c.errFault subBhdr)
  else if c.fn != fnTsum && h.strict then some (c.ckFault kindStale h.staleR h.staleC)
  else none

/-- What a check command on registers finds in strict mode. -/
def sidecarJudge (c : Cmd) : Option CmdFault :=
  let rs := staleRows c.m c.stale
  let cs := staleCols c.n c.stale
  if c.fn != fnTsum && c.mode && !(rs.isEmpty && cs.isEmpty) then some (c.ckFault kindStale rs cs) else none

/-- One tile row of a check command: the first unit reads an image whole. -/
def State.checkUnit (s : State) (c : Cmd) : EngR UnitEnd :=
  if c.tgtRegs then
    match sidecarJudge c with
    | some f => .stop s f
    | none => .ok s (c.unitDone (c.done + 1 == c.m))
  else if !c.img.isEmpty then .ok s (c.unitDone (c.done + 1 == (readHdr c.img).rows))
  else
    (s.engRead c false c.addr 64).andThen fun s hb =>
      match checkJudge c hb with
      | some f => .stop s f
      | none =>
        let h := readHdr hb
        (s.engRead c false (c.addr + 64) (h.ilen - 64)).andThen fun s rest =>
          let img := hb ++ rest
          match imageEls h img with
          | none => .stop s (c.errFault subBhdr)
          | some els => .ok s ({ c with img := img, c := els }.unitDone (h.rows == 1))

/-! ## COPY, PUT and GET (R252 to R255) -/

/-- A stretch of a copy within one destination line: source, destination and length. -/
structure Stretch where
  src : Nat
  dst : Nat
  n : Nat
  deriving DecidableEq, Repr

/-- The stretches of one destination line from a position on, and the next position. -/
def CopyDesc.stretches (d : CopyDesc) : Nat → Nat → Nat → Nat → List Stretch × Nat × Nat
  | 0, row, off, _ => ([], row, off)
  | fuel + 1, row, off, line =>
    let dst := (d.dstRow row + off) % 2 ^ 64
    if row ≥ d.nrow || dst / 128 != line then ([], row, off)
    else
      let n := Nat.min (d.rlen - off) (128 - dst % 128)
      let here : Stretch := { src := (d.srcRow row + off) % 2 ^ 64, dst := dst, n := n }
      let (r, x) := if off + n == d.rlen then d.stretches fuel (row + 1) 0 line else d.stretches fuel row (off + n) line
      (here :: r, x)

/-- The stretches of the unit at hand, and the position after it. -/
def Cmd.stretches (c : Cmd) : List Stretch × Nat × Nat :=
  c.desc.stretches 129 c.step c.group ((c.desc.dstRow c.step + c.group) % 2 ^ 64 / 128)

/-- The bits of the words of a stretch under a full/empty mode. -/
def feBits (mode words : Nat) (src : List Bool) : Option (List Bool) :=
  match mode with
  | 0 => none
  | 1 => some (List.replicate words true)
  | 2 => some (List.replicate words false)
  | _ => some src

/-- The source of one stretch as the piece to write. -/
def State.stretchPiece (s : State) (c : Cmd) (x : Stretch) : EngR Piece :=
  if c.desc.femode == 3 then
    (s.engWords c (x.n / 8) x.src).andThen fun s r => .ok s { va := x.dst, bytes := r.1, bits := some r.2 }
  else
    (s.engRead c (c.fn == fnGet) x.src x.n).andThen fun s bs =>
      .ok s { va := x.dst, bytes := bs, bits := feBits c.desc.femode (x.n / 8) [] }

/-- The pieces of some stretches. -/
def State.stretchPieces (s : State) (c : Cmd) : List Stretch → EngR (List Piece)
  | [] => .ok s []
  | x :: r =>
    (s.stretchPiece c x).andThen fun s p => (s.stretchPieces c r).andThen fun s ps => .ok s (p :: ps)

/-- What a copy of a checked tile finds in the header (R255). -/
def tileJudge (c : Cmd) (hb : List Byte) : Option CmdFault :=
  let h := readHdr hb
  if hdrBad hb then some (c.errFault subBhdr)
  else if h.ilen != c.desc.rlen then some (c.errFault subClen)
  else if h.strict then some (c.ckFault kindStale h.staleR h.staleC)
  else none

/-- Bytes of a checked-tile copy's source; under FE_COPY with the bits of their words, each read with its data (R249). -/
def State.tileRead (s : State) (c : Cmd) (va n : Nat) : EngR (List Byte × List Bool) :=
  if c.desc.femode == 3 then s.engWords c (n / 8) va
  else (s.engRead c (c.fn == fnGet) va n).andThen fun s bs => .ok s (bs, [])

/-- The image of a checked-tile copy, read whole before its first unit (R255), with its words' bits in `metas`. -/
def State.tileImg (s : State) (c : Cmd) : EngR Cmd :=
  if !c.img.isEmpty then .ok s c
  else
    let src := c.desc.src.toNat
    (s.tileRead c src 64).andThen fun s hb =>
      match tileJudge c hb.1 with
      | some f => .stop s f
      | none =>
        (s.tileRead c (src + 64) (c.desc.rlen - 64)).andThen fun s rest =>
          let img := hb.1 ++ rest.1
          if (imageEls (readHdr hb.1) img).isNone then .stop s (c.errFault subBhdr)
          else .ok s { c with img := img, metas := (hb.2 ++ rest.2).map fun b => if b then 1 else 0 }

/-- The bytes that a checked-tile copy writes: stale checksums recomputed, and the header with MAGIC 0 alone changed after a
mismatch. -/
def tileOut (img : List Byte) : List Byte :=
  let h := readHdr img
  let els := (imageEls h img).getD []
  let (rs, cs) := imageDiff h img els
  (if rs.isEmpty && cs.isEmpty then freshHdr h 0x544B else h.bytes 0) ++ (img.drop 64).take h.plen ++ freshTail h img els

/-- The pieces of a checked-tile copy's unit: its line without the header's bytes, and the header in the last unit. -/
def tilePieces (c : Cmd) (xs : List Stretch) (last : Bool) : List Piece :=
  let dst := c.desc.dst.toNat
  let out := tileOut c.img
  let bits (lo n : Nat) : Option (List Bool) :=
    feBits c.desc.femode (n / 8) (((c.metas.drop (lo / 8)).take (n / 8)).map fun b => b == 1)
  let body := xs.filterMap fun x =>
    let lo := Nat.max (x.dst - dst) 64
    let hi := x.dst - dst + x.n
    if lo < hi then some { va := dst + lo, bytes := (out.take hi).drop lo, bits := bits lo (hi - lo) } else none
  body ++ if last then [{ va := dst, bytes := out.take 64, bits := bits 0 64 }] else []

/-- The pieces of a unit of COPY, PUT or GET, with the command as it then stands. -/
def State.unitPieces (s : State) (c : Cmd) : EngR (List Piece × Cmd) :=
  let (xs, row, _) := c.stretches
  if c.desc.ckmode == 1 then
    (s.tileImg c).andThen fun s c => .ok s (tilePieces c xs (row ≥ c.desc.nrow), c)
  else (s.stretchPieces c xs).andThen fun s ps => .ok s (ps, c)

/-- The command past its unit. -/
def Cmd.pastUnit (c : Cmd) : UnitEnd :=
  let (_, row, off) := c.stretches
  { c with step := row, group := off }.unitDone (row ≥ c.desc.nrow)

/-- One destination line of COPY or GET. -/
def State.copyUnit (s : State) (c : Cmd) : EngR UnitEnd :=
  (s.unitPieces c).andThen fun s r => (s.engWriteAll r.2 r.1).andThen fun s _ => .ok s r.2.pastUnit

/-- Pieces of one line gathered into a flit: its data, byte enables and full/empty bits. -/
def flitOf (ps : List Piece) : BitVec 1024 × BitVec 128 × BitVec 16 × BitVec 16 :=
  ps.foldl (fun acc p =>
    let off := p.va % 128
    let n := p.bytes.length
    let words := (p.bits.getD []).zipIdx
    (linePut acc.1 off n (bytesNat p.bytes), acc.2.1 ||| maskOf off n,
      words.foldl (fun m w => if w.1 then m ||| (1#16 <<< (off / 8 + w.2)) else m) acc.2.2.1,
      words.foldl (fun m w => m ||| (1#16 <<< (off / 8 + w.2))) acc.2.2.2)) (0, 0, 0, 0)

/-- The flits of a PUT's unit: one for its line, and one for a checked tile's header, last. -/
def flitGroups (c : Cmd) (ps : List Piece) : List (List Piece) :=
  if c.desc.ckmode == 1 then
    let hd := ps.filter fun p => p.va == c.desc.dst.toNat
    let body := ps.filter fun p => p.va != c.desc.dst.toNat
    (if body.isEmpty then [] else [body]) ++ (if hd.isEmpty then [] else [hd])
  else [ps]

/-- A flit that reports an error to a rank (R398, R423): the cause in DATA, as the model lays it out (log entry 21). -/
def errorData (cause : Nat) : BitVec 1024 := BitVec.ofNat 1024 cause

/-- One destination line of PUT: each flit of the unit is sent and acknowledged in turn. -/
def State.putUnit (s : State) (c : Cmd) : EngR UnitEnd :=
  match s.unitPieces c with
  | .stop s' f =>
    if f.cause == causeUe then
      .stop (s'.sendFlit c.vd 6 c.desc.rank (s.ownRank c.vd) (c.desc.dst.toNat / 128 * 128) c.tag (errorData causeUe) 0 0 0)
        (c.errFault subLink)
    else .stop s' f
  | .wait s' => .wait s'
  | .ok s' (ps, c') =>
    match (flitGroups c' ps)[c.ncheck]? with
    | none => .ok s' c'.pastUnit
    | some g =>
      let (data, be, fev, few) := flitOf g
      let line := (g.headD { va := 0, bytes := [] }).va / 128 * 128
      .wait ((s'.askFlit c 0 line data be fev few).modCmd c.id fun x => { x with img := c'.img, metas := c'.metas })

/-! ## GATHER and SCATTER (R254) -/

/-- The stretches of one line of the contiguous side: element, offset within it, offset in the side, length. -/
def elemStretches (esz : Nat) : Nat → Nat → Nat → List (Nat × Nat × Nat × Nat)
  | 0, _, _ => []
  | fuel + 1, lo, hi =>
    if lo ≥ hi then []
    else
      let n := Nat.min (esz - lo % esz) (hi - lo)
      (lo / esz, lo % esz, lo, n) :: elemStretches esz fuel (lo + n) hi

/-- Index `k` of a command, read at the die L2 point; an element that goes on from the line before keeps its index, which `metas`
holds with its number. -/
def State.indexOf (s : State) (c : Cmd) (k : Nat) : EngR Nat :=
  match c.metas with
  | [k', ix] => if k' == k then .ok s ix else read
  | _ => read
where
  read : EngR Nat := (s.engRead c false (c.desc.idx.toNat + 4 * k) 4).andThen fun s bs => .ok s (bytesNat bs)

/-- The pieces of a unit of GATHER or SCATTER, and its last element with its index. -/
def State.elemPieces (s : State) (c : Cmd) : List (Nat × Nat × Nat × Nat) → EngR (List Piece × List Nat)
  | [] => .ok s ([], [])
  | (k, within, off, n) :: r =>
    (s.indexOf c k).andThen fun s ix =>
      let base := (if c.fn == fnGather then c.desc.src else c.desc.dst).toNat
      let at_ := (base + ix * c.desc.esz + within) % 2 ^ 64
      let src := if c.fn == fnGather then at_ else (c.desc.src.toNat + off) % 2 ^ 64
      let dst := if c.fn == fnGather then (c.desc.dst.toNat + off) % 2 ^ 64 else at_
      (s.engRead c false src n).andThen fun s bs =>
        (s.elemPieces c r).andThen fun s ps =>
          .ok s ({ va := dst, bytes := bs } :: ps.1, if ps.2.isEmpty then [k, ix] else ps.2)

/-- One line of the contiguous side: the destination of GATHER, the source of SCATTER. -/
def State.indexedUnit (s : State) (c : Cmd) : EngR UnitEnd :=
  let total := c.desc.rlen * c.desc.esz
  let base := (if c.fn == fnGather then c.desc.dst else c.desc.src).toNat
  let (lo, hi) := lineSpan base total c.done
  (s.elemPieces c (elemStretches c.desc.esz 128 lo hi)).andThen fun s ps =>
    (s.engWriteAll c ps.1).andThen fun s _ => .ok s ({ c with metas := ps.2 }.unitDone (hi == total))

/-! ## Any command -/

/-- One unit of a command. -/
def State.unitOf (s : State) (c : Cmd) : EngR UnitEnd :=
  if c.isStep then s.stepUnit c
  else if c.fn == fnWbld then s.wbldUnit c
  else if c.fn == fnMzero then .ok s (c.unitDone true)
  else if c.fn == fnTld then s.tldUnit c
  else if c.fn == fnTst then s.tstUnit c
  else if c.fn == fnPut then s.putUnit c
  else if CopyDesc.indexed c.fn then s.indexedUnit c
  else if c.cls == 3 then s.checkUnit c
  else s.copyUnit c

end Sys2Proof.Machine
end

