-- ==== Sys2Proof/Machine/Rows.lean ====
section
/-! DEFINITION. A core's resources and who holds them: register rows and resident slots (R10, R11, R291, R312), new
bundles and threads (R271, R275), and the ends of threads, bundles, blocks and kernels (R214, R276, R277). -/

namespace Sys2Proof.Machine

/-! ## Rows and slots -/

/-- The rows in some ranges. -/
def rowCount (l : List (Nat × Nat)) : Nat := (l.map (·.2)).sum

/-- Ranges in ascending order. -/
def rowSort (l : List (Nat × Nat)) : List (Nat × Nat) := l.inOrder fun a b => a.1 ≤ b.1

/-- The first `n` rows of some ranges, and the others. -/
def rowTake : Nat → List (Nat × Nat) → List (Nat × Nat) × List (Nat × Nat)
  | _, [] => ([], [])
  | n, (a, k) :: r =>
    if n == 0 then ([], (a, k) :: r)
    else if k ≤ n then
      let (t, u) := rowTake (n - k) r
      ((a, k) :: t, u)
    else ([(a, n)], (a + n, k - n) :: r)

/-- The rows from `at_` up to a limit that ascending ranges leave free. -/
def rowGaps (limit : Nat) : Nat → List (Nat × Nat) → List (Nat × Nat)
  | at_, [] => if at_ < limit then [(at_, limit - at_)] else []
  | at_, (a, k) :: r => (if at_ < a then [(at_, a - at_)] else []) ++ rowGaps limit (Nat.max at_ (a + k)) r

/-- What is left of a range without another. -/
def rowLess (x t : Nat × Nat) : List (Nat × Nat) :=
  [(x.1, Nat.min (x.1 + x.2) t.1 - x.1), (Nat.max x.1 (t.1 + t.2), x.1 + x.2 - Nat.max x.1 (t.1 + t.2))].filter (·.2 != 0)

/-- Some ranges without some others. -/
def rowMinus (l taken : List (Nat × Nat)) : List (Nat × Nat) := taken.foldl (fun l t => l.flatMap fun x => rowLess x t) l

/-- How many rows a bundle holds. -/
def Bundle.rowsHere (b : Bundle) : Nat := rowCount b.here

/-- The bundles of a sub-core. -/
def State.bundlesOn (s : State) (core sub : Nat) : List Bundle :=
  s.bundles.filter fun b => (s.bk b.blk).core == core && b.sub == sub

/-- The rows of a sub-core that no bundle holds, of its 4,096 (R11). -/
def State.rowsFree (s : State) (core sub : Nat) : Nat :=
  4096 - ((s.bundlesOn core sub).map (·.rowsHere)).sum

/-- The rows that no bundle of a sub-core holds, lowest first. -/
def State.freeRows (s : State) (core sub : Nat) : List (Nat × Nat) :=
  rowGaps 4096 0 (rowSort ((s.bundlesOn core sub).flatMap (·.here)))

/-- Whether a bundle keeps its resident slot: one evicted whole does not (R314). -/
def State.hasSlot (s : State) (b : Bundle) : Bool := b.rowsHere != 0 || (s.bk b.blk).scrHere

/-- The slots in use on a sub-core. -/
def State.slotsOn (s : State) (core sub : Nat) : List Nat :=
  ((s.bundlesOn core sub).filter s.hasSlot).map (·.slot)

/-- The lowest free one of a sub-core's 64 slots. -/
def State.freeSlot (s : State) (core sub : Nat) : Option Nat :=
  (List.range 64).find? fun i => !(s.slotsOn core sub).contains i

/-- The sub-core with the fewest resident bundles, the lower-numbered on a tie (R274, R308). -/
def State.leastSub (s : State) (core : Nat) : Nat :=
  let n (k : Nat) : Nat := (s.slotsOn core k).length
  [1, 2, 3].foldl (fun m k => if n k < n m then k else m) 0

/-- The lowest `n` rows that some bundles hold taken from them; their contents are kept with the bundles, in their spill areas
(R312). The answer names the rows. -/
def State.takeRows (s : State) (bs : List Bundle) (n : Nat) : State × List (Nat × Nat) :=
  let t := (rowTake n (rowSort (bs.flatMap (·.here)))).1
  ({ s with bundles := s.bundles.map fun x =>
      if bs.any fun b => b.blk == x.blk && b.idx == x.idx then { x with here := rowMinus x.here t } else x }, t)

/-- Rows taken from RALLOC requesters in order (R291's third source): each request grows by the rows it lost. -/
def State.lendRows (s : State) : List Bundle → Nat → State × List (Nat × Nat)
  | [], _ => (s, [])
  | b :: r, n =>
    let (s, t) := s.takeRows [b] n
    let (s, u) := (s.modBu b.blk b.idx fun x => { x with lent := x.lent + rowCount t }).lendRows r (n - rowCount t)
    (s, t ++ u)

/-- When a VD was last halted on the quad of a core. -/
def State.haltOn (s : State) (core vd : Nat) : Nat :=
  (assocGet vd (s.quads.getD (core / 4) {}).halts).getD 0

/-- Some VDs, the one halted longest ago on a core's quad first. -/
def State.haltOrder (s : State) (core : Nat) (vds : List Nat) : List Nat :=
  vds.eraseDups.inOrder fun a b => s.haltOn core a ≤ s.haltOn core b

/-- The bundles of a sub-core whose rows a VD can claim: those that halted blocks of other VDs hold. -/
def State.claimRowsOf (s : State) (core sub vd : Nat) : List Bundle :=
  (s.bundlesOn core sub).filter fun b => (s.bk b.blk).halted && (s.bk b.blk).vd != vd && b.rowsHere != 0

/-- `n` rows of the bundles of some VDs, VD by VD in order, the lowest row of each first (R312). -/
def State.spillRows (s : State) (bs : List Bundle) : List Nat → Nat → State × List (Nat × Nat)
  | [], _ => (s, [])
  | v :: r, n =>
    let (s', t) := s.takeRows (bs.filter fun b => (s.bk b.blk).vd == v) n
    let (s', u) := s'.spillRows bs r (n - rowCount t)
    (s', t ++ u)

/-- `need` rows of a sub-core for a claimant of a VD: free rows, then rows that halted bundles of other VDs hold, from the VD halted
longest ago first, its lowest row first (R291, R312); none when they do not suffice. Of the free rows the lowest are granted (DESIGN
CHOICE, log entry 17). -/
def State.claimRows (s : State) (core sub need vd : Nat) : Option (State × List (Nat × Nat)) :=
  let (t, _) := rowTake need (s.freeRows core sub)
  if need ≤ s.rowsFree core sub then some (s, t)
  else
    let bs := s.claimRowsOf core sub vd
    let short := need - s.rowsFree core sub
    if (bs.map (·.rowsHere)).sum < short then none
    else
      let (s, u) := s.spillRows bs (s.haltOrder core (bs.map fun b => (s.bk b.blk).vd)) short
      some (s, t ++ u)

/-! ## New bundles and threads -/

/-- A bundle's rows at the grant: zeros (R27). -/
def zeroRows (n : Nat) : List (List Word) := List.replicate 32 (List.replicate n 0)

/-- A new bundle of a block on a sub-core, with its reset values (R39), on the lowest rows unless others are named; it enters the
active set by an exchange (R281). -/
def freshBundle (blk idx sub slot alloc : Nat) : Bundle :=
  { blk := blk, idx := idx, sub := sub, slot := slot, alloc := alloc, rf := zeroRows alloc
    aff := List.replicate 15 (0, 0), active := false, here := [(0, alloc)] }

/-- A thread with the reset values of R39, its region begun at its entry (R407). TRAPVEC has no bits [5:0]. -/
def freshThread (ref : TRef) (entry sp slo trapVec : DWord) : Thread :=
  ({ ref := ref, pc := entry, sp := sp, slo := slo, shi := sp, trapVec := trapVec &&& ~~~ 63
     rngs := BitVec.ofNat 32 (threadNo ref * 65537 + 1) } : Thread).beginRegion

/-! ## Ends -/

/-- The fault-queue entry of a fault that a bundle still holds when its last thread has exited (R258, R277). -/
def State.postHeld (s : State) (b : Bundle) : State :=
  let k := s.bk b.blk
  let ke := s.ke k.kernel
  b.held.foldl (fun s h =>
    s.post k.vd { kind := 3, cause := h.cause, val := h.val.toNat, queue := ke.q, pkt := ke.pkt, block := k.n }) s

/-- A block ends when its bundles have ended and its bins are empty (R277): it performs the release steps at SYS (R214),
and its scratchpad is released. -/
def State.endBlock (s : State) (blk : Nat) : State :=
  let k := s.bk blk
  if !s.hasBk blk || (s.bundles.any fun b => b.blk == blk) || ((s.co k.core).bins.any fun b => b.blk == blk) then s
  else
    (((s.releaseBlock k).dropBlock blk).checkBars).endKernelIfDone k.kernel

/-- A bundle whose threads have all exited ends; once none of its commands is in flight, its rows, slot and index are
free (R277). -/
def State.endBundle (s : State) (blk idx : Nat) : State :=
  if (s.threadsOf blk idx).any (fun x => x.park != .exited) || !(s.bundles.any fun b => b.blk == blk && b.idx == idx) then s
  else if s.cmds.any fun c => c.blk == blk && c.bun == idx && c.inFlight then
    s.modBu blk idx fun b => { b with ended := true }
  else
    let s := s.postHeld (s.bu blk idx)
    State.endBlock { s with
      bundles := s.bundles.filter fun b => !(b.blk == blk && b.idx == idx)
      threads := s.threads.filter fun x => !(x.ref.blk == blk && x.ref.bun == idx)
      cmds := s.cmds.filter fun c => !(c.blk == blk && c.bun == idx) } blk

/-- A thread ends (R276): its lane counts as exited for barriers and rounds. -/
def State.endThread (s : State) (t : TRef) : State :=
  ((s.modTh t fun x => { x with park := .exited, monitor := none, pending := [] }).checkBars).endBundle t.blk t.bun

end Sys2Proof.Machine
end

