-- ==== Sys2Proof/Machine/EngRun.lean ====
section
/-! DEFINITION. The steps of an engine's life: starting a command (R148, R165, R252, R396), finishing a unit (R164),
completing (R158, R160, R161, R178, R181 to R183, R186), faulting (R166 to R168), resuming and reporting (R257). -/

namespace Sys2Proof.Machine

/-! ## Starting -/

/-- Whether a command's work goes on: its block runs, or a reset of its VD waits for the unit in progress (R430); a Quay copy always
does but for a VD that has no DMA (R376). -/
def State.cmdRuns (s : State) (c : Cmd) : Bool :=
  match c.eng with
  | .quay _ => !s.noDma c.vd
  | _ => s.running c.blk || (s.vd c.vd).draining

/-- Whether a kill-and-drain, or a reset's, in progress discards a command at its next boundary (R428, R430). -/
def State.killed (s : State) (c : Cmd) : Bool := (s.engCtl c.eng).targets c || (s.vd c.vd).draining

/-- Whether a command is being worked on. -/
def Cmd.busy (c : Cmd) : Bool :=
  match c.st with
  | .running => true
  | .waitFlit => true
  | .waitHost _ => true
  | _ => false

/-- Whether a command's unit has begun and is not finished (R164). -/
def Cmd.midUnit (c : Cmd) : Bool :=
  match c.st with
  | .running => c.left.isSome && c.fault.isNone && !c.held
  | .waitFlit => true
  | .waitHost _ => true
  | _ => false

def Cmd.isSetAside (c : Cmd) : Bool :=
  match c.st with
  | .setAside _ => true
  | _ => false

/-- Whether a queued command may start: no set-aside command of its bundle stands before it, and on an engine that runs
several, no unfinished command of its bundle and class (R166, R252). -/
def State.mayStart (s : State) (c : Cmd) : Bool :=
  s.cmdRuns c && !((s.cmds.takeWhile fun x => x.id != c.id).any fun x =>
    x.eng == c.eng && x.blk == c.blk && x.bun == c.bun && x.vd == c.vd &&
      (x.isSetAside || (c.cls != 1 && x.cls == c.cls && x.inFlight)))

/-- How many commands an engine works on at once (R148, R252). -/
def engWidth : EngId → Nat
  | .matrix _ _ => 1
  | _ => 4

/-- The next command of an engine, in issue order. -/
def State.nextCmd (s : State) (e : EngId) : Option Cmd :=
  if (s.engCtl e).state != 0 || (s.cmds.countP fun c => c.eng == e && c.busy && s.cmdRuns c) ≥ engWidth e then none
  else s.cmds.find? fun c => c.eng == e && c.st == .queued && s.mayStart c

/-- The entry of a VD's rank table (R397). -/
def State.rankEntry (s : State) (vd rank : Nat) : Option Rank :=
  (s.parts.getD (s.vd vd).part {}).ranks.find? fun r => r.v && r.rank == rank

/-- Whether the link key of a VD's partition is loaded and usable (R396). -/
def State.linkLoaded (s : State) (vd : Nat) : Bool :=
  let p := s.parts.getD (s.vd vd).part {}
  p.linkKey.isSome && p.linkUsable

/-- What starting finds: the rank, then the link key of a fabric command (R396, R397). -/
def State.startFault (s : State) (c : Cmd) : Option CmdFault :=
  if c.cls != 2 then none
  else if (s.rankEntry c.vd c.desc.rank).isNone then some (c.errFault subRank)
  else if !s.linkLoaded c.vd then some (c.errFault subLink)
  else none

/-- ENGINE_COMMAND_START (R148, R165, R252): a matrix command of another VD claims the weight buffer first. -/
def execEngineCommandStart (e : EngId) (s : State) : Host.Outcome State Fault Refusal :=
  .next (match s.nextCmd e with
    | none => s
    | some c =>
      let s := match e with
        | .matrix core sub => s.claimWbuf core sub c.vd
        | _ => s
      s.modCmd c.id fun x => { x with st := .running, fault := orElse x.fault (s.startFault c) })

/-! ## Reporting (R257) -/

/-- Whether a command has ended. -/
def Cmd.ended (c : Cmd) : Bool := c.st == .done || c.st == .faulted

/-- The first command of a bundle and class in issue order. -/
def State.oldest (s : State) (blk bun cls : Nat) : Option Cmd := s.cmds.find? (·.outstanding blk bun cls)

/-- Ended commands reported in issue order; one that faulted without a barrier leaves its fault with the bundle. -/
def State.reportLoop (s : State) (blk bun cls : Nat) : Nat → State
  | 0 => s
  | fuel + 1 =>
    match s.oldest blk bun cls with
    | none => s
    | some c =>
      if !c.ended then s
      else
        let s : State := { s with cmds := s.cmds.filter fun x => x.id != c.id }
        let s := match c.fault with
          | some f =>
            if c.bar.isNone then
              let h : Held := { cls := cls, cause := f.cause, val := f.val, cmd := c.id }
              s.modBu blk bun fun b => { b with held := b.held ++ [h] }
            else s
          | none => s
        s.reportLoop blk bun cls fuel

/-- Reports, then the waiters of the class, then the end of a bundle whose threads have exited (R257, R258, R277). -/
def State.report (s : State) (blk bun cls : Nat) : State :=
  let s := (s.reportLoop blk bun cls s.cmds.length).wakeWaitc blk bun cls
  if (s.bu blk bun).ended then s.endBundle blk bun else s

/-- A Quay copy leaves its engine, and its packet completes (R309). -/
def State.quayDone (s : State) (c : Cmd) : State :=
  ({ s with cmds := s.cmds.filter fun x => x.id != c.id } : State).push (.kernelCompletion c.acct)

/-- A command that has ended counts as completed. -/
def State.endCmd (s : State) (c : Cmd) (st : CmdState) : State :=
  match c.eng with
  | .quay _ => s.quayDone c
  | _ => (s.modCmd c.id fun x => { x with st := st }).report c.blk c.bun c.cls

/-! ## Units (R164) -/

/-- A command discarded by a kill (R428): it signals no barrier. Those behind it in its class are reported once they have ended,
and so does a bundle whose threads have exited (R257, R277), but for those that a reset drops with their VD (R430). -/
def State.discard (s : State) (id : Nat) : State :=
  let c := s.cmd id
  let s : State := { s with cmds := s.cmds.filter fun c => c.id != id }
  match c.eng with
  | .quay _ | .scrub => s
  | _ => if (s.vd c.vd).draining then s else s.report c.blk c.bun c.cls

/-- A fault noted; ENGINE_FAULT resolves it. -/
def State.noteFault (s : State) (c : Cmd) (f : CmdFault) : State :=
  if s.killed c then s.discard c.id else s.modCmd c.id fun x => { x with fault := some f }

/-- One unit of a running command. `held` then says that no unit is left. -/
def State.doUnit (s : State) (id : Nat) : State :=
  let c := s.cmd id
  if !s.hasCmd id || c.st != .running || c.fault.isSome || c.held || !s.cmdRuns c then s
  else match s.unitOf c with
    | .wait s => s
    | .stop s f => s.noteFault c f
    | .ok s e => if s.killed c then s.discard id else s.modCmd id fun _ => { e.cmd with held := e.last, left := none }

/-- ENGINE_UNIT_COMPLETE (R164). -/
def execEngineUnitComplete (id : Nat) (s : State) : Host.Outcome State Fault Refusal := .next (s.doUnit id)

/-! ## Completion -/

/-- The bundle of a command changed by its results. -/
def State.cmdBu (s : State) (c : Cmd) (f : Bundle → Bundle) : State := s.modBu c.blk c.bun f

/-- The result of a product check (R181, R182): the rows and columns that fail, and how many checks were exempt. -/
structure Verdict where
  fr : List Nat
  fc : List Nat
  exempt : Nat
  deriving DecidableEq, Repr

/-- The judgement of one row and of one column (R181). -/
def Cmd.judgeRow (c : Cmd) (ar : List Nat) (i : Nat) : Judged :=
  judge c.acc c.done (c.pr.getD i 0) (c.mr.getD i 0) (ar.getD i 0)
def Cmd.judgeCol (c : Cmd) (ac : List Nat) (j : Nat) : Judged :=
  judge c.acc c.done (c.pc.getD j 0) (c.mc.getD j 0) (ac.getD j 0)

/-- Every row and column judged. -/
def Cmd.verdict (c : Cmd) (ar ac : List Nat) : Verdict :=
  { fr := (List.range c.m).filter fun i => c.judgeRow ar i == .fail
    fc := (List.range c.n).filter fun j => c.judgeCol ac j == .fail
    exempt := ((List.range c.m).filter fun i => c.judgeRow ar i == .exempt).length +
      ((List.range c.n).filter fun j => c.judgeCol ac j == .exempt).length }

/-- The element that R182 corrects, if the residues agree. -/
def Cmd.fixed (c : Cmd) (ar ac : List Nat) (i j : Nat) : Option Nat :=
  correct c.acc c.modq.toNat (c.c.getD (i * c.n + j) 0) (c.pr.getD i 0) (ar.getD i 0) (c.pc.getD j 0) (ac.getD j 0)
    (ckFmt c.acc) (boundOf c.acc c.done (c.mr.getD i 0)) (boundOf c.acc c.done (c.mc.getD j 0))

/-- The correction of a product: C with one element replaced, when row and column then pass (R182). -/
def Cmd.tryFix (c : Cmd) (v : Verdict) (ar ac : List Nat) : Option (List Nat) :=
  match v.fr, v.fc with
  | [i], [j] =>
    match c.fixed ar ac i j with
    | none => none
    | some x =>
      let els := c.c.set (i * c.n + j) x
      let q := c.modq.toNat
      let ar' := rowSums c.acc q c.m c.n els
      let ac' := colSums c.acc q c.m c.n els
      if c.judgeRow ar' i == .fail || c.judgeCol ac' j == .fail then none else some els
  | _, _ => none

/-- C written, and every checksum of an attached sidecar stale (R176). -/
def State.writeUnchecked (s : State) (c : Cmd) : State :=
  s.cmdBu c fun b =>
    let b := b.writeTile c.viewAcc c.c
    if c.sidecar then b.setRegs 0 (viewBase c.viewCk + 8) (natWords 4 (b.ckStale c.viewCk ||| allStale c.viewCk)) else b

/-- C, the sidecar and the status word written by a checked command (R183): FAIL, CORR and NEXEMPT, and CORRCNT raised by a correction;
its other fields stay as they are at completion (log entry 22). -/
def State.writeChecked (s : State) (c : Cmd) (els ar ac : List Nat) (stale : Nat) (fail corr : Bool) (ex : Nat) : State :=
  s.cmdBu c fun b =>
    ((((b.writeTile c.viewAcc els).putSums c.viewCk ar ac stale).putStatus c.viewCk
      (statusAfter (b.ckStatus c.viewCk) fail corr ex)).zeroReserved c.viewCk)

/-- The completion of a matrix step (R158, R181 to R183). -/
def State.stepEnd (s : State) (c : Cmd) : EngR Nat :=
  if !c.chk then .ok (s.writeUnchecked c) 0
  else
    let q := c.modq.toNat
    let ar := rowSums c.acc q c.m c.n c.c
    let ac := colSums c.acc q c.m c.n c.c
    let v := c.verdict ar ac
    if v.fr.isEmpty && v.fc.isEmpty then .ok (s.writeChecked c c.c ar ac 0 false false v.exempt) 0
    else match c.tryFix v ar ac with
      | some els =>
        .ok ((s.writeChecked c els (rowSums c.acc q c.m c.n els) (colSums c.acc q c.m c.n els) 0 false true
          v.exempt).countError c.vd 4) 0
      | none =>
        .stop (s.writeChecked c c.c ar ac (staleBits v.fr v.fc) true false v.exempt) (c.ckFault kindProduct v.fr v.fc)

/-- MZERO's completion (R160, R176); the sidecar's reserved bytes stay (log entry 50). -/
def State.mzeroEnd (s : State) (c : Cmd) : State :=
  s.cmdBu c fun b =>
    let b := b.writeTile c.viewAcc (List.replicate (c.m * c.n) 0)
    if c.sidecar then b.putSums c.viewCk [] [] 0 else b

/-- WBLD's completion (R156, R178): the checksums are read after the payload, and the header is written last (log entry 50), with
MAGIC 0 after a mismatch. A payload that has arrived whole and does not agree with its own length (R155) ends the command with
BHDR. -/
def State.wbldEnd (s : State) (c : Cmd) : EngR Nat :=
  match c.eng with
  | .matrix core sub =>
    let h := readHdr c.img
    let els := (imageEls h c.img).getD []
    let off := 64 * c.doff
    if (imageEls h c.img).isNone then .stop s (c.errFault subBhdr)
    else
      (s.engRead c false (c.addr + 64 + h.plen) (h.ilen - 64 - h.plen)).andThen fun s sums =>
        let img := c.img ++ sums
        let (rs, cs) := imageDiff h img els
        if rs.isEmpty && cs.isEmpty then
          .ok ((s.wbufWrite core sub (off + 64 + h.plen) (freshTail h img els)).wbufWrite core sub off (freshHdr h 0x544B)) 0
        else .stop (s.wbufWrite core sub off (h.bytes 0)) (c.ckFault kindTransit rs cs)
  | _ => .ok s 0

/-- TLD's completion (R161, R176, R178). The sums of an n64 image are taken modulo the header's MODQ, those written into the sidecar in
place of stale ones too (DESIGN CHOICE between R172 and R174, log entry 58). -/
def State.tldEnd (s : State) (c : Cmd) : EngR Nat :=
  let h := readHdr c.img
  let els := (imageEls h c.img).getD []
  let (rs, cs) := imageDiff h c.img els
  if !(rs.isEmpty && cs.isEmpty) then .stop s (c.ckFault kindTransit rs cs)
  else
    .ok (s.cmdBu c fun b =>
      let b := b.writeTile c.tview els
      if c.onSidecar then
        let st := b.ckStatus c.viewCk
        ((b.putSums c.viewCk (refreshed (imageRs h c.img) (computedRs h els) h.staleR)
          (refreshed (imageCs h c.img) (computedCs h els) h.staleC) 0).putStatus c.viewCk
            (st / 2 * 2 + if h.mode then 1 else 0)).zeroReserved c.viewCk
      else b) h.ilen

/-- The checksums that a check command works with: stored, computed, and the stale places. -/
structure CheckSet where
  h : TileHdr
  els : List Nat
  rs : List Nat
  cs : List Nat
  crs : List Nat
  ccs : List Nat
  deriving DecidableEq, Repr

def Cmd.checkSet (c : Cmd) : CheckSet :=
  if c.tgtRegs then
    let h : TileHdr :=
      { fmt := c.acc, rows := c.m, cols := c.n, mode := c.mode, comp := 0, plen := 0, stale := c.stale, modq := c.modq.toNat }
    { h := h, els := c.c, rs := c.pr, cs := c.pc, crs := computedRs h c.c, ccs := computedCs h c.c }
  else
    let h := readHdr c.img
    { h := h, els := c.c, rs := imageRs h c.img, cs := imageCs h c.img, crs := computedRs h c.c, ccs := computedCs h c.c }

/-- The rows and columns that a check finds different. -/
def CheckSet.diff (k : CheckSet) : List Nat × List Nat :=
  (mismatches k.rs k.crs k.h.staleR, mismatches k.cs k.ccs k.h.staleC)

/-- The tolerance of TFIX (R186): 2^-p × (|stored| + |computed|). -/
def tfixBound (f : Fmt) (a b : Nat) : FVal :=
  match sumV [fvAbs (unpack f a), fvAbs (unpack f b)] with
  | .fin sg m e => .fin sg m (e - (if f == .f64 then 53 else 24))
  | v => v

/-- The element that TFIX corrects, with the elements as they then stand (R186). -/
def CheckSet.fix (k : CheckSet) (i j : Nat) : Option (Nat × List Nat) :=
  let code := k.h.fmt
  let f := ckFmt code
  let at_ := i * k.h.cols + j
  match correct code k.h.modq (k.els.getD at_ 0) (k.rs.getD i 0) (k.crs.getD i 0) (k.cs.getD j 0) (k.ccs.getD j 0) f
      (tfixBound f (k.rs.getD i 0) (k.crs.getD i 0)) (tfixBound f (k.cs.getD j 0) (k.ccs.getD j 0)) with
  | none => none
  | some x =>
    let els := k.els.set at_ x
    if checksum code k.h.modq (rowOf k.h.cols i els) == k.rs.getD i 0 &&
        checksum code k.h.modq (colOf k.h.rows k.h.cols j els) == k.cs.getD j 0 then some (x, els)
    else none

/-- A list cut into pieces of one line each, from an address on. -/
def linePieces : Nat → Nat → List Byte → List Piece
  | 0, _, _ => []
  | fuel + 1, va, l =>
    if l.isEmpty then []
    else
      let n := 128 - va % 128
      { va := va, bytes := l.take n } :: linePieces fuel (va + n) (l.drop n)

/-- TSUM's completion (R186). -/
def State.tsumEnd (s : State) (c : Cmd) (k : CheckSet) : EngR Nat :=
  if c.tgtRegs then .ok (s.cmdBu c fun b => b.putSums c.viewCk k.crs k.ccs 0) 0
  else
    let off := 64 + k.h.plen
    let tail := sumBytes k.h.outFmt k.crs k.ccs
    (s.engWriteAll c (linePieces (tail.length / 128 + 2) (c.addr + off) tail ++
      [{ va := c.addr + 16, bytes := List.replicate 16 0 }])).andThen fun s _ => .ok s 0

/-- The bytes that hold an element of a raw image, and where they lie (R187). -/
def elemPiece (c : Cmd) (k : CheckSet) (at_ : Nat) (els : List Nat) : Piece :=
  if k.h.fmt == 0 then
    let b := at_ / 2
    { va := c.addr + 64 + b, bytes := [BitVec.ofNat 8 (els.getD (2 * b) 0 + 16 * els.getD (2 * b + 1) 0)] }
  else
    let e := elemNibbles k.h.fmt / 2
    { va := c.addr + 64 + at_ * e, bytes := natBytes e (els.getD at_ 0) }

/-- TFIX's completion once it has found its element: that element alone, CORR and the counters (R186); FAIL stays (log entry
50). CORR and CORRCNT change the status word as it stands at completion (DEDUCED, log entry 22). -/
def State.tfixWrite (s : State) (c : Cmd) (k : CheckSet) (at_ : Nat) (els : List Nat) : EngR Nat :=
  if c.tgtRegs then
    .ok ((s.cmdBu c fun b =>
      let st := b.ckStatus c.viewCk
      (b.writeTile c.viewAcc ((b.readTile c.viewAcc).set at_ (els.getD at_ 0))).putStatus c.viewCk
        (st / 2 ^ 32 * 2 ^ 32 + 2 ^ 16 * Nat.min (bitsOf st 31 16 + 1) 0xFFFF + (st % 2 ^ 16 ||| 2))).countError c.vd 4) 0
  else (s.engWriteAll c [elemPiece c k at_ els]).andThen fun s _ => .ok (s.countError c.vd 4) 0

/-- The completion of a check command (R186). -/
def State.checkEnd (s : State) (c : Cmd) : EngR Nat :=
  let k := c.checkSet
  if c.fn == fnTsum then s.tsumEnd c k
  else
    let (rs, cs) := k.diff
    if rs.isEmpty && cs.isEmpty then .ok s 0
    else if c.fn == fnTchk then .stop s (c.ckFault kindVerify rs cs)
    else match rs, cs with
      | [i], [j] => match k.fix i j with
        | some (_, els) => s.tfixWrite c k (i * k.h.cols + j) els
        | none => .stop s (c.ckFault kindVerify rs cs)
      | _, _ => .stop s (c.ckFault kindVerify rs cs)

/-- The completion of a copy: a checked tile that did not compare ends in a fault (R255). -/
def State.copyEnd (s : State) (c : Cmd) : EngR Nat :=
  let n := c.desc.rlen * (if CopyDesc.indexed c.fn then c.desc.esz else c.desc.nrow)
  if c.desc.ckmode == 1 then
    let h := readHdr c.img
    let (rs, cs) := imageDiff h c.img ((imageEls h c.img).getD [])
    if rs.isEmpty && cs.isEmpty then .ok s n else .stop s (c.ckFault kindTransit rs cs)
  else .ok s n

/-- What a command does once its last unit is done: its results, and the bytes that it counts at its barrier. -/
def State.completion (s : State) (c : Cmd) : EngR Nat :=
  if c.isStep then s.stepEnd c
  else if c.fn == fnWbld then s.wbldEnd c
  else if c.fn == fnMzero then .ok (s.mzeroEnd c) 0
  else if c.fn == fnTld then s.tldEnd c
  else if c.fn == fnTst then .ok s c.img.length
  else if c.cls == 3 then s.checkEnd c
  else s.copyEnd c

/-- A notice about a command: its packet and its block. -/
def State.cmdNotice (s : State) (c : Cmd) (n : Notice) : Notice :=
  match c.eng with
  | .quay _ => { n with queue := (s.ke c.acct).q, pkt := (s.ke c.acct).pkt }
  | _ =>
    let b := s.bk c.blk
    { n with queue := (s.ke b.kernel).q, pkt := (s.ke b.kernel).pkt, block := b.n }

/-- A command's update of its completion barrier: a poisoned one is consumed, and the block killed (R423). -/
def State.onBarrier (s : State) (c : Cmd) (f : State → Nat → State) : State :=
  match c.bar with
  | none => s
  | some off =>
    if s.scrPoisoned c.blk off 16 then s.killBlock c.blk (s.cmdNotice c { kind := 2, cause := causeUe }) else f s off

/-- ENGINE_COMMAND_COMPLETE (R158): results, the arrival at the completion barrier, the report. -/
def execEngineCommandComplete (id : Nat) (s : State) : Host.Outcome State Fault Refusal :=
  let c := s.cmd id
  .next (if !s.hasCmd id || c.st != .running || c.fault.isSome || !c.held || !s.cmdRuns c then s
    else match s.completion c with
      | .wait s => s
      | .stop s f => s.noteFault c f
      | .ok s n =>
        let s := s.onBarrier c fun s off => s.engineArrive c.blk off n
        if s.hasCmd id then s.endCmd c .done else s)

/-! ## Faults (R166 to R168) -/

/-- A barrier completed in error by a fault or a cancellation (R260): an overwritten one reports BARRIER. -/
def State.barError (s : State) (blk off cause : Nat) : State :=
  s.completeBar blk off true (if barBad (s.scrRead blk off 16) then causeBarrier else cause)

/-- The later commands of a faulted command's bundle in the same queue, cancelled (R167). -/
def State.cancelBehind (s : State) (c : Cmd) : State :=
  let victims := (s.cmds.dropWhile fun x => x.id != c.id).filter fun x =>
    x.id != c.id && x.eng == c.eng && x.blk == c.blk && x.bun == c.bun && x.st == .queued
  victims.foldl (fun s x =>
    let s := s.modCmd x.id fun y => { y with st := .done }
    s.onBarrier x fun s off => s.barError x.blk off causeEngineError) s

/-- The fault row of R166. -/
def State.faultRow (s : State) (c : Cmd) (f : CmdFault) : State :=
  let s := if c.isStep && f.cause != causeChecksum then s.writeUnchecked c else s
  let s := if f.cause == causeChecksum then s.countError c.vd 5 else s
  let s := (s.onBarrier c fun s off => s.barError c.blk off f.cause).cancelBehind c
  let classes := ((s.cmds.filter fun x => x.blk == c.blk && x.bun == c.bun && x.eng == c.eng).map (·.cls)).eraseDups
  let s := if s.hasCmd c.id then s.endCmd c .faulted else s
  (classes.filter (· != c.cls)).foldl (fun s k => s.report c.blk c.bun k) s

/-- A translation fault of a command under device-managed paging: it is set aside at its page's record. -/
def State.setAsideCmd (s : State) (c : Cmd) (f : CmdFault) (src : Nat) : State :=
  let (s, fid) := s.attach c.vd f.va.toNat f.level f.need src (.cmd c.id) (s.cmdNotice c)
  s.modCmd c.id fun x => { x with st := .setAside fid, left := none }

/-- A fault of a Quay copy: a COPYFAULT notice, and the packet completes (R309). -/
def State.quayFault (s : State) (c : Cmd) (f : CmdFault) : State :=
  (s.post c.vd (s.cmdNotice c { kind := 0x0B, cause := f.cause, val := f.va.toNat })).quayDone c

/-- Whether a fault waits for its page. A target package's fault (need 0) never does. -/
def State.waitsPage (s : State) (c : Cmd) (f : CmdFault) : Bool :=
  f.cause == causePage && f.need != 0 && (s.vd c.vd).dpage

/-- A fault resolved (R166): set aside for its page, a killed block, or the fault row. -/
def State.resolveFault (s : State) (c : Cmd) (f : CmdFault) : State :=
  match c.eng with
  | .quay _ => if s.waitsPage c f then s.setAsideCmd c f 4 else s.quayFault c f
  | _ =>
    if s.waitsPage c f then s.setAsideCmd c f 2
    else if f.cause == causeUe then
      s.killBlock c.blk (s.cmdNotice c { kind := 2, cause := causeUe, val := f.va.toNat })
    else
      let s := if f.cause == causePage && f.need != 0 then
          s.post c.vd (s.cmdNotice c (pageNotice 0 (f.va.toNat / 65536) f.level f.need 2 0))
        else s
      s.faultRow c f

/-- ENGINE_FAULT (R166). -/
def execEngineFault (id : Nat) (s : State) : Host.Outcome State Fault Refusal :=
  let c := s.cmd id
  .next (match c.fault with
    | some f => if s.hasCmd id && c.st == .running && s.cmdRuns c then s.resolveFault c f else s
    | none => s)

/-- Whether a fault record still lists a command. -/
def State.cmdListed (s : State) (c : Cmd) : Bool :=
  (s.vd c.vd).faults.any fun f => f.parties.contains (.cmd c.id)

/-- ENGINE_COMMAND_RESUME (R166): a command whose page is there waits for its engine again, at its tidemark. -/
def execEngineCommandResume (id : Nat) (s : State) : Host.Outcome State Fault Refusal :=
  let c := s.cmd id
  .next (if s.hasCmd id && c.isSetAside && !s.cmdListed c then s.modCmd id fun x => { x with st := .queued, fault := none } else s)

/-! ## Kill-and-drain (R428, R429, R430) -/

/-- The time on an engine's own clock (R22). -/
def State.engNow (s : State) (e : EngId) : Nat :=
  match e with
  | .matrix core _ => s.cycles (dieOfCore core)
  | .copy core => s.cycles (dieOfCore core)
  | .fabric core => s.cycles (dieOfCore core)
  | .quay die => s.cycles die
  | .scrub => s.clk.svc

/-- Some commands discarded, with their places in the fault records. -/
def State.discardAll (s : State) (l : List Cmd) : State :=
  let gone (p : Party) : Bool := match p with
    | .cmd c => l.any fun x => x.id == c
    | _ => false
  l.foldl (fun s c => s.discard c.id) { s with vds := s.vds.map (·.detach gone) }

/-- Whether an engine holds a command of its target. -/
def State.holdsTarget (s : State) (e : EngId) : Bool := s.cmds.any fun c => c.eng == e && (s.engCtl e).targets c

/-- The limit of a drain (R429). -/
def drainLimit : Nat := 1048576

/-- The engines of a die's cores, its Quay and the scrub engine begin to drain for a reset of a VD where they hold a unit of it in
progress; every other command of the VD is discarded (R428, R430). -/
def State.drainVd (s : State) (vd : Nat) : State :=
  let s := s.discardAll (s.cmds.filter fun c => c.vd == vd && !c.midUnit)
  (((s.cmds.filter fun c => c.vd == vd).map (·.eng)).eraseDups).foldl (fun s e =>
    let x := s.engCtl e
    if x.state == 0 then s.setEngCtl { x with state := 1, every := false, target := vd, since := s.engNow e, reset := true } else s) s

/-- The engines that a reset of a VD has drained go on. -/
def State.drainedVd (s : State) (vd : Nat) : State :=
  { s with engs := s.engs.map fun x =>
      if x.state == 1 && x.reset && x.target == vd then { x with state := 0, reset := false } else x }

end Sys2Proof.Machine
end

