-- ==== Sys2Proof/Machine/Place.lean ====
section
/-! DEFINITION. Placing blocks and gangs (R88, R90, R270, R271, R307, R308), with the claims of R312 and the evictions of
R314, and the queues of a scratchpad image (R264). -/

namespace Sys2Proof.Machine

/-! ## The objects of a scratchpad image (R264) -/

/-- The offsets of the queues found, as (number, offset), reading objects from an offset until `need` are found; none when
the image ends before or an object is malformed. -/
def scanImage (img : List Byte) : Nat → Nat → Nat → Option (List (Nat × Nat))
  | _, _, 0 => some []
  | 0, _, _ => none
  | fuel + 1, off, need + 1 =>
    if off + 16 > img.length then none
    else
      let b (k : Nat) : Nat := (img.getD (off + k) 0).toNat
      if b 7 < 0x80 then scanImage img fuel (off + 16) (need + 1)
      else
        let p := (b 0 + 7) / 8 * 8
        let len := (48 + p + 8 * b 0 + 15) / 16 * 16
        if b 0 == 0 || b 0 > 128 || b 2 ≥ b 0 || b 3 > b 0 || off + len > img.length ||
            [4, 5, 6, 8, 9, 10, 11, 12, 13, 14, 15].any (fun k => b k != 0) then none
        else (scanImage img fuel (off + len) need).map fun r => (b 7 - 0x80, off) :: r

/-- The queues' offsets by number; none unless the numbers are 0 to NQUEUE − 1, each once. -/
def queueOffsets (img : List Byte) (nq : Nat) : Option (List Nat) :=
  match scanImage img (img.length / 16 + 1) 0 nq with
  | none => none
  | some l =>
    let offs := (List.range nq).map fun k => assocGet k l
    if offs.all (·.isSome) then some (offs.map fun o => o.getD 0) else none

/-! ## Residence and claims -/

/-- The bundles of a block. -/
def State.bundlesOf (s : State) (blk : Nat) : List Bundle := s.bundles.filter fun b => b.blk == blk

/-- Whether a block still holds something of its core (R13, R314). -/
def State.resident (s : State) (b : Block) : Bool := b.scrHere || (s.bundlesOf b.id).any fun x => x.rowsHere != 0

def State.residentOn (s : State) (core : Nat) : List Block := s.blocks.filter fun b => b.core == core && s.resident b

/-- A block evicted whole: its contents are in its spill area (R312, R314). -/
def State.evict (s : State) (blk : Nat) : State :=
  { s.modBk blk (fun b => { b with scrHere := false }) with
    bundles := s.bundles.map fun x => if x.blk == blk then { x with here := [] } else x }

/-- Halted blocks of other VDs, the VD halted longest ago first. -/
def State.claimable (s : State) (core vd : Nat) : List Block :=
  ((s.residentOn core).filter fun b => b.halted && b.vd != vd).inOrder fun a b => s.haltOn core a.vd ≤ s.haltOn core b.vd

/-- A core opened for a split (R13, R314). -/
def State.openCore (s : State) (core split vd : Nat) : Option State :=
  let res := s.residentOn core
  if (s.co core).split == split then some s
  else if res.all fun b => b.halted && b.vd != vd then
    some ((res.foldl (fun s b => s.evict b.id) s).modCo core fun c => { c with split := split })
  else none

/-- Bytes of the array that a block holds. -/
def Block.bytes (b : Block) : Nat := b.sb + 1024 * b.rbuf

/-- The first free range of a size among occupied ones (R308). -/
def firstFit (size limit : Nat) (occ : List (Nat × Nat)) : Option Nat :=
  let starts := (0 :: occ.map fun o => o.1 + o.2).inOrder fun a b => a ≤ b
  starts.find? fun a => a + size ≤ limit && occ.all fun o => a + size ≤ o.1 || o.1 + o.2 ≤ a

/-- The ranges of the array of a core that some blocks hold. -/
def rangesOf (l : List Block) : List (Nat × Nat) := (l.filter (·.scrHere)).map fun b => (b.base, b.bytes)

/-- A scratchpad range of a size with the blocks whose ranges must be claimed for it (R308, R312): a free one, or the first that fits
when the ranges of the halted blocks are given up one after another; only those that it meets are claimed. -/
def State.findRange (s : State) (core size limit : Nat) : List Block → List Block → Option (Nat × List Block)
  | gone, [] => (firstFit size limit (rangesOf ((s.residentOn core).filter fun b => !gone.contains b))).map fun a => (a, gone)
  | gone, v :: r =>
    match firstFit size limit (rangesOf ((s.residentOn core).filter fun b => !gone.contains b)) with
    | some a => some (a, gone)
    | none => s.findRange core size limit (gone ++ [v]) r

def State.claimRange (s : State) (core size split vd : Nat) : Option (State × Nat) :=
  (s.findRange core size (65536 * split) [] ((s.claimable core vd).filter (·.scrHere))).map fun (a, gone) =>
    ((gone.filter fun b => b.base < a + size && a < b.base + b.bytes).foldl
      (fun s b => s.modBk b.id fun b => { b with scrHere := false }) s, a)

/-- `n` bundles of a block seated one by one, from index `idx` on (R308). -/
def State.seatBundles (s : State) (core blk alloc vd : Nat) : Nat → Nat → Option State
  | 0, _ => some s
  | n + 1, idx =>
    let sub := s.leastSub core
    match s.freeSlot core sub, s.claimRows core sub alloc vd with
    | some slot, some (s, rows) =>
      ({ s with bundles := s.bundles ++ [{ freshBundle blk idx sub slot alloc with here := rows }] } : State).seatBundles core blk alloc vd n
        (idx + 1)
    | _, _ => none

/-! ## Launching -/

/-- A launch thread's stack top (R90). -/
def stackTop (d : Desc) (n thread : Nat) : DWord :=
  d.stackBase + BitVec.ofNat 64 ((n * d.bundles * 32 + thread + 1) * d.stackSz)

/-- The threads of a block's launch bundles (R271). -/
def launchThreads (blk n : Nat) (d : Desc) : List Thread :=
  (List.range d.bundles).flatMap fun bun => (List.range 32).map fun lane =>
    let ref : TRef := { blk := blk, bun := bun, lane := lane }
    let sp := stackTop d n (threadNo ref)
    freshThread ref d.entry sp (sp - BitVec.ofNat 64 d.stackSz) d.trapVec

/-- The cells of a scratchpad image. -/
def imageCells (img : List Byte) : List Host.Cell := writeCells [] 0 img.length (bytesNat img)

/-- A block placed on a core, if it fits (R308): its range, its bundles and its threads. -/
def State.placeBlock (s : State) (k : Kernel) (n gang gangIdx quad relaunches core : Nat) : Option State :=
  let d := k.desc
  match s.openCore core d.split k.vd with
  | none => none
  | some s =>
    match s.claimRange core (d.sb + 1024 * d.rbuf) d.split k.vd with
    | none => none
    | some (s, base) =>
      let (id, s) := s.fresh
      let b : Block :=
        { id := id, kernel := k.id, n := n, gang := gang, gangIdx := gangIdx, vd := k.vd, core := core, quad := quad
          base := base, seatedAt := id, sb := d.sb, rbuf := d.rbuf, mem := imageCells d.image
          queues := (queueOffsets d.image d.nqueue).getD [], relaunches := relaunches }
      let s := { s with blocks := s.blocks ++ [b] }
      (s.seatBundles core id d.alloc k.vd d.bundles 0).map fun s =>
        { s with threads := s.threads ++ launchThreads id n d }

/-- A block placed on the first of some cores that it fits. -/
def State.placeOn (s : State) (k : Kernel) (n gang gangIdx quad relaunches : Nat) : List Nat → Option State
  | [] => none
  | c :: r =>
    match s.placeBlock k n gang gangIdx quad relaunches c with
    | some s' => some s'
    | none => s.placeOn k n gang gangIdx quad relaunches r

/-- The blocks of a gang placed one after another on a quad's cores. -/
def State.placeBlocks (s : State) (k : Kernel) (gang quad relaunches : Nat) (cores : List Nat) : List Nat → Option State
  | [] => some s
  | n :: r =>
    match s.placeOn k n gang (n % Nat.max 1 k.desc.gangSz) quad relaunches cores with
    | some s' => s'.placeBlocks k gang quad relaunches cores r
    | none => none

/-- Quay's draw of a gang ticket (R372): a fresh random word, drawn again while it is 0 or equals a live gang's. After 65,536 draws
the least number that is neither (log entry 8). -/
def State.drawTicket (s : State) (moment : Nat) : Nat → Word
  | 0 =>
    (((List.range (s.gangs.length + 1)).map fun k => BitVec.ofNat 32 (k + 1)).find? fun w =>
      !(s.gangs.any fun g => g.ticket == w)).getD 1
  | fuel + 1 =>
    let w := (Config.random moment).setWidth 32
    if w == 0 || s.gangs.any fun g => g.ticket == w then s.drawTicket (moment + 2 ^ 64) fuel else w

/-- A gang on a quad, if it fits: it starts at once, with a ticket from the random generator (R270, R308, R372). -/
def State.placeGang (s : State) (k : Kernel) (p : GangPlan) (quad phys : Nat) : Option State :=
  let (id, s) := s.fresh
  let g : Gang :=
    { id := id, kernel := k.id, ticket := s.drawTicket id 65536, quad := quad, size := Nat.max 1 k.desc.gangSz
      started := true }
  let cores := ((List.range 4).map (4 * phys + ·)).filter fun c => p.avoid != some c
  ({ s with gangs := s.gangs ++ [g] } : State).placeBlocks k id quad p.relaunches cores p.blocks

/-- Gang `g` of a kernel as a plan. -/
def Kernel.planOf (k : Kernel) (g : Nat) : GangPlan :=
  let z := Nat.max 1 k.desc.gangSz
  { blocks := (List.range z).map (g * z + ·), relaunches := 0, avoid := none, stamp := k.stamp }

/-- The gangs of a kernel that wait for placement, in order: the killed ones have their own moments. -/
def Kernel.nextPlan (k : Kernel) : Option GangPlan :=
  if k.next < k.gangs then some (k.planOf k.next) else none

/-- The logical quads of a VD's partition with their physical quads, in ascending order. -/
def State.quadsOf (s : State) (vd : Nat) : List (Nat × Nat) :=
  (List.range 32).filterMap fun k => (s.physQuad (s.vd vd).part k).map fun q => (k, q)

/-- The lowest quad of some that a gang fits, and the state with the gang placed there. -/
def State.lowestFit (s : State) (k : Kernel) (p : GangPlan) : List (Nat × Nat) → Option (State × Nat)
  | [] => none
  | q :: r =>
    match s.placeGang k p q.1 q.2 with
    | some s' => some (s', q.2)
    | none => s.lowestFit k p r

/-- A gang placed on the lowest logical quad that it fits, only while the VD is active there (R308). -/
def State.placeLowest (s : State) (k : Kernel) (p : GangPlan) : Option State :=
  match s.lowestFit k p (s.quadsOf k.vd) with
  | some (s', phys) => if s.quadVd phys == some k.vd && !(s.quads.getD phys {}).ending then some s' else none
  | none => none

/-- Several gangs placed, all or none (R307). -/
def State.placeAll (s : State) (k : Kernel) : List GangPlan → Option State
  | [] => some s
  | p :: r => match s.placeLowest k p with
    | some s' => s'.placeAll k r
    | none => none

/-- Whether a cooperative kernel's gangs fit the partition's quads when no other block is resident (R305). -/
def State.coopFits (s : State) (k : Kernel) : List GangPlan → Bool
  | [] => true
  | p :: r => match s.lowestFit k p (s.quadsOf k.vd) with
    | some (s', _) => s'.coopFits k r
    | none => false

/-- The state with nothing resident. -/
def State.emptied (s : State) : State := { s with blocks := [], bundles := [], threads := [], gangs := [] }

/-- What a core does before the first instruction of a kernel that it is to run: the acquire steps at SYS (R214). -/
def State.freshenCores (s : State) (vd : Nat) (cores : List Nat) : State :=
  cores.foldl (fun s c => (s.l1InvalidateAll c).farInvalidateVd (dieOfCore c) vd) s

end Sys2Proof.Machine
end

