-- ==== Sys2Proof/Machine/Quay.lean ====
section
/-! DEFINITION. Quay, the command front end of a die (R299 to R309): its reads, the checks of acceptance, the start of
packets, the placement of gangs, and the completion of kernels. -/

namespace Sys2Proof.Machine

/-! ## Reads and places (R301, R305, R353) -/

/-- The outcome of a read of Quay. -/
inductive QRead (α : Type) where
  | ok (s : State) (a : α)
  | xlate (s : State)
  | poison (s : State)
  | wait (s : State)

def QRead.andThen {α β : Type} (r : QRead α) (f : State → α → QRead β) : QRead β :=
  match r with
  | .ok s a => f s a
  | .xlate s => .xlate s
  | .poison s => .poison s
  | .wait s => .wait s

/-- Whether an ATS translation of a host address is on its way. -/
def State.atsPending (s : State) (vd ap h : Nat) : Bool :=
  s.reqs.any fun r => match r.what with
    | .ats v a g _ => v == vd && a == ap && g / 4096 == h / 4096
    | _ => false

/-- Whether a fault record of a page lists a queue. -/
def State.quayListed (s : State) (vd q page : Nat) : Bool :=
  (s.vd vd).faults.any fun f => f.vpage == page && f.parties.contains (.quay q)

/-- Whether a request of a reader has failed: its read, or its translation (R366). -/
def State.gotFailed (s : State) (vd who : Nat) : Bool := (s.vd vd).got.any fun x => x.who == who && x.bytes.isNone

/-- What host reads have brought for a reader let go. -/
def State.forgetGot (s : State) (vd who : Nat) : State :=
  s.modVd vd fun v => { v with got := v.got.filter fun x => x.who != who }

/-- Whether a request is one of a reader's. -/
def ReqFor.ofReader (r : ReqFor) (vd who : Nat) : Bool :=
  match r with
  | .quay v w _ _ => v == vd && w == who
  | _ => false

/-- A reader that starts anew: what its reads have brought, and the ones on their way, are let go. -/
def State.dropReader (s : State) (vd who : Nat) : State :=
  ({ s with reqs := s.reqs.filter fun r => !r.what.ofReader vd who } : State).forgetGot vd who

/-- The translation of a host place asked for on a reader's behalf (R366), unless one is on its way. -/
def State.atsAsk (s : State) (vd ap gpa who va : Nat) (need : Need) : State :=
  if s.atsPending vd ap (s.busAddr vd ap gpa).2.1 || !s.atsFree vd ap gpa then s
  else (s.sendAts vd ap gpa (dw va) (needKind need) fun h => .ats vd ap h (some who)).2

/-- A place that Quay reads or writes for a queue (R353): under device-managed paging a fault waits for its page, unless
the fault was denied. The reader `who` is the queue's number for its packets, 64 more for a dependency, 192 more for a completion
signal. -/
def State.quayReach (s : State) (die vd who pkt va : Nat) (need : Need) : QRead Loc :=
  let q := who % 64
  if va ≥ scratchBase then .xlate s
  else match s.translate (.quay die) vd va need with
    | (s, .denied _) => .xlate s
    | (s, .absent level) =>
      if !(s.vd vd).dpage then .xlate s
      else if (s.queue vd q).denied.contains (va / 65536) then
        .xlate (s.modQueue vd q fun u => { u with denied := u.denied.filter (· != va / 65536) })
      else if s.quayListed vd q (va / 65536) then .wait s
      else .wait (s.attach vd va level (needKind need) 4 (.quay q) fun n => { n with queue := q, pkt := pkt }).1
    | (s, .ok (.host v ap gpa)) =>
      if s.gotFailed vd who then .xlate s
      else if s.atsMiss v ap gpa then .wait (s.atsAsk v ap gpa who va need)
      else if (s.ports.getD (s.busAddr v ap gpa).1 {}).up then .ok s (.host v ap gpa)
      else .wait s
    | (s, .ok l) => .ok s l

/-- What a host read has brought for an address, when it has ended. -/
def State.gotPiece (s : State) (vd who va n : Nat) : Option (Option (List Byte)) :=
  ((s.vd vd).got.find? fun x => x.who == who && x.va == va && x.n == n).map (·.bytes)

/-- One read request of Quay or Harbour, after its translation where it needs one, unless it is on its way or has ended; a port that
cannot take it is tried again. -/
def State.quayAsk (s : State) (vd ap gpa who va n : Nat) : State :=
  if s.atsMiss vd ap gpa then s.atsAsk vd ap gpa who va .read
  else if (s.gotPiece vd who va n).isSome || (s.reqs.any fun r => r.what == .quay vd who va n) || !s.hostFree vd ap gpa then s
  else s.ask vd ap gpa (dw va) n (.quay vd who va n) fun tag port h => .request tag port h n (s.tOut vd)

/-- Bytes read from a host place, in requests of at most 512 bytes (R389): the reader waits for all of them, and a failed one fails
the read. -/
def State.quayHost (s : State) (vd ap gpa who va n : Nat) : QRead (List Byte) :=
  let ps := tlpPieces gpa n
  let got := ps.map fun p => s.gotPiece vd who (va + p.1) p.2
  if s.gotFailed vd who then .xlate s
  else if got.all (·.isSome) then .ok s (got.flatMap fun g => (g.getD none).getD [])
  else .wait (ps.foldl (fun s p => s.quayAsk vd ap (gpa + p.1) who (va + p.1) p.2) s)

/-- Bytes read at a place: at the home slice, or from the host for a reader. -/
def State.quayAt (s : State) (who va : Nat) (l : Loc) (n : Nat) : QRead (List Byte) :=
  match l with
  | .dev vd _ ma =>
    let s := s.chargeLines vd ma n
    if s.devPoisoned ma n then .poison s else .ok s (natBytes n (s.homeRead ma n))
  | .host vd ap gpa => s.quayHost vd ap gpa who va n
  | .scr _ _ _ => .xlate s

/-- Bytes read page by page for a reader. -/
def State.quayPages (s : State) (die vd who pkt : Nat) : Nat → Nat → Nat → QRead (List Byte)
  | 0, _, _ => .ok s []
  | fuel + 1, va, n =>
    if n == 0 then .ok s []
    else
      let k := Nat.min n (65536 - va % 65536)
      (s.quayReach die vd who pkt va .read).andThen fun s l =>
        (s.quayAt who va l k).andThen fun s bs =>
          (s.quayPages die vd who pkt fuel (va + k) (n - k)).andThen fun s r => .ok s (bs ++ r)

/-- A read for a queue's packet. -/
def State.quayRead (s : State) (die vd q pkt va n : Nat) : QRead (List Byte) :=
  s.quayPages die vd q pkt (n / 65536 + 2) va n

/-- A read of a packet's dependency signal. -/
def State.quayReadSig (s : State) (die vd q pkt va : Nat) : QRead (List Byte) := s.quayPages die vd (64 + q) pkt 2 va 8

/-- A write of Quay at a place; false when it meets poison. -/
def State.quayPut (s : State) (l : Loc) (va n v q : Nat) : State × Bool :=
  match l with
  | .dev vd gpa ma =>
    let s := s.charge vd ma
    if s.devPartly ma n then (s, false) else (((s.clearWhole ma n).homeWrite vd gpa ma n v).serveIf (s.devPoisoned ma n), true)
  | .host vd ap gpa => (s.sendPosted vd ap gpa n v { src := 4, va := va, queue := some q }, true)
  | .scr _ _ _ => (s, false)

/-! ## Queue registers (R298) and the packet's place -/

def qEn (u : UQueue) : Bool := u.qctl.getLsbD 0
def qSize (u : UQueue) : Nat := bitsOf u.qctl.toNat 7 4
def qHome (u : UQueue) : Nat := bitsOf u.qctl.toNat 8 8
def qIrq (u : UQueue) : Bool := u.qctl.getLsbD 11

/-- The address of packet `i` (R297). -/
def slotAddr (u : UQueue) (i : Nat) : Nat := u.qbase.toNat + 64 * (i % 2 ^ qSize u)

/-- Whether a VD is ACTIVE (R323) and its interface, if any, is neither CONFIG_LOCKED nor in ERROR (R376). -/
def State.vdActive (s : State) (vd : Nat) : Bool :=
  s.hasVd vd && (s.vd vd).vstate == 2 && !((s.vd vd).conf && ((s.vd vd).tdisp.state == 1 || (s.vd vd).tdisp.state == 3))

/-- Whether a die's Quay takes new work (R428). -/
def State.quayRuns (s : State) (die : Nat) : Bool := (s.engCtl (.quay die)).state == 0

/-- Whether Quay reads the next packet's header in a queue (R301, R306). -/
def State.fetching (s : State) (vd q : Nat) : Bool :=
  let u := s.queue vd q
  u.taking.isNone && s.vdActive vd && s.quayRuns (qHome u) && qEn u && !u.err && u.rdidx != u.widx && u.accepted.length < 64

/-- The packet that Quay is accepting in a queue: clearing EN does not stop it (R298). -/
def State.accepting (s : State) (vd q : Nat) : Option Taking :=
  let u := s.queue vd q
  u.taking.filter fun t => s.vdActive vd && s.quayRuns t.die && !u.err

/-- A queue stops on an error (R306). -/
def State.queueError (s : State) (vd q code : Nat) : State :=
  let u := s.queue vd q
  ((s.forgetGot vd q).modQueue vd q fun u => { u with err := true, code := BitVec.ofNat 8 code, taking := none }).post vd
    { kind := 4, queue := q, pkt := (u.taking.map Taking.idx).getD u.rdidx.toNat, aux := code }

/-- Codes of R305. -/
def codeSeq : Nat := 0x01
def codeType : Nat := 0x02
def codeDesc : Nat := 0x03
def codeGeom : Nat := 0x04
def codeCoop : Nat := 0x05
def codeSimg : Nat := 0x06
def codeXlate : Nat := 0x07
def codeSignal : Nat := 0x08
def codeConfig : Nat := 0x09
def codePoison : Nat := 0x0A

/-- The time of a queue's home die. -/
def State.quayNow (s : State) (vd q : Nat) : Nat := s.cycles (qHome (s.queue vd q))

/-- What a 128-byte line of device memory holds, and whether some of it is poisoned. -/
def State.lineNow (s : State) (ma : Nat) : Nat × Bool := (s.homeRead ma 128, s.devPoisoned ma 128)

/-- The next read of a word that did not let Quay go on: when its line is written, and within 1,024 core cycles. -/
def State.pollMark (s : State) (vd q pkt va : Nat) : PollMark where
  limit := s.quayNow vd q + 1024
  seen := match s.quayReach (qHome (s.queue vd q)) vd q pkt va .read with
    | .ok _ (.dev _ _ ma) => some (ma / 128 * 128, s.lineNow (ma / 128 * 128))
    | _ => none

/-- Whether that read is due. -/
def State.pollDue (s : State) (vd q : Nat) (m : PollMark) : Bool :=
  m.limit ≤ s.quayNow vd q || (match m.seen with
    | some x => s.lineNow x.1 != x.2
    | none => false)

/-- PACKET_POLL (R301): Quay reads the next packet's header; VALID brings the acceptance, and VALID = 0 another read. -/
def execPacketPoll (vd q : Nat) (s : State) : Host.Outcome State Fault Refusal :=
  let u := s.queue vd q
  .next (if !s.fetching vd q then s
    else match s.quayRead (qHome u) vd q u.rdidx.toNat (slotAddr u u.rdidx.toNat) 4 with
      | .wait s => s
      | .xlate s => s.queueError vd q codeXlate
      | .poison s => s.queueError vd q codePoison
      | .ok s bs =>
        if bytesNat bs / 2 ^ 31 == 1 then
          (s.modQueue vd q fun u => { u with
            taking := some { die := qHome u, slot := slotAddr u u.rdidx.toNat, idx := u.rdidx.toNat } }).push (.packetAccept vd q)
        else (s.forgetGot vd q).modQueue vd q fun u => { u with pktPoll := s.pollMark vd q u.rdidx.toNat (slotAddr u u.rdidx.toNat) })

/-! ## Acceptance (R299, R304, R305) -/

/-- The fields of a packet. -/
def readPacket (bs : List Byte) : Packet :=
  let h := bytesAt bs 0 4
  { seq := bitsOf h 15 0, reservedHdr := bitsOf h 23 16, typ := bitsOf h 27 24, prio := bitsOf h 29 28
    band := bitsOf h 30 30 == 1, valid := bitsOf h 31 31 == 1, geom := bytesAt bs 4 4, desc := dw (bytesAt bs 8 8)
    g0 := bytesAt bs 16 4, g1 := bytesAt bs 20 4, g2 := bytesAt bs 24 4, res28 := bytesAt bs 28 4
    karg := dw (bytesAt bs 32 8), csig := dw (bytesAt bs 40 8), dsig := dw (bytesAt bs 48 8), dval := dw (bytesAt bs 56 8) }

/-- Whether a packet breaks the TYPE row (R299, R305): an unknown type, a reserved field, or a copy of no bytes. -/
def Packet.typeBad (p : Packet) : Bool :=
  3 < p.typ || p.reservedHdr != 0 || p.res28 != 0 ||
    (if p.typ == 0 then bitsOf p.geom 15 6 != 0 || bitsOf p.geom 31 21 != 0
    else
      p.geom != 0 || (p.typ != 3 && p.karg != 0) ||
        (if p.typ == 1 then p.g2 == 0 else p.desc != 0 || p.g0 != 0 || p.g1 != 0 || p.g2 != 0))

/-- The fields of a kernel descriptor (R89). -/
def readKernelDesc (addr : DWord) (bs : List Byte) : Desc :=
  { addr := addr, entry := dw (bytesAt bs 0 8), trapVec := dw (bytesAt bs 8 8), stackBase := dw (bytesAt bs 16 8)
    stackSz := bytesAt bs 24 4, alloc := bytesAt bs 28 2, bundles := bytesAt bs 30 1, gangSz := bytesAt bs 31 1
    sb := bytesAt bs 32 4, split := bytesAt bs 36 1, rbuf := bytesAt bs 37 1, nqueue := bytesAt bs 38 1
    flags := bytesAt bs 39 1, simg := dw (bytesAt bs 40 8), simgLen := bytesAt bs 48 4, reserved := bytesAt bs 52 12 }

/-- Whether a descriptor's fields break R86 and R89. -/
def Desc.bad (d : Desc) : Bool :=
  d.entry.toNat % 64 != 0 || d.alloc % 16 != 0 || d.alloc < 16 || 1024 < d.alloc || d.bundles < 1 || 32 < d.bundles ||
    d.gangSz < 1 || 16 < d.gangSz || d.sb % 1024 != 0 || 15 < d.split || d.sb + 1024 * d.rbuf > 65536 * d.split ||
    d.rbuf < 4 || 64 < d.rbuf || 16 < d.nqueue || 4 ≤ d.flags || d.stackSz % 64 != 0 || d.simgLen % 16 != 0 ||
    d.simgLen > d.sb || d.stackBase.toNat % 64 != 0 || d.reserved != 0

/-- Whether the geometry disagrees (R304). -/
def geomBad (p : Packet) (d : Desc) : Bool :=
  let b := bitsOf p.geom 5 0
  let z := bitsOf p.geom 20 16
  let n := p.g0 * p.g1 * p.g2
  (b != 0 && b != d.bundles) || (z != 0 && z != d.gangSz) || p.g0 == 0 || p.g1 == 0 || p.g2 == 0 || n > 2 ^ 32 ||
    n % d.gangSz != 0

/-- A kernel as its packet and descriptor describe it. -/
def kernelOf (id vd q pkt home : Nat) (p : Packet) (d : Desc) : Kernel :=
  { id := id, vd := vd, q := q, pkt := pkt, home := home, prio := p.prio, desc := d, x := p.g0, y := p.g1, z := p.g2
    karg := p.karg, csig := p.csig, typ := p.typ }

/-- Whether a cooperative kernel's blocks fit the partition with nothing else resident (R305). -/
def State.coopBad (s : State) (vd : Nat) (p : Packet) (d : Desc) : Bool :=
  let k := kernelOf 0 vd 0 0 0 p d
  d.cooperative && (p.g0 * p.g1 * p.g2 > 1024 * (s.quadsOf vd).length ||
    !s.emptied.coopFits k ((List.range k.gangs).map k.planOf))

/-- The checks of acceptance beyond the packet's own read: an error code, or the descriptor with its image. -/
inductive Judgement where
  | bad (code : Nat)
  | good (d : Desc)

/-- The reads and checks of a kernel packet's descriptor and image (R305). The bytes read here are those that placements and relaunches
copy (R88, R264; DESIGN CHOICE, log entry 58). -/
def State.judgeKernel (s : State) (die vd q : Nat) (i : Nat) (p : Packet) : QRead Judgement :=
  if p.desc.toNat % 64 != 0 then .ok s (.bad codeDesc)
  else
    (s.quayRead die vd q i p.desc.toNat 64).andThen fun s bs =>
      let d := readKernelDesc p.desc bs
      if d.bad then .ok s (.bad codeDesc)
      else if geomBad p d then .ok s (.bad codeGeom)
      else if s.coopBad vd p d then .ok s (.bad codeCoop)
      else
        (if d.simg == 0 then .ok s [] else s.quayRead die vd q i d.simg.toNat d.simgLen).andThen fun s img =>
          if (queueOffsets img d.nqueue).isNone then .ok s (.bad codeSimg) else .ok s (.good { d with image := img })

/-- Whether a signal's address is refused: misaligned, or, for CSIG in host memory, without AtomicOps (R305). -/
def State.signalOk (s : State) (die vd q i : Nat) (a : DWord) (need : Need) : QRead Bool :=
  if a == 0 then .ok s true
  else if a.toNat % 8 != 0 then .ok s false
  else
    match s.quayReach die vd q i a.toNat need with
    | .xlate s => .ok s false
    | .poison s => .ok s false
    | .wait s => .wait s
    | .ok s (.host v ap _) => .ok s (need == .read || ((assocGet ap (s.vd v).aps).getD {}).aop)
    | .ok s _ => .ok s true

/-- The SIGNAL row (R305). -/
def State.judgeSignals (s : State) (die vd q i : Nat) (p : Packet) (d : Desc) : QRead Judgement :=
  if p.typ == 3 && p.csig == 0 then .ok s (.bad codeSignal)
  else
    (s.signalOk die vd q i p.csig .write).andThen fun s a =>
      (s.signalOk die vd q i p.dsig .read).andThen fun s b =>
        .ok s (if a && b then .good d else .bad codeSignal)

/-- Every check of R305 in table order, once the packet has been read. -/
def State.judgePacket (s : State) (die vd q i : Nat) (p : Packet) : QRead Judgement :=
  if p.seq != i % 65536 then .ok s (.bad codeSeq)
  else if p.typeBad then .ok s (.bad codeType)
  else
    (if p.typ == 0 then s.judgeKernel die vd q i p else .ok s (.good {})).andThen fun s j =>
      match j with
      | .bad c => .ok s (.bad c)
      | .good d => s.judgeSignals die vd q i p d

/-- VALID cleared in the header, and the packet accepted (R301). -/
def State.accept (s : State) (vd q : Nat) (t : Taking) (p : Packet) (d : Desc) (header : Nat) : QRead Unit :=
  (s.quayReach t.die vd q t.idx t.slot .write).andThen fun s l =>
    match s.quayPut l t.slot 4 (header % 2 ^ 31) q with
    | (s, false) => .poison s
    | (s, true) =>
      let (key, s) := (s.forgetGot vd q).fresh
      let a : Accepted := { idx := t.idx, pkt := p, desc := d, met := p.dsig == 0, key := key }
      .ok (s.modQueue vd q fun u => { u with
        rdidx := if t.old then u.rdidx else u.rdidx + 1
        accepted := u.accepted ++ [a]
        taking := none
        pktPoll := {}
        sigPoll := {} }) ()

/-- PACKET_ACCEPT (R301, R305): the whole packet is read and checked; a header that is no longer VALID is read again. -/
def execPacketAccept (vd q : Nat) (s : State) : Host.Outcome State Fault Refusal :=
  .next (match s.accepting vd q with
    | none => s
    | some t =>
      let r := (s.quayRead t.die vd q t.idx t.slot 64).andThen fun s bs =>
        let p := readPacket bs
        if !p.valid then .wait ((s.forgetGot vd q).modQueue vd q fun u => { u with taking := none })
        else (s.judgePacket t.die vd q t.idx p).andThen fun s j =>
          match j with
          | .bad c => .ok s (some c)
          | .good d => (s.accept vd q t p d (bytesAt bs 0 4)).andThen fun s _ => .ok s none
      match r with
      | .wait s => s
      | .xlate s => s.queueError vd q codeXlate
      | .poison s => s.queueError vd q codePoison
      | .ok s (some c) => s.queueError vd q c
      | .ok s none => s)

/-! ## Dependencies and starts (R302, R303) -/

def State.modAccepted (s : State) (vd q key : Nat) (f : Accepted → Accepted) : State :=
  s.modQueue vd q fun u => { u with accepted := u.accepted.map fun a => if a.key == key then f a else a }

/-- The next packet of a queue to start. -/
def UQueue.nextStart (u : UQueue) : Option Accepted := u.accepted.find? fun a => !a.started

/-- A signal notice of a queue that keeps running (R302, R309). -/
def State.signalNotice (s : State) (vd q pkt code : Nat) : State :=
  s.post vd { kind := 4, queue := q, pkt := pkt, aux := code + 2 ^ 8 }

/-- A read of DSIG that could not be made: one notice for each run of failures. -/
def State.signalFailed (s : State) (vd q : Nat) (a : Accepted) (code : Nat) : State :=
  let s := if a.sigFailing then s else s.signalNotice vd q a.idx code
  ((s.forgetGot vd (64 + q)).modAccepted vd q a.key fun x => { x with sigFailing := true }).modQueue vd q fun u =>
    { u with sigPoll := s.pollMark vd q a.idx a.pkt.dsig.toNat }

/-- DSIG_POLL (R302). -/
def execDsigPoll (vd q : Nat) (s : State) : Host.Outcome State Fault Refusal :=
  let u := s.queue vd q
  .next (match u.nextStart with
    | none => s
    | some a =>
      if a.met || !s.vdActive vd then s
      else match s.quayReadSig (qHome u) vd q a.idx a.pkt.dsig.toNat with
        | .wait s => s
        | .xlate s => s.signalFailed vd q a codeSignal
        | .poison s => s.signalFailed vd q a codePoison
        | .ok s bs =>
          let s := s.forgetGot vd (64 + q)
          if (dw (bytesNat bs)).toInt ≤ a.pkt.dval.toInt then
            (s.modAccepted vd q a.key fun x => { x with met := true, sigFailing := false }).modQueue vd q fun u =>
              { u with sigPoll := {} }
          else (s.modAccepted vd q a.key fun x => { x with sigFailing := false }).modQueue vd q fun u =>
            { u with sigPoll := s.pollMark vd q a.idx a.pkt.dsig.toNat })

/-- The packet of a queue that may start: every earlier one has started and been placed, its band is reached and its
dependency met (R302). -/
def State.startable (s : State) (vd q : Nat) : Option Accepted :=
  let u := s.queue vd q
  match u.nextStart with
  | none => none
  | some a =>
    let before := u.accepted.filter (·.started)
    if a.met && (before.all fun x => !s.hasKe x.kernel || (s.ke x.kernel).typ != 0 || (s.ke x.kernel).placed) &&
        (!a.pkt.band || before.isEmpty) then some a
    else none

/-- The queue whose packet a die's Quay starts next for a VD (R303): the highest PRIO, then round-robin. -/
def State.chosenQueue (s : State) (die vd : Nat) : Option Nat :=
  let qs := (s.vd vd).queues.filterMap fun x =>
    if qHome x.2 == die then (s.startable vd x.1).map fun a => (x.1, a.pkt.prio) else none
  let top := (qs.map (·.2)).foldl Nat.max 0
  let cands := ((qs.filter fun x => x.2 == top).map (·.1)).inOrder fun a b => a ≤ b
  match assocGet die (s.vd vd).lastStart with
  | some l => match cands.find? (l < ·) with
    | some q => some q
    | none => cands.head?
  | none => cands.head?

/-- The packet that a start event means, if it is the one to start and of a type. -/
def State.toStart (s : State) (vd q typ : Nat) : Option Accepted :=
  let die := qHome (s.queue vd q)
  if !s.vdActive vd || !s.quayRuns die || s.chosenQueue die vd != some q then none
  else (s.startable vd q).filter fun a => a.pkt.typ == typ

/-- A packet started: its kernel record is made, and the queue's turn noted. -/
def State.startPacket (s : State) (vd q : Nat) (a : Accepted) : State × Kernel :=
  let home := qHome (s.queue vd q)
  let (id, s) := s.fresh
  let k := { kernelOf id vd q a.idx home a.pkt a.desc with stamp := id }
  let s := (s.modAccepted vd q a.key fun x => { x with started := true, kernel := id }).modVd vd fun v =>
    { v with lastStart := assocSet home q v.lastStart }
  ({ s with kernels := s.kernels ++ [k] }, k)

/-- KERNEL_PACKET (R307): the launch begins; its gangs wait for placement. -/
def execKernelPacket (vd q : Nat) (s : State) : Host.Outcome State Fault Refusal :=
  .next (match s.toStart vd q 0 with
    | some a => (s.startPacket vd q a).1
    | none => s)

/-- COPY_PACKET (R309): Quay copies the bytes line by line. -/
def execCopyPacket (vd q : Nat) (s : State) : Host.Outcome State Fault Refusal :=
  .next (match s.toStart vd q 1 with
    | none => s
    | some a =>
      let (s, k) := s.startPacket vd q a
      let (id, s) := s.fresh
      let c : Cmd :=
        { id := id, eng := .quay k.home, cls := 0, fn := fnCopy, vd := vd, blk := 0, bun := k.id, lane := 0, acct := k.id
          desc := { src := a.pkt.desc, dst := dw (a.pkt.g0 + 2 ^ 32 * a.pkt.g1), rlen := a.pkt.g2, nrow := 1 } }
      { s with cmds := s.cmds ++ [c] })

/-- WAIT_PACKET (R309): it completes as soon as it starts. -/
def execWaitPacket (vd q : Nat) (s : State) : Host.Outcome State Fault Refusal :=
  .next (match s.toStart vd q 2 with
    | none => s
    | some a =>
      let (s, k) := s.startPacket vd q a
      s.push (.kernelCompletion k.id))

/-- SET_PACKET (R309): its completion is the exchange into CSIG. -/
def execSetPacket (vd q : Nat) (s : State) : Host.Outcome State Fault Refusal :=
  .next (match s.toStart vd q 3 with
    | none => s
    | some a =>
      let (s, k) := s.startPacket vd q a
      s.push (.kernelCompletion k.id))

/-! ## Placement (R303, R308) -/

/-- The gangs that wait at a die's Quay for a VD, as (PRIO, moment, kernel, plan or none for the kernel's next gang). -/
def State.waitingGangs (s : State) (die vd : Nat) : List (Nat × Nat × Nat × Option GangPlan) :=
  (s.kernels.filter fun k => k.vd == vd && k.home == die && k.typ == 0 && !k.suspended && !k.failed).flatMap fun k =>
    (if k.next < k.gangs then [(k.prio, k.stamp, k.id, none)] else []) ++ k.plans.map fun p => (k.prio, p.stamp, k.id, some p)

/-- The first of them in the strict order of R303. -/
def State.firstGang (s : State) (die vd : Nat) : Option (Nat × Option GangPlan) :=
  ((s.waitingGangs die vd).foldl (fun (m : Option (Nat × Nat × Nat × Option GangPlan)) g =>
    match m with
    | none => some g
    | some x => if g.1 > x.1 || (g.1 == x.1 && g.2.1 < x.2.1) then some g else m) none).map fun x => (x.2.2.1, x.2.2.2)

/-- The cores that hold a kernel's blocks. -/
def State.coresOfKernel (s : State) (k : Nat) : List Nat :=
  ((s.blocks.filter fun b => b.kernel == k).map (·.core)).eraseDups

/-! ## Completion (R309, R214) -/

/-- A packet leaves its queue, and its kernel is forgotten. -/
def State.forgetKernel (s : State) (k : Kernel) : State :=
  ({ s with
      kernels := s.kernels.filter (fun x => x.id != k.id)
      bars := s.bars.filter fun b => match b.key with
        | .die x _ _ => x != k.id
        | .pkg x _ => x != k.id
        | _ => true } : State).modQueue k.vd k.q fun u =>
    { u with accepted := u.accepted.filter fun a => !(a.started && a.kernel == k.id) }

/-- The queue's interrupt after a completion-signal update (R298, R331). -/
def State.signalDone (s : State) (k : Kernel) : State :=
  let s := s.forgetKernel k
  if qIrq (s.queue k.vd k.q) then s.fire k.vd (k.q / 8) else s

/-- A completion-signal update that could not be made (R309). -/
def State.signalLost (s : State) (k : Kernel) (code : Nat) : State :=
  (s.signalNotice k.vd k.q k.pkt code).forgetKernel k

/-- The new value of a completion signal: the exchange of a set packet, or −1 added. -/
def Kernel.signalValue (k : Kernel) (old : Nat) : Nat := if k.typ == 3 then k.karg.toNat else (old + 2 ^ 64 - 1) % 2 ^ 64

/-- The update of a completion signal at a place. -/
def State.updateSignal (s : State) (k : Kernel) (l : Loc) : State :=
  match l with
  | .dev vd gpa ma =>
    let s := s.charge vd ma
    if s.devPoisoned ma 8 then s.signalLost k codePoison
    else (s.homeWrite vd gpa ma 8 (k.signalValue (s.homeRead ma 8))).signalDone k
  | .host vd ap gpa =>
    if !((assocGet ap (s.vd vd).aps).getD {}).aop then s.signalLost k codeSignal
    else if !s.hostFree vd ap gpa then s
    else
      s.ask vd ap gpa k.csig 8 (.signal k.id) fun tag port h =>
        .hostAtomic tag port h 8 (if k.typ == 3 then 1 else 0) (if k.typ == 3 then k.karg.toNat else 2 ^ 64 - 1) 0 (s.tOut vd)
  | .scr _ _ _ => s.signalLost k codeSignal

/-- Whether a kernel's signal update is on its way to the host. -/
def State.signalling (s : State) (k : Nat) : Bool :=
  s.reqs.any fun r => r.what == .signal k

/-- Whether a started packet's work is over: no block, no gang to place, no copy in progress, and every host write known to have
arrived (R214). -/
def State.workOver (s : State) (k : Kernel) : Bool :=
  (k.typ != 0 || k.placed) && !(s.blocks.any fun b => b.kernel == k.id) &&
    !(s.cmds.any fun c => c.acct == k.id && c.blk == 0 && c.bun == k.id) && s.settled k

/-- KERNEL_COMPLETION (R309): CSIG is translated again and updated, and the queue's interrupt follows. -/
def execKernelCompletion (id : Nat) (s : State) : Host.Outcome State Fault Refusal :=
  let k := s.ke id
  .next (if !s.hasKe id || !s.workOver k || s.signalling id then s
    else
      let s := s.modKe id fun x => { x with ended := true }
      if k.csig == 0 then s.forgetKernel k
      else match s.quayReach k.home k.vd (192 + k.q) k.pkt k.csig.toNat .write with
        | .wait s => s
        | .xlate s => (s.forgetGot k.vd (192 + k.q)).signalLost k codeSignal
        | .poison s => s.signalLost k codePoison
        | .ok s l => s.updateSignal k l)

end Sys2Proof.Machine
end

