-- ==== Sys2Proof/Machine/Pred.lean ====
section
/-! DEFINITION. Compares and the predicate stack (R118 to R121), and the votes, BALLOT and BSYNC (R130). -/

namespace Sys2Proof.Machine

/-! ## Compares -/

/-- An integer compare of two `w`-bit patterns under cc4 (R118). -/
def intCompare (cc w a b : Nat) : Bool :=
  let x : BitVec w := BitVec.ofNat w a
  let y : BitVec w := BitVec.ofNat w b
  match cc with
  | 0 => x == y
  | 1 => x != y
  | 2 => x.slt y
  | 3 => x.sle y
  | 4 => y.slt x
  | 5 => y.sle x
  | 6 => x.ult y
  | 7 => x.ule y
  | 8 => y.ult x
  | 9 => y.ule x
  | _ => x &&& y != 0

/-- FPCSR.FTZ and FPCSR.RM of a thread (R41). -/
def Thread.ftz (x : Thread) : Bool := x.fpcsr.getLsbD 3
def Thread.rm (x : Thread) : Nat := x.fpcsr.toNat % 8

/-- Sticky flags ORed into a thread's FPCSR (R107). -/
def Thread.raise (x : Thread) (f : FFlags) : Thread := { x with fpcsr := x.fpcsr ||| (f.setWidth 9 <<< 4) }

/-- A compare of a thread's operands under cc4 and ty5, and its flags (R118, R120). -/
def State.compare (s : State) (t : TRef) (c a b ty : Nat) : Bool × FFlags :=
  let ftz := (s.th t).ftz
  let float (f : Fmt) (flush : Bool) (x y : Nat) : Bool × FFlags :=
    fcompare c (unpack f (flushIn f (flush && ftz) x)) (unpack f (flushIn f (flush && ftz) y))
  match ty with
  | 0 => (intCompare c 32 (s.reg t a).toNat (s.reg t b).toNat, noFlag)
  | 1 => (intCompare c 64 (s.pair t a).toNat (s.pair t b).toNat, noFlag)
  | 2 => float .f32 true (s.reg t a).toNat (s.reg t b).toNat
  | 3 => float .f64 false (s.pair t a).toNat (s.pair t b).toNat
  | 4 => float .f16 true ((s.reg t a).toNat % 2 ^ 16) ((s.reg t b).toNat % 2 ^ 16)
  | _ => float .bf16 false ((s.reg t a).toNat % 2 ^ 16) ((s.reg t b).toNat % 2 ^ 16)

/-- What pm3 does with a compare's result on one thread (R119): push, or combine into the top of an enclosed thread. -/
def Thread.applyPm (x : Thread) (m : Nat) (c : Bool) : Thread :=
  if m == 0 then x.pushPred c
  else if x.enclosed then
    { x with stack := match x.stack with
        | [] => []
        | top :: r => (if m == 1 then top && c else top || c) :: r }
  else x

/-- A compare instruction: `reads` are its registers, `cmp` its result and flags for a thread. In AND and OR mode an enclosed
inactive thread reads its operands too (R119); of the faults it meets only those of steps 1 to 5 of R78 (R38), so a poisoned
operand kills no block for it, and it goes on with the stored bits (DESIGN CHOICE, log entry 48). -/
def State.compareWith (m : Nat) (reads : List (Nat × Nat)) (cmp : State → TRef → Bool × FFlags) (s : State) :
    Host.Outcome State Fault Refusal :=
  s.issue { regs := reads, reads := if m == 0 then reads else [], pushes := m == 0, needsTop := m != 0, all := m != 0 }
    fun s t =>
      let x := s.th t
      if m != 0 && !x.enclosed then .next s
      else if x.active && (s.buOf t).badRegs t.lane reads then .poison s 0
      else
        let (c, fl) := cmp s t
        .next (s.modTh t fun x => (if x.active then x.raise fl else x).applyPm m c)

/-- CMP (R118 to R120). -/
def execCmp (c m a b t : Nat) (s : State) : Host.Outcome State Fault Refusal :=
  s.compareWith m [(a, cmpWidth t), (b, cmpWidth t)] fun s r => s.compare r c a b t

/-- CMPI (R118): va as s32 or n32 with the sign-extended immediate. -/
def execCmpi (c m a i : Nat) (s : State) : Host.Outcome State Fault Refusal :=
  s.compareWith m [(a, 1)] fun s r => (intCompare c 32 (s.reg r a).toNat (wordOfInt (signExt 12 i)).toNat, noFlag)

/-! ## The predicate stack (R121) -/

/-- PELSE: every thread inverts its top entry. -/
def execPelse (s : State) : Host.Outcome State Fault Refusal :=
  s.issue { needsTop := true, all := true } fun s t =>
    .next (s.modTh t fun x => { x with stack := match x.stack with
      | [] => []
      | top :: r => (!top) :: r })

/-- PEND: every thread pops. -/
def execPend (s : State) : Host.Outcome State Fault Refusal :=
  s.issue { needsTop := true, all := true } fun s t => .next (s.modTh t fun x => { x with stack := x.stack.drop 1 })

/-- The mask of the lanes of some threads. -/
def laneMask (l : List TRef) : Word := l.foldl (fun m t => m ||| (1#32 <<< t.lane)) 0

/-- The threads of a list that belong to a thread's bundle. -/
def mates (l : List TRef) (t : TRef) : List TRef := l.filter fun u => u.blk == t.blk && u.bun == t.bun

/-- PGET: the bundle's active lanes in this issue group. -/
def execPget (d : Nat) (s : State) : Host.Outcome State Fault Refusal :=
  s.alu d [] fun _ t => laneMask (mates s.actives t)

/-- PPUSH: push (va ≠ 0), or 0 on an inactive thread. -/
def execPpush (a : Nat) (s : State) : Host.Outcome State Fault Refusal :=
  s.issue { regs := [(a, 1)], reads := [(a, 1)], pushes := true } fun s t =>
    .next (s.modTh t (·.pushPred (s.reg t a != 0)))

/-- PDEPTH: the depth of the stack. -/
def execPdepth (d : Nat) (s : State) : Host.Outcome State Fault Refusal :=
  s.alu d [] fun s t => BitVec.ofNat 32 (s.th t).stack.length

/-! ## Votes (R130): computed over the active participants, as the registers stand when the group executes -/

/-- A vote: each active participant pushes its value. -/
def State.vote (a : Nat) (v : List Word → Bool) (s : State) : Host.Outcome State Fault Refusal :=
  s.issueConv { regs := [(a, 1)], reads := [(a, 1)], pushes := true } fun s' t =>
    .next (s'.modTh t (·.pushPred (v (s.actives.map fun u => s.reg u a))))

/-- BVOTEA (R130). -/
def execBvotea (a : Nat) (s : State) : Host.Outcome State Fault Refusal := s.vote a fun l => l.all (· != 0)

/-- BVOTEY (R130). -/
def execBvotey (a : Nat) (s : State) : Host.Outcome State Fault Refusal := s.vote a fun l => l.any (· != 0)

/-- BALLOT (R130). -/
def execBallot (d a : Nat) (s : State) : Host.Outcome State Fault Refusal :=
  s.issueConv { regs := [(d, 1), (a, 1)], reads := [(a, 1)] } fun s' t =>
    .next (s'.setReg t d (laneMask (s.actives.filter fun u => s.reg u a != 0)))

/-- BSYNC (R130): nothing beyond the round. -/
def execBsync (s : State) : Host.Outcome State Fault Refusal := s.issueConv {} fun s' _ => .next s'

end Sys2Proof.Machine
end

