-- ==== Sys2Proof/Machine/Threads.lean ====
section
/-! DEFINITION. Spawning and ending threads, bins (R271 to R276), and the bundle's allocation, window and views (R289 to
R295) with the grants and releases that end their waits. -/

namespace Sys2Proof.Machine

/-! ## Bins -/

/-- SPAWN (R272): each active thread sends its child, in ascending home-lane order; a release at CORE. -/
def execSpawn (a b : Nat) (s : State) : Host.Outcome State Fault Refusal :=
  s.issue { regs := [(a, 2), (b, 1)], reads := [(a, 2), (b, 1)], closes := true } fun s t =>
    let entry := s.pair t a
    if entry.toNat % 64 != 0 then .trap s causeAlignFetch entry
    else if entry.toNat ≥ scratchBase then .trap s causeProt entry
    else
      match s.joinBin t.blk entry (s.reg t b) with
      | some s' => .next s'
      | none => .park { s with seq := s.seq + 1 } (.bin entry (s.reg t b) s.seq)

/-- BINFLUSH (R274): every non-empty bin of the block becomes due. -/
def State.flushBins (s : State) (blk : Nat) : State :=
  ({ s with seq := s.seq + 1 } : State).modCo (s.bk blk).core fun c =>
    { c with bins := c.bins.map fun x => if x.blk == blk && x.due.isNone then { x with due := some s.seq } else x }

def execBinflush (s : State) : Host.Outcome State Fault Refusal :=
  s.issueGroup {} fun s lead _ => .next (s.flushBins lead.blk)

/-- BINWAIT_EXPIRE (R274): the bin's 4,096 cycles have run out. -/
def execBinwaitExpire (core bin : Nat) (s : State) : Host.Outcome State Fault Refusal :=
  .next (({ s with seq := s.seq + 1 } : State).modCo core fun c =>
    { c with bins := c.bins.modify bin fun x => if x.left == 0 && x.due.isNone then { x with due := some s.seq } else x })

/-! ## Rows (R291) -/

/-- The RALLOC requests of a sub-core, oldest first. -/
def State.wanting (s : State) (core sub : Nat) : List Bundle :=
  ((s.bundlesOn core sub).filter fun b => b.want.isSome && s.running b.blk).inOrder fun a b =>
    (a.want.getD (0, 0)).2 ≤ (b.want.getD (0, 0)).2

/-- Rows for the oldest request (R291): free rows, claimed rows, and, when every bundle that holds rows of the VD is
blocked in RALLOC, rows of the youngest requesters, but never of the oldest. -/
def State.rowsFor (s : State) (core sub need vd : Nat) (others : List Bundle) : Option (State × List (Nat × Nat)) :=
  match s.claimRows core sub need vd with
  | some s' => some s'
  | none =>
    let on := s.bundlesOn core sub
    if (on.filter fun b => b.rowsHere != 0 && (s.bk b.blk).vd == vd).any fun b => b.want.isNone then none
    else
      let bs := s.claimRowsOf core sub vd
      let left := need - s.rowsFree core sub - (bs.map (·.rowsHere)).sum
      if (others.map (·.rowsHere)).sum < left then none
      else
        let (s', t) := s.spillRows bs (s.haltOrder core (bs.map fun b => (s.bk b.blk).vd)) need
        let (s', u) := s'.lendRows others.reverse left
        some (s', s.freeRows core sub ++ t ++ u)

/-! ## Launches -/

/-- A due bin launched as a bundle (R274, R275); none when an index, a slot or rows are missing. -/
def State.launchBin (s : State) (core : Nat) (b : Bin) : Option State :=
  let k := s.bk b.blk
  let d := (s.ke k.kernel).desc
  let sub := s.leastSub core
  match (List.range 32).find? (fun i => !(s.bundles.any fun x => x.blk == b.blk && x.idx == i)), s.freeSlot core sub,
      s.rowsFor core sub d.alloc k.vd ((s.wanting core sub).drop 1) with
  | some idx, some slot, some (s, rows) =>
    let args := b.args.zipIdx
    let bun := args.foldl (fun (x : Bundle) a => x.setReg a.2 0 a.1)
      { freshBundle b.blk idx sub slot d.alloc with here := rows }
    let ths := args.map fun a => freshThread { blk := b.blk, bun := idx, lane := a.2 } b.entry 0 0 d.trapVec
    some (({ s with bundles := s.bundles ++ [bun], threads := s.threads ++ ths } : State).modCo core fun c =>
      { c with bins := c.bins.filter fun x => !(x.blk == b.blk && x.entry == b.entry) })
  | _, _, _ => none

/-- The first bin of a list that can be launched is launched, and the parked spawners are served. A due bin that cannot holds up none
that follows it (DESIGN CHOICE, log entry 58). -/
def State.launchFirst (s : State) (core : Nat) : List Bin → State
  | [] => s
  | b :: r =>
    match s.launchBin core b with
    | some s' => s'.serveSpawners core
    | none => s.launchFirst core r

/-- BIN_LAUNCH (R274): due bins of running blocks, in the order in which they became due. -/
def execBinLaunch (core : Nat) (s : State) : Host.Outcome State Fault Refusal :=
  .next (s.launchFirst core
    (((s.co core).bins.filter fun b => b.due.isSome && s.running b.blk).inOrder fun a b =>
      a.due.getD 0 ≤ b.due.getD 0))

/-- EXIT (R276): each active thread's region has closed; the thread ends. -/
def execExit (s : State) : Host.Outcome State Fault Refusal :=
  s.issue { closes := true } fun s t => .gone (s.endThread t)

/-! ## Bundle-convergent THREAD instructions (R289) -/

/-- A group's one operation, with the value of va of its lowest active participant: `bad` says which trap every active
participant raises. -/
def State.convOp (a : Nat) (bad : Bundle → Word → Option (Nat × DWord)) (f : State → TRef → Word → State) (s : State) :
    Host.Outcome State Fault Refusal :=
  s.issueConv { regs := [(a, 1)] } fun s' t =>
    match s.actives with
    | [] => .next s'
    | lead :: _ =>
      if (s.buOf lead).badRegs lead.lane [(a, 1)] then .poison s' 0
      else
        match bad (s.buOf lead) (s.reg lead a) with
        | some (cause, val) => .trap s' cause val
        | none => .next (if t == lead then f s' t (s.reg lead a) else s')

/-- Whether a target is no legal allocation. -/
def badAlloc (n : Nat) : Bool := n % 16 != 0 || n < 16 || 1024 < n

/-- RALLOC (R290): the bundle asks for rows and its round waits for RALLOC_GRANT. -/
def execRalloc (a : Nat) (s : State) : Host.Outcome State Fault Refusal :=
  s.convOp a (fun _ v => if badAlloc v.toNat then some (causeIllegal, dw v.toNat) else none) fun s t v =>
    if v.toNat ≤ (s.buOf t).alloc then s
    else ({ s with seq := s.seq + 1 } : State).modBu t.blk t.bun fun b => { b with want := some (v.toNat, s.seq) }

/-- RALLOC_GRANT (R291): the oldest request of a sub-core granted; new rows read as zero, and rows that the bundle lost
while it waited come back with their contents. -/
def execRallocGrant (core sub : Nat) (s : State) : Host.Outcome State Fault Refusal :=
  .next (match s.wanting core sub with
    | [] => s
    | b :: r =>
      let n := (b.want.getD (0, 0)).1
      match s.rowsFor core sub (n - b.rowsHere) (s.bk b.blk).vd r with
      | none => s
      | some (s, rows) => s.modBu b.blk b.idx fun x =>
          { x with rf := x.rf.map fun l => l ++ List.replicate (n - x.alloc) 0
                   alloc := n, here := x.here ++ rows, lent := 0, want := none })

/-- Whether an in-flight command of a bundle has a footprint in the rows from `n` on. -/
def State.coversFrom (s : State) (blk bun n : Nat) : Bool :=
  s.cmds.any fun c => c.blk == blk && c.bun == bun && c.inFlight && (c.reads ++ c.writes).any fun r => r.1 + r.2 > n

/-- ALLOC shrunk to `n`: the rows return to the sub-core. -/
def Bundle.shrink (b : Bundle) (n : Nat) : Bundle :=
  { b with alloc := n, here := (rowTake n b.here).1, free := none, rf := b.rf.map (·.take n), poison := b.poison.filter fun x => x.2 < n }

/-- Whether an enabled view of the bundle ends beyond register `n` (R33). -/
def Bundle.viewsBeyond (b : Bundle) (n : Nat) : Bool :=
  let past (ck : Bool) (v : Word) : Bool := viewEn v && viewBase v + viewRegs ck v > n
  past false b.viewT0 || past false b.viewT1 || past false b.viewAcc || past true b.viewCk

/-- RFREE (R293): the round waits while an in-flight command covers the rows. -/
def execRfree (a : Nat) (s : State) : Host.Outcome State Fault Refusal :=
  s.convOp a (fun b v =>
    let n := v.toNat
    if badAlloc n then some (causeIllegal, dw n)
    else if n ≥ b.alloc then none
    else if (b.wbase != 0 && b.wbase + 127 ≥ n) || b.viewsBeyond n then some (causeWindow, dw n)
    else none) fun s t v =>
      let n := v.toNat
      if n ≥ (s.buOf t).alloc then s
      else s.modBu t.blk t.bun fun b => if s.coversFrom t.blk t.bun n then { b with free := some n } else b.shrink n

/-- RFREE_RELEASE (R293). -/
def execRfreeRelease (blk bun : Nat) (s : State) : Host.Outcome State Fault Refusal :=
  .next (match (s.bu blk bun).free with
    | some n => if s.coversFrom blk bun n then s else s.modBu blk bun (·.shrink n)
    | none => s)

/-- WBASE (R294). -/
def execWbase (a : Nat) (s : State) : Host.Outcome State Fault Refusal :=
  s.convOp a (fun b v =>
    let n := v.toNat
    if n % 16 != 0 || (n != 0 && n + 127 ≥ b.alloc) then some (causeWindow, dw n) else none) fun s t v =>
      s.modBu t.blk t.bun fun b => { b with wbase := v.toNat }

/-- A view register written (R295): a value with EN = 0 writes 0. -/
def Bundle.setView (b : Bundle) (sel : Nat) (v : Word) : Bundle :=
  let v := if viewEn v then v else 0
  match sel with
  | 0 => { b with viewT0 := v }
  | 1 => { b with viewT1 := v }
  | 2 => { b with viewAcc := v }
  | _ => { b with viewCk := v }

/-- Whether a reserved bit of R31 is set or FMT is reserved. -/
def viewBad (v : Word) : Bool := bitsOf v.toNat 30 28 != 0 || bitsOf v.toNat 11 10 != 0 || viewFmt v > 10

/-- VIEW (R295). -/
def execView (a sel : Nat) (s : State) : Host.Outcome State Fault Refusal :=
  s.convOp a (fun b v =>
    if !viewEn v then none
    else if viewBad v then some (causeIllegal, dw v.toNat)
    else if viewBase v % (if sel == 3 then 16 else 8) != 0 || viewBase v + viewRegs (sel == 3) v > b.alloc then
      some (causeWindow, dw v.toNat)
    else none) fun s t v => s.modBu t.blk t.bun (·.setView sel v)

end Sys2Proof.Machine
end

