-- ==== Sys2Proof/Machine/Sched.lean ====
section
/-! DEFINITION. Fetching (R50), readiness (R278), and the scheduling steps beside the picker: convergence rounds (R127),
results that arrive (R55, R141), the active set (R281) and the shadow's comparisons (R426). -/

namespace Sys2Proof.Machine

/-! ## Fetching -/

/-- The outcome of fetching a word: the word, a PROT trap, a fault that waits at a level, poison, or a host place whose line the
core does not hold. -/
inductive Fetched where
  | word (w : Nat)
  | prot
  | page (level : Nat)
  | poison
  | host (vd ap gpa : Nat)
  deriving DecidableEq, Repr

/-- The word of a host place (R50): it comes through the core's L1, as a load's line does. -/
def State.fetchHost (s : State) (core vd ap gpa : Nat) : Fetched :=
  match s.l1Line core vd (gpa / 128) with
  | some c =>
    if s.atsMiss vd ap gpa || !c.has (gpa % 128) 4 then .host vd ap gpa
    else if c.bad (gpa % 128) 4 then .poison
    else .word (lineGet c.data (gpa % 128) 4)
  | none => .host vd ap gpa

/-- The word at a thread's PC (R50): global memory, through stage 1, read at its home (log entry 3). -/
def State.fetch (s : State) (t : TRef) : State × Fetched :=
  let pc := (s.th t).pc.toNat
  if pc ≥ scratchBase then (s, .prot)
  else
    match s.translate (.lane (s.coreOf t) (s.buOf t).sub t.lane) (s.vdOf t) pc .fetch with
    | (s', .ok (.dev _ _ ma)) => if s'.devPoisoned ma 4 then (s', .poison) else (s', .word (s'.homeRead ma 4))
    | (s', .ok (.host vd ap gpa)) => (s', s'.fetchHost (s.coreOf t) vd ap gpa)
    | (s', .ok _) => (s', .prot)
    | (s', .denied _) => (s', .prot)
    | (s', .absent level) => (s', .page level)

/-! ## Readiness -/

/-- Whether a word closes windows before it issues (R56, R408): every word that may park its thread, that closes the
region, or that is bundle-convergent. -/
def closesWindow (w : Nat) : Bool :=
  let major := bitsOf w 31 26
  let fn := bitsOf w 4 0
  match major with
  | 0x0D => 5 ≤ fn && fn ≤ 8
  | 0x0E => bitsOf w 25 22 != 7
  | 0x10 => bitsOf w 11 11 == 1 || bitsOf w 10 0 == 0x018
  | 0x11 | 0x3B => true
  | 0x3C => fn != 8
  | 0x3D => fn != 7 && fn != 2
  | 0x3E => fn < 4
  | m =>
    if 0x1B ≤ m && m ≤ 0x26 then bitsOf w 6 4 == 3 || bitsOf w 6 4 == 4
    else 0x27 ≤ m && m ≤ 0x36 && !(m == 0x32 && bitsOf w 6 6 == 1)

/-- Whether a thread waits for a result before its next word (R55, R56). -/
def State.waitsResult (s : State) (x : Thread) : Bool :=
  if x.pending.isEmpty then false
  else if x.pending.any fun p => p.window == 0 then true
  else match (s.fetch x.ref).2 with
    | .word w => closesWindow w
    | _ => false

/-- Whether a thread is ready, its bundle's place in the active set apart (R278). -/
def State.readyTh (s : State) (x : Thread) : Bool :=
  let b := s.buOf x.ref
  x.park == .running && s.running x.ref.blk && b.round.isEmpty && b.want.isNone && b.free.isNone && !s.waitsResult x

/-- Whether a bundle has a ready thread. -/
def State.readyBu (s : State) (b : Bundle) : Bool := (s.threadsOf b.blk b.idx).any s.readyTh

/-! ## Convergence rounds -/

/-- The bundle's threads that have not exited. -/
def State.liveOf (s : State) (blk bun : Nat) : List Thread := (s.threadsOf blk bun).filter fun x => x.park != .exited

/-- Whether a bundle is converged with no round in progress (R127). -/
def State.converged (s : State) (b : Bundle) : Bool :=
  let l := s.liveOf b.blk b.idx
  s.running b.blk && b.round.isEmpty && b.want.isNone && b.free.isNone && !l.isEmpty && l.all fun x => x.park == .conv

/-- CONVERGENCE_ROUND (R127): the round's addresses in ascending order; the picker issues a group at each. -/
def execConvergenceRound (blk bun : Nat) (s : State) : Host.Outcome State Fault Refusal :=
  let b := s.bu blk bun
  .next (if (s.bundles.any fun x => x.blk == blk && x.idx == bun) && s.converged b then
    let l := s.liveOf blk bun
    let pcs := (l.map fun x => x.pc.toNat).eraseDups.inOrder fun a c => a ≤ c
    s.modBu blk bun fun b =>
      { b with round := pcs.map (BitVec.ofNat 64), roundBase := b.wbase, roundMembers := l.map fun x => x.ref.lane }
  else s)

/-! ## Long-latency results -/

/-- A pending result written to its registers, its flags ORed in (R55, R101, R141). -/
def State.writeResult (s : State) (t : TRef) (p : PendingResult) : State :=
  (s.modBu t.blk t.bun fun b => b.writes t.lane p.dst p.vals).modTh t (·.raise p.flags)

/-- LONG_LATENCY_RESULT (R55, R141): the thread's `k`-th pending result, once it has arrived. -/
def execLongLatencyResult (t : TRef) (k : Nat) (s : State) : Host.Outcome State Fault Refusal :=
  .next (match (s.th t).pending[k]? with
    | some p =>
      if p.arrived then (s.writeResult t p).modTh t fun x => { x with pending := x.pending.eraseIdx k } else s
    | none => s)

/-! ## The active set -/

/-- The active bundles of a sub-core whose blocks run. -/
def State.activeOn (s : State) (core sub : Nat) : List Bundle :=
  (s.bundlesOn core sub).filter fun b => b.active && s.running b.blk

/-- The pending bundles with a ready thread, those that have waited longest first (R281). -/
def State.readyPending (s : State) (core sub : Nat) : List Bundle :=
  ((s.bundlesOn core sub).filter fun b => !b.active && s.running b.blk && s.readyBu b).inOrder fun b c =>
    b.readySince.getD s.seq ≤ c.readySince.getD s.seq

/-- The pending bundle with a ready thread that has waited longest (R281). -/
def State.longestPending (s : State) (core sub : Nat) : Option Bundle := (s.readyPending core sub).head?

/-- A pending bundle enters the active set. -/
def State.activate (s : State) (b : Bundle) : State :=
  s.modBu b.blk b.idx fun x =>
    { x with active := true, activeSince := s.cycles (dieOfCore (s.bk b.blk).core), readySince := none }

def State.deactivate (s : State) (b : Bundle) : State := s.modBu b.blk b.idx fun x => { x with active := false }

/-- Whether every non-exited thread of a bundle is parked or waits for a result (R281). -/
def State.allWait (s : State) (b : Bundle) : Bool :=
  (s.liveOf b.blk b.idx).all fun x => x.park != .running || s.waitsResult x

/-- ACTIVE_SET_EXCHANGE (R281): the pending bundle that has waited longest takes a free place, or the place of an active
bundle whose threads all wait. -/
def execActiveSetExchange (core sub : Nat) (s : State) : Host.Outcome State Fault Refusal :=
  .next (match s.longestPending core sub with
    | none => s
    | some b =>
      let act := s.activeOn core sub
      if act.length < 8 then s.activate b
      else match act.find? s.allWait with
        | some old => (s.deactivate old).activate b
        | none => s)

/-- PENDING_BUNDLE_TIMEOUT (R281): a pending bundle that has had a ready thread for 1,024 cycles takes the place of the
bundle that has been active longest. -/
def execPendingBundleTimeout (core sub : Nat) (s : State) : Host.Outcome State Fault Refusal :=
  .next (match s.longestPending core sub with
    | none => s
    | some b =>
      if s.cycles (dieOfCore core) < b.readySince.getD (s.cycles (dieOfCore core)) + 1024 then s
      else
        match s.activeOn core sub with
        | [] => s.activate b
        | a :: r => (s.deactivate (r.foldl (fun m c => if c.activeSince < m.activeSince then c else m) a)).activate b)

/-! ## Undertow -/

/-- The oldest entry of a sub-core's shadow queue. -/
def State.shadowHead (s : State) (core sub : Nat) : Option ShadowEntry :=
  s.shadows.find? fun e => e.core == core && e.sub == sub

/-- The sub-core's oldest entry removed. -/
def dropShadow (core sub : Nat) : List ShadowEntry → List ShadowEntry
  | [] => []
  | e :: r => if e.core == core && e.sub == sub then r else e :: dropShadow core sub r

/-- A group that waited for its comparison may proceed: a round's participants stay in their round. -/
def State.shadowPass (s : State) (e : ShadowEntry) : State :=
  if !e.pre then s
  else
    e.refs.foldl (fun s t =>
      let park : Park := if (s.buOf t).round.isEmpty then .running else .conv
      s.modTh t fun x => if x.park == .shadow then { x with park := park, shadowOk := true } else x) s

/-- A group that the shadow refused is presented again by its threads of other blocks: nothing of it was performed. -/
def State.shadowBack (s : State) (e : ShadowEntry) : State :=
  e.refs.foldl (fun s t =>
    let park : Park := if (s.buOf t).round.isEmpty then .running else .conv
    s.modTh t fun x => if x.park == .shadow then { x with park := park } else x) s

/-- SHADOW_ISSUE (R426): the oldest entry of a sub-core compared. The shadow recomputes what the entry holds from the entry's own
sources, so it agrees unless one of the two computations went wrong, which only the event says. A mismatch counts in ERRCNT6 and kills the block of the thread
that met it, the group's first (R413; log entry 16). -/
def execShadowIssue (core sub : Nat) (mismatch : Bool) (s : State) : Host.Outcome State Fault Refusal :=
  .next (match s.shadowHead core sub with
    | none => s
    | some e =>
      let s : State := { s with shadows := dropShadow core sub s.shadows }
      if !mismatch then s.shadowPass e
      else
        match e.refs with
        | [] => s
        | t :: _ => ((s.countError (s.vdOf t) 6).killBlock t.blk
            { kind := 2, cause := causeShadow, pc := e.pc.toNat, thread := threadNo t }).shadowBack e)

end Sys2Proof.Machine
end

