-- ==== Sys2Proof/Machine/Turn.lean ====
section
/-! DEFINITION. Sharing the quads (R310 to R315): the ring and its turns, halting, resuming in place or elsewhere, and the
placement of gangs. -/

namespace Sys2Proof.Machine

def State.quad (s : State) (q : Nat) : QuadSched := s.quads.getD q {}
def State.modQuad (s : State) (q : Nat) (f : QuadSched → QuadSched) : State := { s with quads := s.quads.modify q f }

/-- The weight of a VD, and the quantum (R310, R322). -/
def Vd.weight (v : Vd) : Nat := v.wm1 + 1
def quantum : Nat := 8192

def QuadSched.credit (x : QuadSched) (vd : Nat) : Int := (assocGet vd x.deficit).getD 0

/-! ## Halting (R311) -/

/-- A thread of a halted block: arrived results are written, an armed monitor latches (R233), and an instruction that waits
for a queue, a counter or a slot is presented again, as a new one (R266), when the block resumes. -/
def haltThread (x : Thread) : Thread :=
  let x := { latchOwn x with firstTry := none }
  match x.park with
  | .queue _ => { x with park := .running }
  | .waitc _ _ _ => { x with park := .running }
  | .stall _ => { x with park := .running }
  | _ => x

/-- The arrived results of a thread written (R141). -/
def State.writeArrived (s : State) (t : TRef) : State :=
  let s := ((s.th t).pending.filter (·.arrived)).foldl (fun s p => s.writeResult t p) s
  s.modTh t fun x => { x with pending := x.pending.filter fun p => !p.arrived }

/-- The engine commands of a block stopped (R164): each waits in its queue at its unit boundary. A halt waits for the units in
progress (`drained`), so only a reset's finds one, which goes on to its end (R430). -/
def State.stopUnits (s : State) (blk : Nat) : State :=
  { s with cmds := s.cmds.map fun c => if c.blk == blk && c.st == .running && !c.midUnit then { c with st := .queued } else c }

/-- A block halted: everything stays in place; pending full/empty operations are moored (R244), queue waiters leave, its bundles
leave the active set (R281), and engine commands stop (R164). -/
def State.haltBlock (s : State) (blk : Nat) : State :=
  let refs := (s.threads.filter fun x => x.ref.blk == blk).map (·.ref)
  let s := (refs.foldl State.writeArrived s).stopUnits blk
  let queued (e : FeWait) : Bool := e.ref.blk == blk && e.place == .table
  let s : State := { s with
    seq := s.seq + 1
    threads := s.threads.map fun x => if x.ref.blk == blk then haltThread x else x
    bundles := s.bundles.map fun b => if b.blk == blk then { b with active := false, readySince := none } else b
    feq := (s.feq.filter fun e => !queued e) ++ (s.feq.filter queued).map fun e => { e with place := .moored } }
  s.modBk blk fun b => { b with halted := true, haltedAt := s.seq, waiters := [] }

/-- The blocks of a VD that run on a quad. -/
def State.runningOn (s : State) (quad vd : Nat) : List Nat :=
  (s.blocks.filter fun b => b.core / 4 == quad && b.vd == vd && !b.halted).map (·.id)

/-- Whether nothing delays a halt: no round in progress that could go on, no comparison outstanding, and no engine command in
the middle of a unit (R164, R292, R311, R427). -/
def State.drained (s : State) (quad : Nat) : Bool :=
  !(s.bundles.any fun b => (s.bk b.blk).core / 4 == quad && !b.round.isEmpty && b.want.isNone && b.free.isNone) &&
    !(s.shadows.any fun e => e.core / 4 == quad) &&
    !(s.cmds.any fun c => s.running c.blk && (s.cmdCore c) / 4 == quad && c.midUnit)

/-- A VD halted on a quad; the cores' L1s are written back and invalidated (R189, R311). -/
def State.haltQuad (s : State) (quad : Nat) : State :=
  match s.quadVd quad with
  | none => s
  | some v =>
    let s := (s.runningOn quad v).foldl State.haltBlock s
    let s := s.unmetered fun s => (List.range 4).foldl (fun s k => s.l1InvalidateAll (4 * quad + k)) s
    ({ s with seq := s.seq + 1 } : State).modQuad quad fun x =>
      { x with
        vd := none, ending := false, last := if x.ring.contains v then v else x.last, idle := 0
        halts := assocSet v s.seq x.halts }

/-- The end of a turn: the halt is made once nothing delays it. -/
def State.endTurn (s : State) (quad : Nat) : State :=
  if s.drained quad then s.haltQuad quad else s.modQuad quad fun x => { x with ending := true }

/-- Whether another VD waits for a quad. -/
def QuadSched.contested (x : QuadSched) : Bool := x.ring.any fun v => x.vd != some v

/-- The next turn of a VD that is alone in the ring: it keeps running, and no halt occurs. -/
def State.renewTurn (s : State) (quad v : Nat) : State :=
  s.modQuad quad fun x =>
    { x with idle := 1, deficit := assocSet v (x.credit v + ((s.vd v).weight * quantum : Nat)) x.deficit }

/-- TURN_END (R310): the deficit has run out. A VD that is alone in the ring goes on with its next turn. -/
def execTurnEnd (quad : Nat) (s : State) : Host.Outcome State Fault Refusal :=
  let x := s.quad quad
  .next (match x.vd with
    | some v =>
      if x.ending || (x.contested && x.credit v ≤ 0) then s.endTurn quad
      else if x.credit v ≤ 0 && x.ring.contains v then s.renewTurn quad v
      else s
    | none => s)

/-- IDLE_TURN_END (R310): 4,096 cycles without an issue or engine work; `idle` counts from the last cycle that had one, and from 1 at
a turn's start. The deficit is dropped. -/
def execIdleTurnEnd (quad : Nat) (s : State) : Host.Outcome State Fault Refusal :=
  let x := s.quad quad
  .next (match x.vd with
    | some v =>
      if x.idle > 4096 && x.ring != [] then
        let s := s.modQuad quad fun x => { x with deficit := assocSet v 0 x.deficit }
        if x.contested then s.endTurn quad else s.renewTurn quad v
      else s
    | none => s)

/-! ## The ring (R310) -/

/-- Whether a quad belongs to a VD's partition. -/
def State.quadOfVd (s : State) (quad vd : Nat) : Bool :=
  (s.rmap quad).assigned && (s.rmap quad).part == (s.vd vd).part

/-- Whether a block has lost its quad to another partition, so that its gang waits for a new one (R314). -/
def State.homeless (s : State) (b : Block) : Bool := b.halted && !s.quadOfVd (b.core / 4) b.vd

/-- Whether Quay holds work of a VD that waits for a quad. -/
def State.hasWaiting (s : State) (vd : Nat) : Bool :=
  !(s.waitingGangs 0 vd).isEmpty || !(s.waitingGangs 1 vd).isEmpty || (s.blocks.any fun b => b.vd == vd && s.homeless b)

/-- Whether a VD is eligible on a quad. -/
def State.eligible (s : State) (quad vd : Nat) : Bool :=
  s.vdActive vd && s.quadOfVd quad vd && ((s.blocks.any fun b => b.core / 4 == quad && b.vd == vd) || s.hasWaiting vd)

/-- The VD after whose place in the ring the next turn goes on, when some leave: the last one before it that stays; 0 stands
for none, and then the first of the ring is next. -/
def ringPlace (old stay : List Nat) (last : Nat) : Nat :=
  if stay.contains last || !old.contains last then last
  else ((old.takeWhile (· != last)).filter stay.contains).getLast?.getD 0

/-- The ring kept up: new VDs join at the end, others leave with D = 0; a VD that leaves in its turn has its place kept. -/
def State.updateRing (s : State) (quad : Nat) : State :=
  let x := s.quad quad
  let el := (s.vds.map (·.id)).filter fun v => v != 0 && s.eligible quad v
  let stay := x.ring.filter el.contains
  let ring := stay ++ el.filter fun v => !stay.contains v
  let last := match x.vd with
    | some v => if x.ring.contains v && !stay.contains v then v else x.last
    | none => x.last
  s.modQuad quad fun x =>
    { x with ring := ring, last := ringPlace x.ring stay last, deficit := x.deficit.filter fun d => ring.contains d.1 }

/-- The VD after the last one in a ring. -/
def ringNext (ring : List Nat) (last : Nat) : Option Nat :=
  match (ring.dropWhile (· != last)).drop 1 with
  | v :: _ => some v
  | [] => ring.head?

/-- The halted blocks that a turn brings back: those of the quad whose kernel is not suspended. -/
def State.toResume (s : State) (quad vd : Nat) : List Nat :=
  (s.blocks.filter fun b => b.core / 4 == quad && b.vd == vd && b.halted && !(s.ke b.kernel).suspended).map (·.id)

/-- TURN_START (R310): the next eligible VD takes the turn; cores that change VD lose their lane registers (R347). None starts on a
quad that stands still for a departure (R318). -/
def execTurnStart (quad : Nat) (s : State) : Host.Outcome State Fault Refusal :=
  let s := s.updateRing quad
  let x := s.quad quad
  .next (if x.vd.isSome || x.hold then s
    else match ringNext x.ring x.last with
      | none => s
      | some v =>
        let s := s.modQuad quad fun x =>
          { x with
            vd := some v, idle := 1, ending := false
            deficit := assocSet v (x.credit v + ((s.vd v).weight * quantum : Nat)) x.deficit }
        let s := (List.range 4).foldl (fun (s : State) k =>
          s.modCo (4 * quad + k) fun c => if c.vd == v then c else { c with vd := v, lanes := [] }) s
        (s.toResume quad v).foldl (fun s b => s.push (.blockResume b)) s)

/-! ## Resuming (R313) -/

/-- Rows brought back to the bundles of a block on its core, but for those that a RALLOC has taken from a waiting one (R291); none
when they do not suffice. -/
def State.refillRows (s : State) (vd core : Nat) : List Bundle → Option State
  | [] => some s
  | b :: r =>
    match s.claimRows core b.sub (b.alloc - b.lent - b.rowsHere) vd with
    | none => none
    | some (s, rows) => (s.modBu b.blk b.idx fun x => { x with here := x.here ++ rows }).refillRows vd core r

/-- The engine of the same kind on another core, a matrix engine on a sub-core there. -/
def engOnCore (e : EngId) (core sub : Nat) : EngId :=
  match e with
  | .matrix _ _ => .matrix core sub
  | .copy _ => .copy core
  | .fabric _ => .fabric core
  | e => e

/-- A VD's weight-buffer contents follow its bundles to the sub-cores of another core: each pair names an old and a new sub-core
(R165). -/
def State.moveImages (s : State) (vd old new : Nat) (map : List (Nat × Nat)) : State :=
  let ws := (map.filter fun m => old != new || m.1 != m.2).map fun m => { s.wbuf old m.1 vd with core := new, sub := m.2 }
  ws.foldl (fun (s : State) w =>
    let here (x : WBuf) : Bool := x.core == new && x.sub == w.sub
    ({ s with wbufs := s.wbufs.filter fun x => !(here x && x.vd == vd) } : State).modVd vd fun v =>
      { v with images := w :: v.images.filter fun x => !here x }) s

/-- What a resumption on the other die does before the block runs (R215): the old die writes back the VD's dirty far-partition
bytes, and the new die invalidates the VD's far-partition lines. -/
def State.crossDies (s : State) (vd old new : Nat) : State :=
  if old == new then s else s.unmetered fun s => (s.farWriteBackVd old vd).farInvalidateVd new vd

/-- The core cycle of one die that is as long ago as a given one of another die (R4). -/
def State.rebase (s : State) (old new since : Nat) : Nat := s.cycles new - (s.cycles old - since)

/-- A block named to another core, with its commands, its bins and the host ports that it has written. The
core's L1 lines go first, so that the block misses none of its stores (R215). The time that a command has waited for its flits goes
on in the cycles of its new die (R4). -/
def State.moveCore (s : State) (blk new : Nat) : State :=
  let b := s.bk blk
  if b.core == new then s
  else
    let s := s.unmetered fun s => (s.l1WriteBackAll b.core).l1InvalidateAll new
    let s := s.crossDies b.vd (dieOfCore b.core) (dieOfCore new)
    let bins := (s.co b.core).bins.filter fun x => x.blk == blk
    let posted := (s.co b.core).posted
    let s := (s.modCo b.core fun c => { c with bins := c.bins.filter fun x => x.blk != blk }).serveSpawners b.core
    let s := s.modCo new fun c => { c with bins := c.bins ++ bins, posted := posted.foldl (fun l p => setIns p l) c.posted }
    let since := s.rebase (dieOfCore b.core) (dieOfCore new)
    ({ s with cmds := s.cmds.map fun c => if c.blk == blk then { c with since := since c.since } else c } : State).modBk blk
      fun b => { b with core := new }

/-- The sub-core for the bundles of an old one: where `map` has sent others of it; else one that `map` does not use, one with none of
the VD's bundles before the others, then the one with the fewest resident bundles, the lowest on a tie (R165, R308; log entry 51). -/
def State.seatFor (s : State) (core vd : Nat) (map : List (Nat × Nat)) (old : Nat) : Nat :=
  match assocGet old map with
  | some n => n
  | none =>
    let own (k : Nat) : Bool := (s.bundlesOn core k).any fun b => s.hasSlot b && (s.bk b.blk).vd == vd
    let n (k : Nat) : Nat := (s.slotsOn core k).length
    let better (a b : Nat) : Bool := if own a != own b then own b else n a < n b
    match (List.range 4).filter fun k => !(map.any fun m => m.2 == k) with
    | [] => s.leastSub core
    | k :: r => r.foldl (fun m x => if better x m then x else m) k

/-- The bundles of a moved block seated on a core, one by one (R308), those that shared a sub-core on one again, with their matrix
commands (R165); `map` says where the sub-cores have gone. -/
def State.reseat (s : State) (vd core : Nat) (map : List (Nat × Nat)) : List Bundle → Option (State × List (Nat × Nat))
  | [] => some (s, map)
  | b :: r =>
    let sub := s.seatFor core vd map b.sub
    match s.freeSlot core sub, s.claimRows core sub (b.alloc - b.lent) vd with
    | some slot, some (s, rows) =>
      let s := s.modBu b.blk b.idx fun x => { x with sub := sub, slot := slot, here := rows }
      let s : State := { s with cmds := s.cmds.map fun c =>
        if c.blk == b.blk && c.bun == b.idx then { c with eng := engOnCore c.eng core sub } else c }
      s.reseat vd core (assocSet b.sub sub map) r
    | _, _ => none

/-- Whether a core has bins left for those of a block (R273). -/
def State.binsFit (s : State) (blk core : Nat) : Bool :=
  core == (s.bk blk).core || (s.co core).bins.length + ((s.co (s.bk blk).core).bins.countP fun x => x.blk == blk) ≤ 16

/-- A block restored whole on a core, if it fits (R308, R313). -/
def State.restoreTo (s : State) (blk core : Nat) (map : List (Nat × Nat)) : Option (State × List (Nat × Nat)) :=
  let b := s.bk blk
  let d := (s.ke b.kernel).desc
  let s := s.evict blk
  match if s.binsFit blk core then s.openCore core d.split b.vd else none with
  | none => none
  | some s =>
    match s.claimRange core b.bytes d.split b.vd with
    | none => none
    | some (s, base) =>
      let (_, s) := s.fresh
      let s := (s.moveCore blk core).modBk blk fun b => { b with base := base, scrHere := true, seatedAt := s.seq }
      s.reseat b.vd core map (s.bundlesOf blk)

def coresOfQuad (quad : Nat) : List Nat := (List.range 4).map (4 * quad + ·)

/-- Whether a block's scratchpad is still in place, on a core of its kernel's split. -/
def State.inPlace (s : State) (b : Block) : Bool := b.scrHere && (s.co b.core).split == (s.ke b.kernel).desc.split

/-- Whether a block was on its core at the moment at which another was seated there, or halted. -/
def Block.overlaps (a b : Block) : Bool := !b.halted || a.seatedAt < b.haltedAt

/-- Whether two blocks of a VD had bundles on one sub-core, both resident there, when they last ran (R165). -/
def State.sharing (s : State) (a b : Block) : Bool :=
  a.core == b.core && a.vd == b.vd && a.overlaps b && b.overlaps a &&
    (s.bundlesOf a.id).any fun x => (s.bundlesOf b.id).any fun y => x.sub == y.sub

/-- The blocks of a list that share a sub-core with some blocks, directly or through others: each round joins a further one of a
core's four sub-cores. -/
def State.sharersIn (s : State) (pool : List Block) : Nat → List Block → List Block
  | 0, l => l
  | n + 1, l => s.sharersIn pool n (pool.filter fun b => l.any fun a => a.id == b.id || s.sharing a b)

/-- The blocks that go where a block goes, the block among them (R165). A suspended kernel's come back by themselves (R314). -/
def State.sharers (s : State) (blk : Nat) : List Block :=
  let b := s.bk blk
  let alone (x : Block) : Bool := (s.ke x.kernel).suspended
  s.sharersIn (s.blocks.filter fun x => x.kernel == b.kernel || !(alone x || alone b)) 4 [b]

/-- Some blocks restored on one core. -/
def State.restoreEach (s : State) (core : Nat) (map : List (Nat × Nat)) : List Nat → Option (State × List (Nat × Nat))
  | [] => some (s, map)
  | b :: r =>
    match s.restoreTo b core map with
    | some (s', map') => s'.restoreEach core map' r
    | none => none

/-- A block brought to one of some cores with all that shared a sub-core with it, and their weight-buffer contents (R165): the lowest
core that fits those that are out of place (R313), and the core itself of those that are still in place. -/
def State.restoreUnit (s : State) (blk : Nat) (cores : List Nat) : Option State :=
  let b := s.bk blk
  let unit := s.sharers blk
  let inn := unit.filter s.inPlace
  let map := ((inn.flatMap fun x => (s.bundlesOf x.id).map (·.sub)).eraseDups).map fun k => (k, k)
  let out := ((unit.filter fun x => !s.inPlace x).map (·.id)).inOrder fun a b => a ≤ b
  (if inn.isEmpty then cores else [b.core]).findSome? fun c =>
    (s.restoreEach c map out).map fun (s', map') => s'.moveImages b.vd b.core c map'

/-- A block brought back: in place where its scratchpad range and split are still there, otherwise on the lowest core of
the quad that fits it (R313), with those that shared a sub-core with it. -/
def State.restore (s : State) (blk : Nat) : Option State :=
  let b := s.bk blk
  if s.inPlace b then s.refillRows b.vd b.core (s.bundlesOf blk) else s.restoreUnit blk (coresOfQuad (b.core / 4))

/-- Waiters of a resumed block whose barrier has passed meanwhile (R262). -/
def State.recheckBars (s : State) (blk : Nat) : State :=
  (s.threads.filter fun x => x.ref.blk == blk).foldl (fun s x =>
    match x.park with
    | .bwait b off _ _ _ => s.releaseBar b off
    | _ => s) s

/-- A restored block runs: woken operations are presented (R244), in the order in which they came to their words' queues (DESIGN CHOICE,
log entry 58); waiters compare again, spawners are served. -/
def State.restart (s : State) (blk : Nat) : State :=
  let s := s.modBk blk fun b => { b with halted := false }
  let woken (e : FeWait) : Bool := e.ref.blk == blk && (match e.place with | .woken _ => true | _ => false)
  let s : State := { s with agenda := s.agenda ++ (s.feq.filter woken).map fun e => .fePresent e.ref }
  (s.recheckBars blk).serveSpawners (s.bk blk).core

/-- BLOCK_RESUME (R313): the block's VD has the turn; a block that does not fit yet stays halted. -/
def execBlockResume (blk : Nat) (s : State) : Host.Outcome State Fault Refusal :=
  let b := s.bk blk
  let quad := b.core / 4
  .next (if !s.hasBk blk || !b.halted || s.quadVd quad != some b.vd || (s.quad quad).ending || (s.ke b.kernel).suspended then s
    else match s.restore blk with
      | some s' => s'.restart blk
      | none => s)

/-! ## Gangs that lost their quad (R314) -/

/-- The blocks of a gang in ascending GANG. -/
def State.gangBlocks (s : State) (g : Nat) : List Nat :=
  ((s.blocks.filter fun b => b.gang == g).inOrder fun a b => a.gangIdx ≤ b.gangIdx).map (·.id)

/-- Some blocks restored on a quad, all or none. -/
def State.restoreAll (s : State) (quad : Nat) : List Nat → Option State
  | [] => some s
  | b :: r =>
    if (s.bk b).core / 4 == quad && s.inPlace (s.bk b) then s.restoreAll quad r
    else match s.restoreUnit b (coresOfQuad quad) with
      | some s' => s'.restoreAll quad r
      | none => none

/-- The gangs that go where a gang goes, because blocks of theirs share sub-cores (R165). -/
def State.kinOf (s : State) : Nat → List Nat → List Nat
  | 0, l => l
  | n + 1, l => s.kinOf n (((l.flatMap s.gangBlocks).flatMap fun b => (s.sharers b).map (·.gang)).eraseDups)

/-- A gang restored on the lowest quad where its VD is active and that it fits, with those that share sub-cores with it. -/
def State.rehome (s : State) (g : Nat) : List (Nat × Nat) → Option State
  | [] => none
  | q :: r =>
    let vd := (s.ke (s.ga g).kernel).vd
    let gs := s.kinOf s.gangs.length [g]
    let bs := gs.flatMap s.gangBlocks
    if s.quadVd q.2 == some vd && !(s.quad q.2).ending then
      match s.restoreAll q.2 bs with
      | some s' =>
        let s' := gs.foldl (fun s g => s.modGa g fun x => { x with quad := q.1 }) s'
        let s' := bs.foldl (fun s b => s.modBk b fun x => { x with quad := q.1 }) s'
        some (bs.foldl State.restart s')
      | none => s.rehome g r
    else s.rehome g r

/-- Several gangs restored, all or none. -/
def State.rehomeAll (s : State) (vd : Nat) : List Nat → Option State
  | [] => some s
  | g :: r =>
    if (s.gangBlocks g).all fun b => !(s.bk b).halted then s.rehomeAll vd r
    else match s.rehome g (s.quadsOf vd) with
      | some s' => s'.rehomeAll vd r
      | none => none

/-- The gangs of a kernel, oldest first. -/
def State.gangsOf (s : State) (k : Nat) : List Nat := (s.gangs.filter fun g => g.kernel == k).map (·.id)

/-- A suspended cooperative kernel of a die and VD resumed whole, if it fits. -/
def State.resumeCoop (s : State) (die vd : Nat) : Option State :=
  (s.kernels.filter fun k => k.vd == vd && k.home == die && k.suspended).findSome? fun k =>
    (s.rehomeAll vd (s.gangsOf k.id)).map fun s => s.modKe k.id fun x => { x with suspended := false }

/-- A homeless gang that is not cooperative restored, if one fits. -/
def State.rehomeOne (s : State) (die vd : Nat) : Option State :=
  (s.gangs.filter fun g =>
    let k := s.ke g.kernel
    k.vd == vd && k.home == die && !k.suspended && (s.gangBlocks g.id).any fun b => s.homeless (s.bk b)).findSome?
      fun g => s.rehome g.id (s.quadsOf vd)

/-! ## Placement (R308) -/

/-- The first waiting gang, or the whole of a cooperative kernel, placed if it fits. -/
def State.placeFirst (s : State) (die vd : Nat) : State :=
  match s.firstGang die vd with
  | none => s
  | some (id, plan) =>
    let k := s.ke id
    let before := s.coresOfKernel id
    let placed : Option State := match plan with
      | some p => (s.placeLowest k p).map fun s => s.modKe id fun x => { x with plans := x.plans.filter (· != p) }
      | none =>
        if k.desc.cooperative then
          (s.placeAll k ((List.range k.gangs).map k.planOf)).map fun s => s.modKe id fun x => { x with next := x.gangs }
        else (s.placeLowest k (k.planOf k.next)).map fun s => s.modKe id fun x => { x with next := x.next + 1 }
    match placed with
    | none => s
    | some s' => s'.freshenCores vd ((s'.coresOfKernel id).filter fun c => !before.contains c)

/-- GANG_PLACEMENT (R303, R308, R314), by a Quay that is not drained (R428): gangs that lost their quad, then suspended kernels, then the first waiting gang. -/
def execGangPlacement (die vd : Nat) (s : State) : Host.Outcome State Fault Refusal :=
  .next (if !s.vdActive vd || !s.quayRuns die then s
    else match s.rehomeOne die vd with
      | some s' => s'
      | none => match s.resumeCoop die vd with
        | some s' => s'
        | none => s.placeFirst die vd)

/-- The state with nothing resident but a kernel, and its VD's turn on every quad. -/
def State.onlyKernel (s : State) (k : Kernel) : State :=
  let mine (blk : Nat) : Bool := (s.bk blk).kernel == k.id
  { s with
    bundles := s.bundles.filter fun b => mine b.blk
    blocks := s.blocks.filter fun b => b.kernel == k.id
    cores := s.cores.map fun c => { c with bins := c.bins.filter fun b => mine b.blk }
    quads := List.replicate 32 { vd := some k.vd } }

/-- What a quad that leaves its partition does to a cooperative kernel with blocks on it (R314): it is never partly resident, so
every block is halted and evicted until all fit again; if the blocks that remain, with the rows that they hold, no longer fit the
partition at all, the VD is told. -/
def State.suspendCoop (s : State) (k : Kernel) : State :=
  if k.suspended then s
  else
    let bs := (s.blocks.filter fun b => b.kernel == k.id).map (·.id)
    let cores := s.coresOfKernel k.id
    let s := bs.foldl (fun (s : State) b => if (s.bk b).halted then s else s.haltBlock b) s
    let s := s.unmetered fun s => cores.foldl State.l1InvalidateAll s
    let s := bs.foldl State.evict s
    let s := s.modKe k.id fun x => { x with suspended := true }
    if ((s.onlyKernel k).rehomeAll k.vd (s.gangsOf k.id)).isSome then s
    else s.post k.vd { kind := 6, queue := k.q, pkt := k.pkt }

/-- A quad emptied: its blocks of every VD are halted, where they are not yet, and evicted, and its cooperative kernels suspended
(R314). -/
def State.clearQuad (s : State) (quad : Nat) : State :=
  let on := s.blocks.filter fun b => b.core / 4 == quad
  let s := s.haltQuad quad
  let s := on.foldl (fun (s : State) b => s.evict b.id) s
  let ks := (on.map (·.kernel)).eraseDups
  let s := s.modQuad quad fun _ => {}
  ks.foldl (fun s k => if (s.ke k).desc.cooperative then s.suspendCoop (s.ke k) else s) s

/-! ## Quads that stand still (R311, R318) -/

/-- The quads that must have halted before some quads leave: those, and the others on which cooperative kernels of theirs run, which
are never partly resident (R314). -/
def State.mustStand (s : State) (qs : List Nat) : List Nat :=
  let on (b : Block) : Bool := qs.contains (b.core / 4)
  let ks := (((s.blocks.filter on).map (·.kernel)).eraseDups).filter fun k => (s.ke k).desc.cooperative && !(s.ke k).suspended
  (qs ++ (s.blocks.filter fun b : Block => ks.contains b.kernel).map fun b : Block => b.core / 4).eraseDups

/-- Whether every VD's blocks on some quads are halted. -/
def State.standing (s : State) (qs : List Nat) : Bool := (s.mustStand qs).all fun q => (s.quadVd q).isNone

/-- Some quads begin to stand still: their halts begin, and no turn starts there (R311). -/
def State.holdQuads (s : State) (qs : List Nat) : State :=
  (s.mustStand qs).foldl (fun s q => s.modQuad q fun x => { x with hold := true, ending := x.vd.isSome }) s

/-- The quads go on. -/
def State.freeQuadsOf (s : State) (qs : List Nat) : State := qs.foldl (fun s q => s.modQuad q fun x => { x with hold := false }) s

end Sys2Proof.Machine
end

