-- ==== Sys2Proof/Machine/Ring.lean ====
section
/-! DEFINITION. The call rings (R326 to R330): reading the next slot, and what ends a call. -/

namespace Sys2Proof.Machine

/-! ## Statuses (R329) -/

def stOk : Nat := 0
def stUnknown : Nat := 1
def stDenied : Nat := 2
def stBadArg : Nat := 3
def stBadState : Nat := 4
def stNoSpace : Nat := 5
def stBoth : Nat := 6
def stTimeout : Nat := 7
def stBusy : Nat := 8

/-- The step that performs a call (R328, R368, R388); none for a code that is not assigned. -/
def callEvent (c : CallSlot) : Option Event :=
  match c.op with
  | 0x01 => some (.createVd c)
  | 0x02 => some (.destroyVd c)
  | 0x03 => some (.resetVd c)
  | 0x04 => some (.setWeight c)
  | 0x05 => some (.setMeter c)
  | 0x06 => some (.setIrq c)
  | 0x07 => some (.setPart c)
  | 0x08 => some (.moveBlock c)
  | 0x09 => some (.blockAck c)
  | 0x0A => some (.query c)
  | 0x0B => some (.setRank c)
  | 0x20 => some (.setRoot c)
  | 0x21 => some (.tlbInval c)
  | 0x22 => some (.pfResolve c)
  | 0x23 => some (.poolAdd c)
  | 0x24 => some (.setBacking c)
  | 0x25 => some (.setAperture c)
  | 0x26 => some (.setShared c)
  | 0x27 => some (.queryScrub c)
  | _ => none

/-! ## Reading a slot (R327) -/

/-- The reader that the call ring is among a VD's host reads. -/
def ringReader : Nat := 128

/-- The 64 bytes of a slot, if stage 2 lets the ring's VD read and write it and no byte is poisoned. -/
def State.slotBytes (s : State) (ring gpa : Nat) : QRead (List Byte) :=
  match s.place ring gpa .read, s.place ring gpa .write with
  | some l, some _ => s.quayAt ringReader gpa l 64
  | _, _ => .xlate s

/-- The fields of a slot. -/
def readSlot (ring gpa : Nat) (bs : List Byte) : CallSlot :=
  { ring := ring, gpa := gpa, op := bytesAt bs 0 2, tag := bytesAt bs 4 4, a0 := dw (bytesAt bs 8 8), a1 := dw (bytesAt bs 16 8)
    a2 := dw (bytesAt bs 24 8), a3 := dw (bytesAt bs 32 8), a4 := dw (bytesAt bs 40 8) }

/-- Whether a slot's reserved bytes are zero. -/
def slotClean (bs : List Byte) : Bool := bytesAt bs 2 2 == 0 && bytesAt bs 60 4 == 0

/-- The service budget of a ring for each period (R330). -/
def Vd.budget (v : Vd) : Int := ((if v.id == 0 then 255 else v.svcw) * 4096 : Nat)

/-- Whether a ring lies in host memory and its VD does no DMA (R376): Harbour neither reads nor answers it. -/
def State.ringShut (s : State) (ring : Nat) : Bool := s.noDma ring && 2 ^ 47 ≤ (s.ctl ring).crbase.toNat

/-- Whether Harbour takes the next call of a ring: calls are published, none is being performed, and BUD is positive. -/
def State.callDue (s : State) (ring : Nat) : Bool :=
  let c := s.ctl ring
  s.hasVd ring && ringEn c.crctl && !c.busy && c.crwidx != c.crdone && (s.vd ring).bud > 0 && !s.ringShut ring

/-- The page that Harbour is bringing in for a VD, the oldest first, while its ring's BUD is positive (R330, R358). -/
def State.pageDue (s : State) (ring : Nat) : Option FaultRec :=
  if (s.vd ring).bud > 0 then (s.vd ring).faults.find? FaultRec.paging else none

/-- Whether a ring has pending work that its budget lets Harbour take (R330). -/
def State.workDue (s : State) (ring : Nat) : Bool := s.callDue ring || (s.pageDue ring).isSome

/-- CRDONE incremented, and source 9 raised (R327). -/
def State.callDone (s : State) (ring : Nat) : State :=
  (s.modCtl ring fun x => { x with crdone := x.crdone + 1, busy := false, ending := none }).fire ring 9

/-- A call ends (R327, R329): RESULT and STATUS are written, then CRDONE is incremented as a release at SYS; in a host aperture a
zero-length read comes between (R195). A call that fails answers 0. -/
def State.endCall (s : State) (c : CallSlot) (status result : Nat) : State :=
  if !s.hasVd c.ring then s
  else
    let s := (s.headWrite c.ring (c.gpa + 48) 8 result).1
    let s := (s.headWrite c.ring (c.gpa + 56) 4 status).1
    match s.place c.ring c.gpa .write with
    | some (.host _ ap g) => s.modCtl c.ring fun x => { x with ending := some ((s.busAddr c.ring ap g).1, none) }
    | _ => s.callDone c.ring

/-- The end of a call whose slot is in host memory: the zero-length read behind its writes is sent, and once it is answered the call
is done. -/
def State.finishCall (s : State) (ring : Nat) : State :=
  match (s.ctl ring).ending with
  | none => s
  | some (port, none) =>
    if s.noDma ring then s.callDone ring
    else if s.flushFree port then
      let (tag, s) := s.sendFlush ring port none
      s.modCtl ring fun x => { x with ending := some (port, some tag) }
    else s
  | some (_, some tag) => if s.reqs.any fun r => r.tag == tag then s else s.callDone ring

/-- The oldest entry of a fault queue in host memory whose zero-length read is due or answered (R195, R416). -/
def State.finishFq (s : State) (ring : Nat) : State :=
  let done (s : State) : State := (s.modCtl ring fun c => { c with fqWait := c.fqWait.drop 1 }).fqAdvance ring
  match (s.ctl ring).fqWait with
  | [] => s
  | (port, none) :: r =>
    if s.noDma ring then done s
    else if s.flushFree port then
      let (tag, s) := s.sendFlush ring port none
      s.modCtl ring fun c => { c with fqWait := (port, some tag) :: r }
    else s
  | (_, some tag) :: _ => if s.reqs.any fun r => r.tag == tag then s else done s

/-- A slot that cannot be read disables its ring (R327, CALLRING_FAULT). -/
def State.ringFault (s : State) (ring gpa : Nat) : State :=
  ((s.forgetGot ring ringReader).modCtl ring fun c => { c with crctl := c.crctl &&& ~~~ 1#32 }).post ring { kind := 0x0E, val := gpa }

/-- Whether boot has failed in a way that leaves every call at BADSTATE (R435). -/
def State.callsDead (s : State) : Bool := s.boot.status == 1 || s.boot.status == 2 || s.boot.status == 4

/-- A visit of a Harbour core to a ring (R330): its next call taken, at the cost of one service cycle (log entry 19). After a failed boot
it ends with BADSTATE (R435); a code that no step performs, or a reserved field, ends it with UNKNOWN; any other call is handed to its step. A slot in host memory is read
first, and the ring visited again. -/
def State.serveRing (s : State) (ring : Nat) : State :=
  if !s.callDue ring then s
  else
    let c := s.ctl ring
    let gpa := c.crbase.toNat + 64 * (c.crdone.toNat % 2 ^ ringSize c.crctl)
    match s.slotBytes ring gpa with
    | .wait s => s
    | .xlate s => s.ringFault ring gpa
    | .poison s => s.ringFault ring gpa
    | .ok s bs =>
      let call := readSlot ring gpa bs
      let s := ((s.forgetGot ring ringReader).chargeRing ring).modCtl ring fun c => { c with busy := true }
      if s.callsDead then s.endCall call stBadState 0
      else match callEvent call, slotClean bs with
      | some e, true => s.push e
      | _, _ => s.endCall call stUnknown 0

/-- A visit of a Harbour core to a ring that has pending work: its next call, or its next page-in. -/
def State.visit (s : State) (ring : Nat) : State :=
  if s.callDue ring then s.serveRing ring
  else match s.pageDue ring with
    | some f => s.push (.pageIn ring f.fid)
    | none => s

/-- The Harbour cores (R20): each takes at most one call or page-in in a service cycle. -/
def harbourCores : Nat := 16

/-- A service cycle of the Harbour cores (R330): they take work in round-robin order, from the ring after the last one taken. -/
def State.serveRings (s : State) : State :=
  let due := (s.vds.map (·.id)).filter s.workDue
  let order := (due.filter (s.ringLast < ·)).inOrder (fun a b => a ≤ b) ++ (due.filter (· ≤ s.ringLast)).inOrder fun a b => a ≤ b
  let now := order.take harbourCores
  now.foldl State.visit { s with ringLast := now.getLast?.getD s.ringLast }

/-! ## What a call's arguments must satisfy -/

/-- Whether the argument words have no bit outside some masks (R327). -/
def callWithin (c : CallSlot) (m0 m1 m2 m3 m4 : Nat) : Bool :=
  [(c.a0, m0), (c.a1, m1), (c.a2, m2), (c.a3, m3), (c.a4, m4)].all fun x => x.1.toNat &&& x.2 == x.1.toNat

/-- Every bit of an argument word. -/
def allBits : Nat := 2 ^ 64 - 1

/-- A call from the operator's ring. -/
def byOperator (c : CallSlot) : Bool := c.ring == 0

/-- A call performed: after a failed boot BADSTATE; then reserved bits, then the ring that may make it; then its own part. -/
def State.call (s : State) (c : CallSlot) (clean allowed : Bool) (body : State → State) : Host.Outcome State Fault Refusal :=
  .next (if s.callsDead then s.endCall c stBadState 0
    else if !clean then s.endCall c stUnknown 0
    else if !allowed then s.endCall c stDenied 0
    else body s)

end Sys2Proof.Machine
end

