-- ==== Sys2Proof/Machine/Shoot.lean ====
section
/-! DEFINITION. Shoot-downs (R364, R365), the resolution of fault records (R355), and the calls that change a VD's
translation (R351, R352, R368). -/

namespace Sys2Proof.Machine

/-! ## Invalidation (R364) -/

def TlbEntry.hits (e : TlbEntry) (vd lo hi : Nat) : Bool := e.vd == vd && e.va < hi && lo < e.va + e.size

/-- Whether a thread holds a buffered store whose translation is invalidated. -/
def Thread.holds (x : Thread) (lo hi : Nat) : Bool := x.stores.any fun b => b.pageVa < hi && lo < b.pageVa + b.pageSize

/-- A thread restarts at REGIONPC after a shoot-down of a buffered translation (R223): its pending full/empty operation, if
any, is dropped with the region. -/
def State.restartRegion (s : State) (t : TRef) : State := (s.feDrop t).replay t

/-- Step 1 for a core: the matching lane registers and TLB entries, and the VD's walk-cache entries. -/
def Core.forget (c : Core) (vd lo hi : Nat) : Core :=
  { c with tlb := c.tlb.filter fun e => !e.hits vd lo hi
           lanes := c.lanes.filter fun x => !x.2.2.hits vd lo hi
           walks := c.walks.filter fun e => e.vd != vd }

/-- Whether a pending full/empty operation is on a word of a page whose translation a shoot-down takes away: its address lies
in the range, or in a cached page that the range touches. -/
def State.feShot (s : State) (vd lo hi : Nat) (e : FeWait) : Bool :=
  let va := e.va.toNat
  let on (x : TlbEntry) : Bool := x.hits vd lo hi && x.va ≤ va && va < x.va + x.size
  let c := s.co (s.coreOf e.ref)
  (match e.loc with | .dev _ _ _ => true | _ => false) && s.vdOf e.ref == vd && ((lo ≤ va && va < hi) || c.tlb.any on || c.lanes.any fun x => on x.2.2)

/-- The steps of a core: its pending full/empty operations on words of the pages are presented again (R248), then its caches of
translations, its threads' buffered stores, and the VD's L1 lines. -/
def State.invalidateCore (s : State) (core vd lo hi : Nat) : State :=
  let s := s.feWake fun e => s.coreOf e.ref == core && s.feShot vd lo hi e
  let s := s.modCo core fun c => c.forget vd lo hi
  let hit := s.threads.filter fun x => s.coreOf x.ref == core && s.vdOf x.ref == vd && x.holds lo hi
  let s := hit.foldl (fun s x => s.restartRegion x.ref) s
  let mine := (s.co core).l1.filter fun l => l.vd == vd
  mine.foldl (fun s l => (s.l1WriteBack core vd l.line).l1Drop core vd l.line) s

/-- One translation unit's steps. -/
def State.invalidate (s : State) (u : UnitId) (vd lo hi : Nat) : State :=
  match u with
  | .core c => s.invalidateCore c vd lo hi
  | .quay die => { s with quayTlb := s.quayTlb.filter fun x => !(x.1 == die && x.2.hits vd lo hi) }

/-- INVALIDATION (R364). -/
def execInvalidation (u : UnitId) (vd lo hi : Nat) (s : State) : Host.Outcome State Fault Refusal :=
  .next (s.invalidate u vd lo hi)

/-- Whether a core holds something of a VD that a shoot-down concerns, though its quad has left the VD's partition: the stores of
a block that waits for a new home, or translations (R223, R364). -/
def State.holdsOf (s : State) (core vd : Nat) : Bool :=
  let c := s.co core
  (s.blocks.any fun b => b.core == core && b.vd == vd) || (c.tlb.any fun e => e.vd == vd) || (c.lanes.any fun x => x.2.2.vd == vd) ||
    c.walks.any fun e => e.vd == vd

/-- The units that a shoot-down of a VD reaches: every core of its partition, and both dies' Quay. -/
def State.unitsOf (s : State) (vd : Nat) : List UnitId :=
  ((List.range 128).filter fun c =>
    ((s.rmap (c / 4)).assigned && (s.rmap (c / 4)).part == (s.vd vd).part) || s.holdsOf c vd).map .core ++ [.quay 0, .quay 1]

/-- Whether a waiting posted write of a VD was made under a translation of a range. -/
def PostWait.under (x : PostWait) (vd lo hi : Nat) : Bool :=
  x.vd == vd && x.by_.va / 65536 * 65536 < hi && lo < x.by_.va / 65536 * 65536 + 65536

/-- A shoot-down of a range of a VD, complete when every unit has acknowledged. The VD's waiting requests are served first, each with its
token, and its write-backs are not metered (R335). Posted writes of the range that wait on their port are marked: what has asked for the
shoot-down ends once they have left (R364). -/
def State.shootDown (s : State) (vd lo hi : Nat) : State :=
  let s := s.serveWaiting vd
  let s := s.unmetered fun s => (s.unitsOf vd).foldl (fun s u => s.invalidate u vd lo hi) s
  { s with posts := s.posts.map fun x => if x.under vd lo hi then { x with old := true } else x }

/-- Whether a posted write that a shoot-down of a VD waits for has not yet left. -/
def State.shotBusy (s : State) (vd : Nat) : Bool := s.posts.any fun x => x.vd == vd && x.old

/-- The end of a call that has shot its VD down: at once, or when the host writes made under the old translation have been issued
(R364; log entry 47). -/
def State.endShot (s : State) (c : CallSlot) : State :=
  if s.shotBusy c.ring then s.modVd c.ring fun v => { v with shot := some c } else s.endCall c stOk 0

/-- A call that waits for such writes ends. -/
def State.shotDone (s : State) (vd : Nat) : State :=
  match (s.vd vd).shot with
  | some c => if s.shotBusy vd then s else (s.modVd vd fun v => { v with shot := none }).endCall c stOk 0
  | none => s

/-- A shoot-down of a whole VD. -/
def State.shootVd (s : State) (vd : Nat) : State := s.shootDown vd 0 (2 ^ 52)

/-! ## Resolving a fault (R355) -/

/-- A denied command: the fault row with PROT, or for a Quay copy its notice. -/
def State.denyCmd (s : State) (c : Cmd) : State :=
  let va : Nat := match c.fault with
    | some f => f.va.toNat
    | none => 0
  let f := c.addrFault causeProt va 0 1
  let s := s.modCmd c.id fun x => { x with fault := some f }
  match c.eng with
  | .quay _ => s.quayFault c f
  | _ => s.faultRow c f

/-- What a resolution does to one attached party. -/
def State.settle (s : State) (vd : Nat) (f : FaultRec) (deny : Bool) (p : Party) : State :=
  match p with
  | .thread t =>
    if (s.th t).park != .fault f.fid then s
    else if deny then
      let s := s.modTh t fun x => { x with park := .running }
      s.enterTrap t causeProt (s.th t).regionPc (s.th t).faultVa
    else (s.uncacheTr (s.walkerOf t) vd (s.th t).faultVa.toNat).modTh t fun x => { x with park := .running }
  | .cmd id =>
    if deny && s.hasCmd id && (s.cmd id).isSetAside then s.denyCmd (s.cmd id)
    else if s.hasCmd id then s.uncacheTr (s.cmdWalker (s.cmd id)) vd (65536 * f.vpage)
    else s
  | .quay q =>
    (s.uncacheTr (.quay (qHome (s.queue vd q))) vd (65536 * f.vpage)).modQueue vd q fun u =>
      { u with pktPoll := {}, sigPoll := {}, denied := if deny then f.vpage :: u.denied else u.denied }

/-- Threads that found no free record try again. -/
def State.wakeUnrecorded (s : State) (vd : Nat) : State :=
  { s with threads := s.threads.map fun x =>
      if x.park == .fault 0 && s.vdOf x.ref == vd then { x with park := .running } else x }

/-- A fault record resolved and freed (R355): RETRY, or DENY. -/
def State.resolve (s : State) (vd : Nat) (f : FaultRec) (deny : Bool) : State :=
  let s := s.modVd vd fun v => { v with faults := v.faults.filter fun x => x.fid != f.fid }
  (f.parties.foldl (fun s p => s.settle vd f deny p) s).wakeUnrecorded vd

/-- PF_RESOLVE (R355, R368). -/
def execPfResolve (c : CallSlot) (s : State) : Host.Outcome State Fault Refusal :=
  s.call c (callWithin c allBits allBits 0 0 0) (!byOperator c) fun s =>
    match (s.vd c.ring).faults.find? fun f => f.fid == c.a0.toNat with
    | some f => if 1 < c.a1.toNat then s.endCall c stBadArg 0 else (s.resolve c.ring f (c.a1.toNat == 1)).endCall c stOk 0
    | none => s.endCall c stBadArg 0

/-! ## Translation calls (R368) -/

/-- Whether a GPA lies in an HBM block that stage 2 maps. -/
def State.mapped (s : State) (vd gpa : Nat) : Bool := (s.stage2 vd gpa).isSome

/-- SET_ROOT (R340, R368). -/
def execSetRoot (c : CallSlot) (s : State) : Host.Outcome State Fault Refusal :=
  s.call c (callWithin c allBits 0 0 0 0) (!byOperator c) fun s =>
    let r := c.a0.toNat
    if r != 0 && (r % 256 != 0 || !s.mapped c.ring r) then s.endCall c stBadArg 0
    else ((s.modVd c.ring fun v => { v with root := r }).shootVd c.ring).endShot c

/-- TLB_INVAL (R364, R368): the whole VD, or a range of pages. -/
def execTlbInval (c : CallSlot) (s : State) : Host.Outcome State Fault Refusal :=
  s.call c (callWithin c 1 allBits allBits 0 0) (!byOperator c) fun s =>
    let va := c.a1.toNat
    let n := c.a2.toNat
    if c.a0.toNat == 1 then (s.shootVd c.ring).endShot c
    else if va % 65536 != 0 || va ≥ scratchBase || n == 0 || 2 ^ 20 < n || va + 65536 * n > scratchBase then
      s.endCall c stBadArg 0
    else (s.shootDown c.ring va (va + 65536 * n)).endShot c

/-- Whether a frame may join a VD's pool: in a mapped block, and in the pool neither free nor in use. -/
def State.frameOk (s : State) (vd gpa : Nat) : Bool :=
  s.mapped vd gpa && !(s.vd vd).pool.contains gpa && !((s.vd vd).frames.any fun f => f.gpa == gpa)

/-- POOL_ADD (R358, R368). -/
def execPoolAdd (c : CallSlot) (s : State) : Host.Outcome State Fault Refusal :=
  s.call c (callWithin c allBits allBits 0 0 0) (!byOperator c) fun s =>
    let g := c.a0.toNat
    let n := c.a1.toNat
    if !(s.vd c.ring).dpage then s.endCall c stDenied 0
    else if g % 65536 != 0 || n == 0 || 32768 < n then s.endCall c stBadArg 0
    else
      let fs := (List.range n).map fun k => g + 65536 * k
      if fs.all (s.frameOk c.ring) then (s.modVd c.ring fun v => { v with pool := v.pool ++ fs }).endCall c stOk 0
      else s.endCall c stBadArg 0

/-- Whether a range of GPAs lies in one aperture of a VD that grants reads and writes. -/
def State.inAperture (s : State) (vd g n : Nat) : Bool :=
  match s.aperture vd g with
  | some (_, a) => a.rd && a.wr && g + n ≤ (a.gbase + a.glen) * 2 ^ 21
  | none => false

/-- SET_BACKING (R358, R362, R368): the version table starts anew. -/
def execSetBacking (c : CallSlot) (s : State) : Host.Outcome State Fault Refusal :=
  s.call c (callWithin c allBits allBits 0 0 0) (!byOperator c) fun s =>
    let g := c.a0.toNat
    let n := c.a1.toNat
    if !(s.vd c.ring).dpage then s.endCall c stDenied 0
    else if g % 131072 != 0 || n == 0 || 2 ^ 20 < n || !s.inAperture c.ring g (131072 * n) then s.endCall c stBadArg 0
    else if (s.vd c.ring).versions.any fun x => x.state == 1 then s.endCall c stBadState 0
    else
      (s.modVd c.ring fun v =>
        { v with backing := some (g, n), versions := [], frames := v.frames.map fun f => { f with slot := none } }).endCall c stOk 0

/-! ## Apertures (R351, R352) -/

/-- An aperture entry as a number, and back. -/
def Aperture.toNat (a : Aperture) : Nat :=
  let bit (b : Bool) (n : Nat) : Nat := if b then 2 ^ n else 0
  2 ^ 85 * a.haddr + 2 ^ 58 * a.glen + 2 ^ 31 * a.gbase + 2 ^ 23 * a.stream + 2 ^ 21 * a.port + bit a.ats 20 + bit a.aop 19 +
    bit a.wr 18 + bit a.rd 17 + bit a.v 16

def apertureOf (n : Nat) : Aperture :=
  { haddr := bitsOf n 127 85, glen := bitsOf n 84 58, gbase := bitsOf n 57 31, stream := bitsOf n 30 23, port := bitsOf n 22 21
    ats := n.testBit 20, aop := n.testBit 19, wr := n.testBit 18, rd := n.testBit 17, v := n.testBit 16 }

/-- The port that reaches a VD's function, when an endpoint presents it (R390). -/
def State.portOf (s : State) (vfn : Nat) : Option Nat :=
  (s.boot.endpoints.find? fun e => e.en && e.vfbase ≤ vfn && vfn < e.vfbase + e.vfcount).map (·.port)

/-- Whether an aperture names another port than its VD's (R390), or, valid, breaks the bounds of R351 or R394 or overlaps another of
the VD. On a CXL port the last stream belongs to CXL.cachemem. -/
def State.badAperture (s : State) (v : Vd) (i : Nat) (a : Aperture) : Bool :=
  (match s.portOf v.vfn with
    | some p => a.port != p
    | none => false) ||
  a.v && (a.glen == 0 || 2 ^ 26 < a.glen || a.gbase < 2 ^ 26 || a.gbase + a.glen > 2 ^ 27 || a.stream / 64 != a.port ||
    ((s.ports.getD a.port {}).cxl && a.stream % 64 == 63) ||
    v.aps.any fun x => x.1 != i && x.2.v && a.gbase < x.2.gbase + x.2.glen && x.2.gbase < a.gbase + a.glen)

/-- A stream that an aperture names is bound to the VD, unless it is bound already (log entry 31). -/
def State.bindStream (s : State) (vd : Nat) (a : Aperture) : State :=
  if !a.v then s
  else if s.streams.any fun x => x.id == a.stream then
    { s with streams := s.streams.map fun x => if x.id == a.stream && x.vd == 0 then { x with vd := vd } else x }
  else { s with streams := s.streams ++ [{ id := a.stream, vd := vd }] }

/-- Whether a request of a VD outstanding on a port, or a posted write that has not left, uses a host range. -/
def State.rangeBusy (s : State) (vd : Nat) (w : ApWait) : Bool :=
  (s.reqs.any fun r => r.vd == vd && r.port == w.port && !r.what.isFlush && w.lo ≤ r.haddr && r.haddr < w.hi) ||
    s.posts.any fun x => x.vd == vd && x.port == w.port && w.lo ≤ x.haddr && x.haddr < w.hi

/-- A SET_APERTURE that waits ends once no request uses the old range. -/
def State.apertureDone (s : State) (vd : Nat) : State :=
  match (s.vd vd).apCall with
  | some w =>
    if s.rangeBusy vd w then s else (s.modVd vd fun v => { v with apCall := none }).endCall w.call stOk w.old
  | none => s

/-- SET_APERTURE (R351, R352, R377, R390): the VD is shot down under the old entry, which is then replaced; the call ends once
no request outstanding uses the old range. -/
def execSetAperture (c : CallSlot) (s : State) : Host.Outcome State Fault Refusal :=
  s.call c (callWithin c allBits allBits allBits allBits 0) (byOperator c) fun s =>
    let vd := c.a0.toNat
    let i := c.a1.toNat
    let n := c.a2.toNat + 2 ^ 64 * c.a3.toNat
    let v := s.vd vd
    let a := apertureOf n
    if vd == 0 || !s.hasVd vd || 15 < i || n % 65536 != 0 || s.badAperture v i a then s.endCall c stBadArg 0
    else if v.conf && (v.tdisp.state == 1 || v.tdisp.state == 2) then s.endCall c stDenied 0
    else
      let old := (assocGet i v.aps).getD {}
      let s := s.shootVd vd
      let s := (s.modVd vd fun v => { v with aps := assocSet i a v.aps }).bindStream vd a
      let w : ApWait :=
        { call := c, old := old.toNat % 2 ^ 64, port := old.port, lo := old.haddr * 2 ^ 21, hi := (old.haddr + old.glen) * 2 ^ 21 }
      if old.v && a != old && s.rangeBusy vd w then s.modVd vd fun v => { v with apCall := some w }
      else s.endCall c stOk w.old

/-! ## Device-managed paging (R358 to R363) -/

/-- The bytes of a page in its frame, and its bitmap (R250). -/
def State.pageBytes (s : State) (ma : Nat) : List Byte := natBytes 65536 (s.homeRead ma 65536)

def State.pageBits (s : State) (ma : Nat) : List Byte :=
  (List.range 1024).map fun k =>
    BitVec.ofNat 8 ((List.range 8).foldl (fun m j => if s.feDev (ma + 64 * k + 8 * j) then m + 2 ^ j else m) 0)

/-- Bytes that replace all of a range. -/
def fillCells (m : List Host.Cell) (ma n : Nat) (data : List Byte) : List Host.Cell :=
  writeCells (zeroCells m ma (ma + n)) ma n (bytesNat data)

/-- A page written into a frame whole, with its bits: poison is cleared, the lines' monitors latch, and each line is charged
(R335, R423). -/
def State.fillFrame (s : State) (vd gpa ma : Nat) (data bits : List Byte) : State :=
  let off := (List.range 8192).filter fun k => !(bits.getD (k / 8) 0).getLsbD (k % 8)
  let s : State :=
    { s with
      mem := fillCells s.mem ma 65536 data
      empties := off.foldl (fun l k => setIns (ma + 8 * k) l) (s.empties.filter fun a => a < ma || ma + 65536 ≤ a)
      poison := s.poison.filter fun a => a < ma || ma + 65536 ≤ a
      l2bad := s.l2bad.filter fun a => a < ma || ma + 65536 ≤ a }
  (List.range 512).foldl (fun (s : State) k => (s.charge vd (ma + 128 * k)).latch (.dev vd (gpa / 128 + k))) (s.touch ma)

/-- The GPA of a backing slot. -/
def slotGpa (base slot : Nat) : Nat := base + 131072 * slot

/-- The IV and the AAD of a slot's seal (R361). -/
def sealIv (vd gpa ver : Nat) : BitVec 96 := BitVec.ofNat 96 (2 ^ 80 * vd + 2 ^ 48 * (gpa / 65536 % 2 ^ 32) + ver % 2 ^ 48)
def sealAad (vd gpa ver : Nat) : List Byte :=
  natBytes 2 vd ++ natBytes 2 0 ++ natBytes 4 (gpa / 65536) ++ natBytes 6 ver ++ natBytes 2 0

/-- A slot's version-table entry (R362). -/
def Vd.version (v : Vd) (slot : Nat) : Version :=
  (v.versions.find? fun x => x.slot == slot).getD { slot := slot, version := 0, state := 0, tag := 0 }

def Vd.setVersion (v : Vd) (x : Version) : Vd := { v with versions := x :: v.versions.filter fun y => y.slot != x.slot }

/-- A page as its slot holds it, with the slot's new entry (R361, R362): sealed for a confidential VD, as it is for any other; none
when the seal slot is empty (R374). -/
def Vd.sealed (v : Vd) (base slot : Nat) (page : List Byte) : Option (List Byte × Version) :=
  let x := v.version slot
  if !v.conf then some (page, { x with state := 1 })
  else
    let g := slotGpa base slot
    let n := x.version + 1
    v.sealKey.map fun k =>
      let out := gcmSeal k (sealIv v.id g n) (sealAad v.id g n) page
      (out.1, { slot := slot, version := n, state := 1, tag := out.2 })

/-- A page written to its slot. -/
def State.storeSlot (s : State) (vd base slot : Nat) (page : List Byte) : State :=
  match s.place vd (slotGpa base slot) .write, (s.vd vd).sealed base slot page with
  | some (.host _ ap _), some out =>
    (s.sendPosted vd ap (slotGpa base slot) out.1.length (bytesNat out.1)).modVd vd fun v => v.setVersion out.2
  | _, _ => s

/-- Whether a slot can be written: its aperture grants it, and a confidential VD has its seal key. -/
def State.slotOpen (s : State) (vd slot : Nat) : Bool :=
  let v := s.vd vd
  (!v.conf || v.sealKey.isSome) && (match v.backing with
    | some (base, _) => (match s.place vd (slotGpa base slot) .write with
      | some (.host _ _ _) => true
      | _ => false)
    | none => false)

/-- The lowest empty slot (R360): neither stored, poisoned or retired, nor recorded for a frame. -/
def Vd.emptySlot (v : Vd) : Option Nat :=
  match v.backing with
  | some (_, n) => (List.range n).find? fun k => (v.version k).state == 0 && !(v.frames.any fun f => f.slot == some k)
  | none => none

/-- Whether a frame's page can be paged out (R360): its entry still names it, with V = 1 and EV = 1. -/
def State.evictable (s : State) (vd : Nat) (f : Frame) : Bool :=
  match s.stage2 vd f.entry, s.stage2 vd f.gpa with
  | some ema, some _ =>
    let e := s.homeRead ema 8
    pteV e && pteEv e && pteAddr e == f.gpa
  | _, _ => false

/-- The slot for a victim, and the state with a worn slot retired (R360, R362); a slot that is poisoned or retired is passed over
(R363). -/
def State.victimSlot (s : State) (vd : Nat) (f : Frame) (dirty : Bool) : State × Option Nat :=
  let v := s.vd vd
  match f.slot with
  | some k =>
    let x := v.version k
    if v.conf && (dirty || x.state != 1) && x.version == 2 ^ 48 - 1 then
      let s := s.modVd vd fun v => v.setVersion { x with state := 3 }
      (s, (s.vd vd).emptySlot)
    else if x.state ≥ 2 then (s, v.emptySlot)
    else (s, some k)
  | none => (s, v.emptySlot)

/-- The permissions that an entry keeps (R359, R360): EV, EX, WR, RD. -/
def pteKept (e : Nat) : Nat := e &&& (2 ^ 60 + 2 ^ 4 + 2 ^ 3 + 2 ^ 2)

/-- The lines of a frame written back and invalidated in both dies' L2s and far partitions. -/
def State.flushFrame (s : State) (vd gpa : Nat) : State :=
  (List.range 512).foldl (fun (s : State) k =>
    [0, 1].foldl (fun (s : State) d => (s.farWriteBack d vd (gpa / 128 + k)).dropFar d vd (gpa / 128 + k)) s) s

/-- The copy of a frame to its slot (R360 step 5), each line charged (R335); a poisoned frame leaves the slot poisoned, so that no
page-in brings its data back (R423; log entry 54). -/
def State.copyOut (s : State) (vd ma slot : Nat) : State :=
  let s := (List.range 512).foldl (fun (s : State) k => s.charge vd (ma + 128 * k)) s
  if s.devPoisoned ma 65536 then s.modVd vd fun v => v.setVersion { v.version slot with state := 2 }
  else s.storeSlot vd (((s.vd vd).backing.map (·.1)).getD 0) slot (s.pageBytes ma ++ s.pageBits ma)

/-- A frame's page paged out (R360): the frame returns to the pool. -/
def State.pageOut (s : State) (vd : Nat) (f : Frame) (slot : Nat) : State :=
  match s.stage2 vd f.entry, s.stage2 vd f.gpa with
  | some ema, some ma =>
    let e := s.homeRead ema 8
    let s := s.homeWrite vd f.entry ema 8 (pteKept e + 2 ^ 58 + 65536 * slot)
    let s := s.shootDown vd (65536 * f.vpage) (65536 * f.vpage + 65536)
    let s := s.unmetered fun s => s.flushFrame vd f.gpa
    let s := if pteDirty e || ((s.vd vd).version slot).state != 1 then s.copyOut vd ma slot else s
    s.modVd vd fun v => { v with frames := v.frames.filter fun x => x.gpa != f.gpa, pool := v.pool ++ [f.gpa] }
  | _, _ => s

/-- The first victim that has a slot which can be written, paged out. -/
def State.pageOutOne (s : State) (vd : Nat) : List Frame → Option State
  | [] => none
  | f :: r =>
    let dirty := match s.stage2 vd f.entry with
      | some ema => pteDirty (s.homeRead ema 8)
      | none => false
    match s.victimSlot vd f dirty with
    | (s', some k) => if s'.slotOpen vd k then some (s'.pageOut vd f k) else s'.pageOutOne vd r
    | (s', none) => s'.pageOutOne vd r

/-- A frame taken from the pool, after a page-out when it is empty (R359). -/
def State.takeFrame (s : State) (vd : Nat) : Option (Nat × State) :=
  let take (s : State) : Option (Nat × State) := match (s.vd vd).pool with
    | g :: r => some (g, s.modVd vd fun v => { v with pool := r })
    | [] => none
  match take s with
  | some x => some x
  | none =>
    match s.pageOutOne vd ((s.vd vd).frames.filter (s.evictable vd)) with
    | some s' => take s'
    | none => none

/-- What a page-in brings: the data and the bitmap, or a failure. -/
inductive Supply where
  | page (data bits : List Byte)
  | sealBad
  | refused

/-- The page that a slot's bytes hold (R363): opened for a confidential VD. A slot that is poisoned, or a tag that differs, poisons
the page; an empty seal slot opens nothing (R374). -/
def Vd.opened (v : Vd) (base slot : Nat) (bs : List Byte) : Supply :=
  let x := v.version slot
  let page (l : List Byte) : Supply := .page (l.take 65536) (l.drop 65536)
  if !v.conf then (if x.state == 2 then .sealBad else page bs)
  else
    let g := slotGpa base slot
    match v.sealKey with
    | none => .sealBad
    | some k =>
      let out := gcmOpen k (sealIv v.id g x.version) (sealAad v.id g x.version) bs
      if x.state == 1 && out.2 == x.tag then page out.1 else .sealBad

/-- The page of a slot, read from the host for a fault record's page-in (R359). -/
def State.readSlotPage (s : State) (vd fid slot : Nat) : QRead Supply :=
  match (s.vd vd).backing with
  | none => .ok s .refused
  | some (base, n) =>
    let g := slotGpa base slot
    match s.place vd g .read with
    | some (.host _ ap _) =>
      if slot ≥ n then .ok s .refused
      else
        match s.quayHost vd ap g (1024 + fid) g 66560 with
        | .wait s => .wait s
        | .ok s bs => .ok (s.forgetGot vd (1024 + fid)) ((s.vd vd).opened base slot bs)
        | .xlate s => .ok (s.forgetGot vd (1024 + fid)) .refused
        | .poison s => .ok (s.forgetGot vd (1024 + fid)) .refused
    | _ => .ok s .refused

/-- A page-in that failed: Harbour leaves the fault to the VD, with a notice (R354). -/
def State.pageNoticeOf (s : State) (vd : Nat) (f : FaultRec) (reason : Nat) : State :=
  let n := pageNotice f.fid f.vpage f.level f.kind.toNat f.src.toNat reason
  (s.modVd vd fun v => { v with faults := v.faults.map fun x => if x.fid == f.fid then { x with paging := false } else x }).post vd
    { f.ctx with kind := n.kind, cause := n.cause, val := n.val, aux := n.aux }

/-- A page mapped by a compare-and-swap of its entry, and the fault resolved; a failed compare returns the frame (R359). -/
def State.mapPage (s : State) (vd : Nat) (f : FaultRec) (egpa e frame ma : Nat) (slot : Option Nat) (data bits : List Byte) :
    State :=
  let s := s.fillFrame vd frame ma data bits
  let s : State := match s.stage2 vd egpa with
    | some ema =>
      if s.homeRead ema 8 == e then
        let dirty := if slot.isNone then 2 ^ 7 else 0
        (s.homeWrite vd egpa ema 8 (pteKept e + frame + dirty + 3)).modVd vd fun v =>
          { v with frames := v.frames ++ [{ gpa := frame, vpage := f.vpage, entry := egpa, slot := slot }] }
      else s.modVd vd fun v => { v with pool := v.pool ++ [frame] }
    | none => s.modVd vd fun v => { v with pool := v.pool ++ [frame] }
  s.resolve vd f false

/-- A page-in into a frame (R359, R363), with what its entry's source has brought. -/
def State.pageInto (s : State) (vd : Nat) (f : FaultRec) (egpa e frame ma : Nat) (x : Supply) : State :=
  let full : List Byte := List.replicate 1024 0xFF
  let zeros : List Byte := List.replicate 65536 0
  let slot := bitsOf e 47 16
  let give (s : State) : State := s.modVd vd fun v => { v with pool := v.pool ++ [frame] }
  match x with
  | .page data bits => s.mapPage vd f egpa e frame ma (if pteZf e then none else some slot) data bits
  | .refused => (give s).pageNoticeOf vd f 1
  | .sealBad =>
    let s := s.modVd vd fun v => v.setVersion { v.version slot with state := 2 }
    ((give (s.fillFrame vd frame ma zeros full)).resolve vd f true).pageNoticeOf vd f 2

/-- What a not-present entry's source brings (R358): a zero page, or its slot's page. -/
def State.supply (s : State) (vd : Nat) (f : FaultRec) (e : Nat) : QRead Supply :=
  if pteZf e then .ok s (.page (List.replicate 65536 0) (List.replicate 1024 0xFF))
  else s.readSlotPage vd f.fid (bitsOf e 47 16)

/-- A frame found for a page-in, and the page brought into it; without a frame a REASON 1 notice is written. -/
def State.pageInWith (s : State) (vd : Nat) (f : FaultRec) (egpa e : Nat) (x : Supply) : State :=
  match s.takeFrame vd with
  | none => s.pageNoticeOf vd f 1
  | some (g, s) =>
    match s.stage2 vd g with
    | some ma => s.pageInto vd f egpa e g ma x
    | none => (s.modVd vd fun v => { v with pool := v.pool ++ [g] }).pageNoticeOf vd f 1

/-- PAGE_IN (R358 to R363): the fault record's entry is supplied, once its slot has been read. The work is charged to the VD's
ring, and waits while that has no budget (R330). -/
def execPageIn (vd fid : Nat) (s : State) : Host.Outcome State Fault Refusal :=
  .next (if (s.vd vd).bud ≤ 0 then s
    else match (s.vd vd).faults.find? fun f => f.fid == fid with
    | none => s
    | some f =>
      match f.entry with
      | none => s
      | some (egpa, e) =>
        if !(s.vd vd).dpage || !(pteBacked e || pteZf e) then s
        else match s.supply vd f e with
          | .ok s x => (s.chargeRing vd).pageInWith vd f egpa e x
          | .wait s => s
          | .xlate s => s
          | .poison s => s)

end Sys2Proof.Machine
end

