-- ==== Sys2Proof/Machine/Vds.lean ====
section
/-! DEFINITION. The life of a virtual device: creation (R324), destruction (R325), reset (R430 to R432), the unlock of a
confidential interface (R378), and the moves of memory blocks (R336, R337). -/

namespace Sys2Proof.Machine

/-! ## The VD of a Longshore flit (R397, R398) -/

/-- The active partition of a KEY. -/
def State.partOfKey (s : State) (key : Nat) : Option Nat :=
  (List.range 16).find? fun p => key != 0 && (s.parts.getD p {}).pstate == 1 && (s.parts.getD p {}).key == key

/-- A valid rank of a partition. -/
def State.rankIn (s : State) (part rank : Nat) : Option Rank :=
  (s.parts.getD part {}).ranks.find? fun r => r.v && r.rank == rank

/-- The VD that a flit's destination names on this package (log entry 5). -/
def State.flitVd (s : State) (f : Flit) : Option Nat :=
  match s.partOfKey f.key with
  | none => none
  | some p => match s.rankIn p f.drank with
    | some r => if r.pkgid == 0 then some r.vd else none
    | none => none

/-! ## What both a reset and a destruction drop -/

/-- Every block of a VD halted on every quad (R311). -/
def State.haltVd (s : State) (vd : Nat) : State :=
  (List.range 32).foldl (fun s q => if s.quadVd q == some vd then s.haltQuad q else s) s

/-- Whether a barrier belongs to a VD. -/
def State.barOfVd (s : State) (vd : Nat) (k : BarKey) : Bool :=
  match k with
  | .die x _ _ => (s.ke x).vd == vd
  | .pkg x _ => (s.ke x).vd == vd
  | .pod v _ => v == vd
  | _ => false

/-- Everything of a VD that is resident or in flight dropped without effect: blocks with all they hold, engine and Quay
commands, kernels, accepted packets, fault records, host requests, posted writes not yet sent, flits held for a host page,
weight-buffer contents (R325, R392, R430). -/
def State.dropVd (s : State) (vd : Nat) : State :=
  let s : State := { s with posts := s.posts.filter fun x => x.vd != vd, held := s.held.filter fun x => s.flitVd x.flit != some vd }
  let s := (s.blocks.filter fun b => b.vd == vd).foldl (fun s b => s.dropBlock b.id) s
  let s : State := { s with
    bars := s.bars.filter fun b => !s.barOfVd vd b.key
    kernels := s.kernels.filter fun k => k.vd != vd
    cmds := s.cmds.filter fun c => c.vd != vd
    wbufs := s.wbufs.filter fun w => w.vd != vd
    reqs := s.reqs.filter fun r => r.vd != vd }
  let s := s.modVd vd fun v =>
    { v with images := [], faults := [], got := [], draining := false, queues := v.queues.map fun q => (q.1, { q.2 with accepted := [], denied := [], taking := none }) }
  s.apertureDone vd

/-- PEND cleared in a VD's interrupt entries, which are masked by a destruction or an unlock (R325, R430). -/
def State.clearIrqs (s : State) (vd : Nat) (mask : Bool) : State :=
  s.modVd vd fun v => { v with irqs := v.irqs.map fun e => { e with pend := false, mask := e.mask || mask } }

/-- Steps 1 to 3 of R325, without the keys. -/
def State.tearDown (s : State) (vd : Nat) : State :=
  let s := (s.haltVd vd).dropVd vd
  ((s.dropLines vd fun _ => false).shootVd vd).clearIrqs vd true

/-- The machine blocks that a VD owns. -/
def State.owned (s : State) (vd : Nat) : List Nat :=
  (List.range 256).filter fun b => (s.owner.getD b {}).kind == 3 && (s.owner.getD b {}).vd == vd

def State.modOwn (s : State) (b : Nat) (f : Own → Own) : State := { s with owner := s.owner.modify b f }

/-- Every block that a VD owns handed to the scrub engine. -/
def State.scrubOwned (s : State) (vd : Nat) : State :=
  (s.owned vd).foldl (fun s b => s.modOwn b fun o => { o with scrub := true }) s

/-! ## Zeroised key slots (R373, R374) -/

/-- The check after a zeroisation: whether a bit still reads 1 is free (log entry 53). A failure is counted for no VD. -/
def State.zeroCheck (s : State) : State × Bool :=
  let (m, s) := s.fresh
  if Config.zeroFails m then (s.countError 0 3, true) else (s, false)

/-- A stream slot whose keys are zeroised; `bad` makes it unusable. Every later use of it fails until it is keyed anew (R374). -/
def Stream.zeroed (x : Stream) (bad : Bool) : Stream :=
  { x with secure := false, failed := x.failed || x.secure || !x.keys.isEmpty, keys := [], counters := [], next := none, cur := 0, rxSets := [], usable := x.usable && !bad }

def State.zeroStream (s : State) (id : Nat) : State :=
  let (s, bad) := s.zeroCheck
  { s with streams := s.streams.map fun x => if x.id == id then x.zeroed bad else x }

/-- A VD's seal slot zeroised; one whose check fails takes no key until the next cold reset. -/
def State.dropSeal (s : State) (vd : Nat) : State :=
  let (s, bad) := s.zeroCheck
  ({ s with deadSeals := if bad then setIns vd s.deadSeals else s.deadSeals } : State).modVd vd fun v => { v with sealKey := none }

/-! ## Moves (R336, R337) -/

def State.moveOf (s : State) (blk : Nat) : Option Move := s.moves.find? fun m => m.blk == blk

/-- Whether a partition takes part in a move. -/
def State.partMoving (s : State) (p : Nat) : Bool :=
  s.moves.any fun m => m.part == p || (s.owner.getD m.blk {}).part == p

def State.modPart (s : State) (p : Nat) (f : Part → Part) : State := { s with parts := s.parts.modify p f }

/-- Whether quads of a partition are on their way out: a SET_PART of it, or a retirement, waits for halts. -/
def State.partShrinking (s : State) (p : Nat) : Bool :=
  (s.parting.any fun c => c.a0.toNat == p) || s.retiring.any fun q => (s.rmap q).assigned && (s.rmap q).part == p

/-- PSTATE after a change: 2 while quads or blocks of the partition are in transit, otherwise 1 (R320, R328, R336). -/
def State.settlePart (s : State) (p : Nat) : State :=
  s.modPart p fun x => if x.pstate == 0 then x else { x with pstate := if s.partMoving p || s.partShrinking p then 2 else 1 }

/-- A move ends with a status and nothing else changed. -/
def State.dropMove (s : State) (m : Move) (status : Nat) : State :=
  let src := (s.owner.getD m.blk {}).part
  let s : State := { s with moves := s.moves.filter fun x => x.blk != m.blk }
  ((s.settlePart src).settlePart m.part).endCall m.call status 0

/-- The removal notice of step 2. -/
def State.askRemoval (s : State) (m : Move) (gblk : Nat) : State :=
  s.post m.owner { kind := 7, val := gblk, aux := m.full }

/-- The GPA block at which a VD maps a machine block. -/
def State.gblkOf (s : State) (vd blk : Nat) : Option Nat := ((s.vd vd).s2.find? fun x => x.2 == blk).map (·.1)

/-- Steps 3 and 4: the block unmapped, its lines dropped, its pending full/empty operations woken, and its scrub begun. A block that
an unlock is scrubbing keeps its KIND, which the table does not change then (R321; log entry 32). -/
def State.unmapMove (s : State) (m : Move) : State :=
  let s := match s.gblkOf m.owner m.blk with
    | none => s
    | some g =>
      let s := s.dropLines m.owner fun line => line / 2 ^ 24 != g
      (s.modVd m.owner fun v => { v with s2 := v.s2.filter fun x => x.1 != g }).shootVd m.owner
  let s := s.modOwn m.blk fun o => if o.scrub then o else { o with kind := 0, scrub := true }
  { s with moves := s.moves.map fun x => if x.blk == m.blk then { x with unmapped := true } else x }

/-- Whether a move's target VD still takes the block. -/
def State.targetOk (s : State) (m : Move) : Bool :=
  m.vd != 0 && s.hasVd m.vd && (s.vd m.vd).vstate == 2 && (assocGet m.gblk (s.vd m.vd).s2).isNone

/-- Step 5: the block assigned, the addition notice written, and the call answered. A block whose target VD has gone joins
the target partition's pool (log entry 32). -/
def State.assignMove (s : State) (m : Move) : State :=
  let src := (s.owner.getD m.blk {}).part
  let s := if src == m.part then s
    else (s.modPart src fun p => { p with nblk := p.nblk - 1 }).modPart m.part fun p => { p with nblk := p.nblk + 1 }
  let s := if s.targetOk m then
      let s := s.modOwn m.blk fun _ => { kind := 3, part := m.part, vd := m.vd }
      let s := (s.modVd m.vd fun v => { v with s2 := assocSet m.gblk m.blk v.s2 }).shootVd m.vd
      s.post m.vd { kind := 8, val := m.gblk }
    else s.modOwn m.blk fun _ => { kind := 2, part := m.part }
  let s : State := { s with moves := s.moves.filter fun x => x.blk != m.blk }
  ((s.settlePart src).settlePart m.part).endCall m.call stOk 0

/-! ## Unlock and reset (R378, R430) -/

/-- A function reports that its Function Level Reset is complete (R392). -/
def State.reportFlr (s : State) (vd : Nat) : State :=
  if (s.vd vd).flr then (s.modVd vd fun v => { v with flr := false }).emit (.resetDone (s.vd vd).vfn) else s

/-- The end of a reset: the function reports it, a move whose FORCE asked for the reset goes on with its step 3, the other waiting
moves are notified again with a new deadline (R337), and the call is answered: with DENIED where the VD's seal slot has taken no new
key (R374). -/
def State.resetEnd (s : State) (vd : Nat) : State :=
  let s := s.reportFlr vd
  let mine := s.moves.filter fun m => m.owner == vd && !m.unmapped
  let s := mine.foldl (fun s m =>
    if m.forced then s.unmapMove m
    else match s.gblkOf vd m.blk with
      | some g => s.askRemoval m g
      | none => s) s
  let s : State := { s with moves := s.moves.map fun m => if m.owner == vd && !m.unmapped then { m with left := m.full } else m }
  match (s.vd vd).resetCall with
  | some c =>
    (s.modVd vd fun v => { v with resetCall := none }).endCall c
      (if (s.vd vd).conf && s.deadSeals.contains vd then stDenied else stOk) 0
  | none => s

/-- A fresh seal key (R373). -/
def sealKeyOf (moment : Nat) : Option (BitVec 256) := some ((Config.random moment).setWidth 256)

/-- Steps 3 and 4 of the unlock, once no block of the VD is being scrubbed. -/
def State.unlockEnd (s : State) (vd : Nat) : State :=
  let v := s.vd vd
  if !v.unlock || (s.owned vd).any fun b => (s.owner.getD b {}).scrub then s
  else
    let (m, s) := s.fresh
    let s := s.modVd vd fun v =>
      { v with root := 0, pool := [], frames := [], backing := none, versions := [], sharedBlocks := []
               sealKey := if s.deadSeals.contains vd then none else sealKeyOf m
               unlock := false, vstate := 2, tdisp := {} }
    (if v.tdisp.state != 0 then s.fire vd 11 else s).resetEnd vd

/-- An unlock begins (R378): the VD is torn down, its seal key zeroised, and its blocks are scrubbed. -/
def State.unlockStart (s : State) (vd : Nat) : State :=
  let s := s.modVd vd fun v => { v with vstate := 3 }
  let s := ((s.tearDown vd).dropSeal vd).modVd vd fun v => { v with unlock := true }
  (s.scrubOwned vd).unlockEnd vd

/-- Steps 3 to 5 of a VD reset (R430), once its engines are drained: the VD's lines are written back before everything of it is
dropped. -/
def State.resetSteps (s : State) (vd : Nat) : State :=
  let s := s.drainedVd vd
  let s := s.unmetered fun s => (s.farInvalidateVd 0 vd).farInvalidateVd 1 vd
  let s := s.dropVd vd
  (s.modVd vd fun v => { v with queues := v.queues.map fun q =>
    (q.1, { q.2 with qctl := q.2.qctl &&& ~~~ 1#32, rdidx := 0 }) }).clearIrqs vd false

/-- The rest of a VD reset, once no unit of the VD is in progress on any engine (R430): steps 3 to 7. -/
def State.resetOn (s : State) (vd : Nat) : State :=
  if !(s.vd vd).draining || s.cmds.any fun c => c.vd == vd then s
  else
    let s := s.resetSteps vd
    if (s.vd vd).conf then s.unlockStart vd else (s.modVd vd fun v => { v with vstate := 2 }).resetEnd vd

/-- A VD reset (R430), for the call that asked for it, if any: steps 1 and 2, which halt the VD and kill and drain its engines, and the
others at once where no unit is in progress. One that no call asked for is charged to the VD's ring here (R330, R432). -/
def State.resetVd (s : State) (vd : Nat) (c : Option CallSlot) : State :=
  let s := if c.isNone then s.chargeRing vd else s
  let s := s.modVd vd fun v => { v with vstate := 3, draining := true, resetCall := c }
  ((s.drainVd vd).haltVd vd).resetOn vd

/-- RESET_VD (R328, R430): a tenant's own VD, or the VD that the operator names. -/
def execResetVd (c : CallSlot) (s : State) : Host.Outcome State Fault Refusal :=
  s.call c (callWithin c allBits 0 0 0 0) true fun s =>
    let vd := if byOperator c then c.a0.toNat else c.ring
    if vd == 0 || 511 < vd then s.endCall c stBadArg 0
    else if !s.hasVd vd || (s.vd vd).vstate != 2 then s.endCall c stBadState 0
    else s.resetVd vd (some c)

/-- FUNCTION_LEVEL_RESET (R392): a reset of the function's VD, which reports it when it is complete. A reset, an unlock or a
destruction in progress is not started again (R323, R378); a function without a VD has nothing to reset. -/
def execFunctionLevelReset (vfn : Nat) (s : State) : Host.Outcome State Fault Refusal :=
  .next (if vfn == 0 then s
    else match s.vds.find? fun v => v.vfn == vfn with
      | some v =>
        let s := s.modVd v.id fun v => { v with flr := true }
        if v.vstate == 2 then s.resetVd v.id none else s
      | none => s.emit (.resetDone vfn))

/-! ## Creation (R324) -/

/-- Whether the part lists a feature (R437). -/
def State.feature (s : State) (id : Nat) : Bool := s.boot.caps.contains id

/-- The lowest free VD id. -/
def State.freeVd (s : State) : Option Nat := ((List.range 511).map (· + 1)).find? fun i => !s.hasVd i

/-- The machine blocks in a partition's pool. -/
def State.poolBlocks (s : State) (p : Nat) : List Nat :=
  (List.range 256).filter fun b => (s.owner.getD b {}).kind == 2 && (s.owner.getD b {}).part == p && !(s.owner.getD b {}).scrub &&
    (s.moveOf b).isNone

/-- A new VD's entry. Its function is the one of its own number where an endpoint presents that (log entry 33). -/
def State.newVd (s : State) (id p w a2 moment : Nat) (blocks : List Nat) : Vd :=
  let conf := a2.testBit 8
  let v : Vd :=
    { id := id, vstate := 2, part := p, conf := conf, shadow := a2.testBit 9, dpage := a2.testBit 10, svcw := a2 % 256
      wm1 := w - 1, vfn := if (s.portOf id).isSome then id else 0
      s2 := (List.range blocks.length).zip blocks, irqs := List.replicate 16 { owner := if conf then 2 else 1 }
      sealKey := sealKeyOf moment }
  { v with bud := v.budget }

/-- CREATE_VD (R324, R328). A feature that the part lacks is DENIED (R437), and so is a seal slot that takes no key (R374). -/
def execCreateVd (c : CallSlot) (s : State) : Host.Outcome State Fault Refusal :=
  s.call c (callWithin c allBits allBits 0x7FF allBits 0) (byOperator c) fun s =>
    let p := c.a0.toNat
    let w := c.a1.toNat
    let a2 := c.a2.toNat
    let n := c.a3.toNat
    if 15 < p || w == 0 || 64 < w || a2 % 256 == 0 || n == 0 || 256 < n then s.endCall c stBadArg 0
    else if (a2.testBit 8 && !s.feature 5) || (a2.testBit 9 && !s.feature 4) || (a2.testBit 10 && !s.feature 7) then
      s.endCall c stDenied 0
    else
      let x := s.parts.getD p {}
      if x.pstate == 0 || x.nquad == 0 then s.endCall c stBadState 0
      else
        let bs := (s.poolBlocks p).take n
        match s.freeVd with
        | none => s.endCall c stNoSpace 0
        | some id =>
          if bs.length < n then s.endCall c stNoSpace 0
          else if s.deadSeals.contains id then s.endCall c stDenied 0
          else
            let (m, s) := s.fresh
            let v := s.newVd id p w a2 m bs
            let s : State := { s with vds := s.vds ++ [v] }
            let s := bs.foldl (fun s b => s.modOwn b fun _ => { kind := 3, part := p, vd := id }) s
            (s.modPart p fun x => { x with nvd := x.nvd + 1 }).endCall c stOk id

/-! ## Destruction (R325) -/

/-- Step 5: with no block left, the VD's entry is freed and the call answered. -/
def State.freeIfClean (s : State) (vd : Nat) : State :=
  let v := s.vd vd
  if !s.hasVd vd || v.vstate != 5 || !(s.owned vd).isEmpty then s
  else
    let s := s.reportFlr vd
    let s : State := { s with
      vds := s.vds.filter fun x => x.id != vd
      streams := s.streams.map fun x => if x.vd == vd then { x with vd := 0 } else x
      slices := s.slices.map fun x => { x with tok := x.tok.filter fun t => t.1 != vd, waiting := x.waiting.filter (· != vd) } }
    let s := s.modPart v.part fun p => { p with nvd := p.nvd - 1 }
    match v.destroyCall with
    | some c => s.endCall c stOk 0
    | none => s

/-- A reset that a destruction abandons ends with BADSTATE (R323). -/
def State.abandonReset (s : State) (vd : Nat) : State :=
  match (s.vd vd).resetCall with
  | some c => (s.modVd vd fun v => { v with resetCall := none }).endCall c stBadState 0
  | none => s

/-- Steps 1 to 4. A block whose removal was awaited takes this scrub, and then its move's step 5 (R337). -/
def State.destroy (s : State) (vd : Nat) (c : CallSlot) : State :=
  let s := (s.abandonReset vd).modVd vd fun v => { v with vstate := 4, unlock := false, destroyCall := some c }
  let s := (s.tearDown vd).dropSeal vd
  let s := ((s.streams.filter fun x => x.vd == vd).map (·.id)).foldl State.zeroStream s
  let s : State := { s with
    moves := s.moves.map fun m => if m.owner == vd then { m with unmapped := true } else m }
  ((s.scrubOwned vd).modVd vd fun v => { v with vstate := 5 }).freeIfClean vd

/-- DESTROY_VD (R325, R328): the call is answered when the id is FREE. -/
def execDestroyVd (c : CallSlot) (s : State) : Host.Outcome State Fault Refusal :=
  s.call c (callWithin c allBits 0 0 0 0) (byOperator c) fun s =>
    let vd := c.a0.toNat
    if vd == 0 || 511 < vd then s.endCall c stBadArg 0
    else if !s.hasVd vd || !((s.vd vd).vstate == 2 || (s.vd vd).vstate == 3) then s.endCall c stBadState 0
    else s.destroy vd c

/-! ## The calls of a move -/

/-- Whether a VD's interface is locked, so that the operator's calls on it are denied (R377). -/
def Vd.locked (v : Vd) : Bool := v.conf && (v.tdisp.state == 1 || v.tdisp.state == 2)

/-- What step 1 of R336 finds wrong, in the order busy, argument, denial, state: a block in a move is BUSY, whatever its KIND is
meanwhile (R337). -/
def State.moveFault (s : State) (m : Move) (own : Own) : Option Nat :=
  if (s.moveOf m.blk).isSome then some stBusy
  else if 255 < m.blk || !(own.kind == 2 || own.kind == 3) || 255 < m.gblk || m.full == 0 || 2 ^ 40 < m.full then some stBadArg
  else if (own.kind == 3 && (s.vd own.vd).locked) || (m.vd != 0 && (s.vd m.vd).locked) then some stDenied
  else if own.scrub || (s.parts.getD m.part {}).pstate == 0 then some stBadState
  else if m.vd != 0 && !(s.hasVd m.vd && (s.vd m.vd).vstate == 2 && (s.vd m.vd).part == m.part) then some stBadState
  else if m.vd != 0 && (assocGet m.gblk (s.vd m.vd).s2).isSome then some stBadArg
  else none

/-- MOVE_BLOCK (R336): a pooled block, which is clean, is assigned at once; an owned one waits for its owner. -/
def execMoveBlock (c : CallSlot) (s : State) : Host.Outcome State Fault Refusal :=
  s.call c (callWithin c allBits 0x1FF000F allBits 1 allBits) (byOperator c) fun s =>
    let a1 := c.a1.toNat
    let blk := c.a0.toNat
    let own := s.owner.getD blk {}
    let m : Move :=
      { blk := blk, owner := own.vd, part := bitsOf a1 3 0, vd := bitsOf a1 24 16, gblk := c.a2.toNat, force := c.a3.toNat == 1
        left := c.a4.toNat, full := c.a4.toNat, unmapped := own.kind == 2, call := c }
    match s.moveFault m own with
    | some st => s.endCall c st 0
    | none =>
      let s : State := { s with moves := s.moves ++ [m] }
      let s := (s.settlePart own.part).settlePart m.part
      if own.kind == 2 then s.assignMove m
      else match s.gblkOf own.vd blk with
        | some g => s.askRemoval m g
        | none => s.unmapMove m

/-- BLOCK_ACK (R336, R337): the owner accepts or refuses. -/
def execBlockAck (c : CallSlot) (s : State) : Host.Outcome State Fault Refusal :=
  s.call c (callWithin c allBits 1 0 0 0) (!byOperator c) fun s =>
    let blk := assocGet c.a0.toNat (s.vd c.ring).s2
    match s.moves.find? fun m => m.owner == c.ring && !m.unmapped && blk == some m.blk with
    | none => s.endCall c stBadArg 0
    | some m =>
      let s := if c.a1.toNat == 1 then s.unmapMove m else s.dropMove m stDenied
      s.endCall c stOk 0

/-- MOVE_DEADLINE_EXPIRE (R337): TIMEOUT, or with FORCE a reset of the owner and then the unmapping. While the owner is being reset
no deadline passes: it starts anew at the reset's end. -/
def execMoveDeadlineExpire (blk : Nat) (s : State) : Host.Outcome State Fault Refusal :=
  .next (match s.moveOf blk with
    | none => s
    | some m =>
      if m.unmapped || m.left != 0 || (s.vd m.owner).vstate == 3 then s
      else if !m.force then s.dropMove m stTimeout
      else
        let s : State := { s with moves := s.moves.map fun x => if x.blk == blk then { x with forced := true } else x }
        s.resetVd m.owner none)

end Sys2Proof.Machine
end

