-- ==== Sys2Proof/Machine/Scrub.lean ====
section
/-! DEFINITION. The scrub engine (R381 to R383): its four jobs, and what the end of a block's scrub completes. -/

namespace Sys2Proof.Machine

def State.job (s : State) (j : Nat) : ScrubJob := s.scrub.getD j {}
def State.modJob (s : State) (j : Nat) (f : ScrubJob → ScrubJob) : State := { s with scrub := s.scrub.modify j f }

/-- Whether a block is in some job's hands. -/
def State.beingScrubbed (s : State) (b : Nat) : Bool := s.scrub.any fun j => (j.run || j.halt) && j.mblk == b

/-- The lowest block that waits for a job. -/
def State.scrubWaiting (s : State) : Option Nat :=
  (List.range 256).find? fun b => (s.owner.getD b {}).scrub && !s.beingScrubbed b

/-- The state of the scrub engine's control register (R428): in RUN it takes work. -/
def State.scrubRuns (s : State) : Bool := (s.engCtl .scrub).state == 0

/-- SCRUB_JOB_START (R381, R383): a halted job goes on at its TIDEMARK; an idle one takes the lowest waiting block. -/
def execScrubJobStart (job : Nat) (s : State) : Host.Outcome State Fault Refusal :=
  let j := s.job job
  .next (if j.run || !s.scrubRuns then s
    else if j.halt then s.modJob job fun x => { x with run := true, halt := false }
    else match s.scrubWaiting with
      | some b => s.modJob job fun _ => { run := true, halt := false, tidemark := 0, mblk := b }
      | none => s)

/-- The service cycles of a job's unit: 256 bytes of a touched one in each, and one for any other. -/
def State.scrubCycles (s : State) (j : ScrubJob) : Nat :=
  if (s.touched.getD j.mblk 0).getLsbD j.tidemark then 2 ^ 21 / 256 else 1

/-- A service cycle of a job's unit. -/
def State.countScrub (s : State) (job : Nat) : State :=
  let j := s.job job
  s.modJob job fun x => { x with left := (if j.left == 0 then s.scrubCycles j else j.left) - 1 }

/-- SCRUB_UNIT (R381): one 2 MiB unit, rewritten if a write has touched it. -/
def execScrubUnit (job : Nat) (s : State) : Host.Outcome State Fault Refusal :=
  let j := s.job job
  .next (if !j.run || j.tidemark ≥ 1024 then s
    else
      let bits := s.touched.getD j.mblk 0
      let s := if bits.getLsbD j.tidemark then
          let s := s.scrubRange (j.mblk * 2 ^ 31 + j.tidemark * 2 ^ 21) (2 ^ 21)
          { s with touched := s.touched.modify j.mblk fun b => b &&& ~~~ (BitVec.ofNat 1024 (2 ^ j.tidemark)) }
        else s
      s.modJob job fun x => { x with tidemark := x.tidemark + 1, left := 0 })

/-- What a scrubbed block does next: it goes to its move's target, or back to the pool of a destroyed VD's partition. -/
def State.scrubbed (s : State) (b : Nat) : State :=
  let s := s.modOwn b fun o => { o with scrub := false }
  let o := s.owner.getD b {}
  match s.moves.find? fun m => m.blk == b && m.unmapped with
  | some m => s.assignMove m
  | none =>
    if o.kind == 3 && (s.vd o.vd).vstate == 5 then s.modOwn b fun o => { kind := 2, part := o.part }
    else s

/-- The VDs whose unlock or destruction a scrub may have completed. -/
def State.afterScrub (s : State) : State := (s.vds.map (·.id)).foldl (fun s v => (s.unlockEnd v).freeIfClean v) s

/-- SCRUB_JOB_END (R321, R325, R336, R378, R381). -/
def execScrubJobEnd (job : Nat) (s : State) : Host.Outcome State Fault Refusal :=
  let j := s.job job
  .next (if !j.run || j.tidemark < 1024 then s
    else ((s.modJob job fun x => { x with run := false }).scrubbed j.mblk).afterScrub)

/-- Every running job stopped at once, with HALT set (R383). -/
def State.haltJobs (s : State) : State :=
  { s with scrub := s.scrub.map fun j => if j.run then { j with run := false, halt := true, left := 0 } else j }

/-- HARBOUR_WARM_RESTART (R383). -/
def execHarbourWarmRestart (s : State) : Host.Outcome State Fault Refusal := .next s.haltJobs

/-- A job register (R381). -/
def ScrubJob.toNat (j : ScrubJob) : Nat :=
  (if j.run then 2 ^ 63 else 0) + (if j.halt then 2 ^ 62 else 0) + 2 ^ 40 * j.tidemark + 2 ^ 32 * j.mblk

/-- QUERY_SCRUB (R388). -/
def execQueryScrub (c : CallSlot) (s : State) : Host.Outcome State Fault Refusal :=
  s.call c (callWithin c allBits 0 0 0 0) (byOperator c) fun s =>
    if 3 < c.a0.toNat then s.endCall c stBadArg 0 else s.endCall c stOk (s.job c.a0.toNat).toNat

end Sys2Proof.Machine
end

