-- ==== Sys2Proof/Machine/Quads.lean ====
section
/-! DEFINITION. The quads of a partition (R317 to R320): joining, leaving, exchange and retirement. -/

namespace Sys2Proof.Machine

def State.modRemap (s : State) (q : Nat) (f : Remap → Remap) : State := { s with remap := s.remap.modify q f }

/-- The free enabled quads, lowest in (die, physical quad) order first. -/
def State.freeQuads (s : State) : List Nat :=
  (List.range 32).filter fun q => (s.rmap q).state == 0 && !(s.rmap q).assigned

/-- A quad joins a partition under the next logical number (R318). -/
def State.joinQuad (s : State) (p : Nat) : State :=
  match s.freeQuads with
  | [] => s
  | q :: _ =>
    let n := (s.parts.getD p {}).nquad
    let s := s.modRemap q fun x => { x with assigned := true, part := p, lquad := n }
    ({ s with quads := s.quads.set q {} } : State).modPart p fun x => { x with nquad := n + 1 }

/-- The last logical quad of a partition leaves, with the effects of R314. -/
def State.leaveQuad (s : State) (p : Nat) : State :=
  let n := (s.parts.getD p {}).nquad
  match s.physQuad p (n - 1) with
  | none => s
  | some q =>
    let s := s.modRemap q fun x => { x with assigned := false, part := 0, lquad := 0 }
    (s.modPart p fun x => { x with nquad := n - 1 }).clearQuad q

def State.joinQuads (s : State) (p : Nat) : Nat → State
  | 0 => s
  | k + 1 => (s.joinQuad p).joinQuads p k

def State.leaveQuads (s : State) (p : Nat) : Nat → State
  | 0 => s
  | k + 1 => (s.leaveQuad p).leaveQuads p k

/-! ## Exchange and retirement (R318, R319) -/

/-- The number that an exchange of quads `a` and `b` gives a core. -/
def swapCore (a b c : Nat) : Nat :=
  if c / 4 == a then 4 * b + c % 4 else if c / 4 == b then 4 * a + c % 4 else c

def swapEng (a b : Nat) (e : EngId) : EngId :=
  match e with
  | .matrix c sb => .matrix (swapCore a b c) sb
  | .copy c => .copy (swapCore a b c)
  | .fabric c => .fabric (swapCore a b c)
  | e => e

/-- The in-place state of two quads exchanged once every VD on them is halted, and their logical numbers with it. Between the
dies, the VDs' far-partition lines follow R215, and the times that commands have waited go on in the cycles of the new die (R4). -/
def State.swapQuads (s : State) (a b : Nat) : State :=
  let s := (s.haltQuad a).haltQuad b
  let vs := ((s.blocks.filter fun x => x.core / 4 == a || x.core / 4 == b).map (·.vd)).eraseDups
  let s := vs.foldl (fun s v => (s.crossDies v (a / 16) (b / 16)).crossDies v (b / 16) (a / 16)) s
  let f := swapCore a b
  let ra := s.rmap a
  let rb := s.rmap b
  let s : State := { s with
    blocks := s.blocks.map fun x => { x with core := f x.core }
    cmds := s.cmds.map fun c =>
      let e := swapEng a b c.eng
      match engCore c.eng, engCore e with
      | some x, some y => { c with eng := e, since := s.rebase (dieOfCore x) (dieOfCore y) c.since }
      | _, _ => { c with eng := e }
    wbufs := s.wbufs.map fun w => { w with core := f w.core }
    vds := s.vds.map fun v => { v with images := v.images.map fun w => { w with core := f w.core } }
    cores := (List.range s.cores.length).map fun c => s.co (f c)
    quads := (s.quads.set a (s.quad b)).set b (s.quad a) }
  (s.modRemap a fun x => { x with lquad := rb.lquad }).modRemap b fun x => { x with lquad := ra.lquad }

/-- The quads that a retirement of an assigned quad halts: the quad, and the last logical one, which leaves in its stead. -/
def State.retireSet (s : State) (q : Nat) : List Nat :=
  let r := s.rmap q
  if !r.assigned then []
  else match s.physQuad r.part ((s.parts.getD r.part {}).nquad - 1) with
    | some last => if last == q then [q] else [q, last]
    | none => [q]

/-- A quad retired (R319), once it stands still: an assigned one leaves its partition first, exchanged with the last logical quad where
it is not that one; the retirement is recorded and reported to the operator. It leaves even where it is the only quad of a partition
with VDs, against R320 (log entry 56). -/
def State.retireNow (s : State) (q : Nat) : State :=
  let r := s.rmap q
  let s := if !r.assigned then s
    else
      let n := (s.parts.getD r.part {}).nquad
      let s := match s.physQuad r.part (n - 1) with
        | some last => if last == q then s else s.swapQuads q last
        | none => s
      s.leaveQuad r.part
  let s := s.modRemap q fun x => { x with state := 2, assigned := false, part := 0, lquad := 0 }
  let s : State := { s with boot := { s.boot with retirement := s.boot.retirement ++ [q] }, retiring := setDel q s.retiring }
  (s.settlePart r.part).post 0 { kind := 0x0C, val := q }

/-- A retirement that goes on: at once where every VD on its quads is halted, else when the halts are complete (R311, R318). -/
def State.retireOn (s : State) (q : Nat) : State :=
  let qs := s.retireSet q
  if s.standing qs then
    let held := s.mustStand qs
    (s.retireNow q).freeQuadsOf held
  else (({ s with retiring := setIns q s.retiring } : State).holdQuads qs).settlePart (s.rmap q).part

/-- A quad retired under the fault policy (R319, R429, R433). -/
def State.retireQuad (s : State) (q : Nat) : State := if (s.rmap q).state != 0 then s else s.retireOn q

/-! ## SET_PART (R318, R320, R328) -/

/-- Whether a KEY may become a partition's: 1 to 65,535, and no active partition's. -/
def State.keyOk (s : State) (key : Nat) : Bool :=
  key != 0 && key < 65536 && !(s.parts.any fun p => p.pstate != 0 && p.key == key)

/-- A partition's link key zeroised (R373, R374); a slot whose check fails takes no key until the next cold reset. -/
def State.dropLink (s : State) (p : Nat) : State :=
  let (s, bad) := s.zeroCheck
  s.modPart p fun x => { x with linkKey := none, linkTx := [], linkUsable := x.linkUsable && !bad }

/-- An active partition with no quad, no VD and no block becomes unused: its rank table and its link key go (R373, R397). -/
def State.closePart (s : State) (p : Nat) : State :=
  let x := s.parts.getD p {}
  if x.pstate != 0 && x.nquad == 0 && x.nvd == 0 && x.nblk == 0 then
    (s.dropLink p).modPart p fun x => { linkUsable := x.linkUsable }
  else s

/-- An unused partition becomes active with a KEY: no rank, and no link key. -/
def State.openPart (s : State) (p key : Nat) : State :=
  (s.dropLink p).modPart p fun x => { x with pstate := 1, key := key, ranks := [] }

/-- What SET_PART finds wrong. -/
def State.partFault (s : State) (p n key : Nat) : Option Nat :=
  let x := s.parts.getD p {}
  if 15 < p || 30 < n then some stBadArg
  else if x.pstate == 0 && n != 0 && !s.keyOk key then some stBadArg
  else if n == 0 && x.nvd != 0 then some stBadState
  else if n > x.nquad + s.freeQuads.length then some stNoSpace
  else none

/-- The quads that leave when a partition shrinks to `n` quads: the last logical ones. -/
def State.leavers (s : State) (p n : Nat) : List Nat :=
  (List.range 32).filter fun q => (s.rmap q).assigned && (s.rmap q).part == p && n ≤ (s.rmap q).lquad

/-- The partition at its new size, and the call answered. -/
def State.resize (s : State) (c : CallSlot) (p n : Nat) : State :=
  let s := if (s.parts.getD p {}).pstate == 0 && n != 0 then s.openPart p c.a2.toNat else s
  let have_ := (s.parts.getD p {}).nquad
  let s := (s.joinQuads p (n - have_)).leaveQuads p (have_ - n)
  ((s.settlePart p).closePart p).endCall c stOk n

/-- SET_PART (R318, R328): where quads leave, the call goes on once every VD on them is halted (R311), and PSTATE is 2 until then. -/
def execSetPart (c : CallSlot) (s : State) : Host.Outcome State Fault Refusal :=
  s.call c (callWithin c allBits allBits allBits 0 0) (byOperator c) fun s =>
    let s : State := { s with parting := s.parting.filter (· != c) }
    let p := c.a0.toNat
    let n := c.a1.toNat
    match s.partFault p n c.a2.toNat with
    | some st => s.endCall c st 0
    | none =>
      let qs := s.leavers p n
      if s.standing qs then
        let held := s.mustStand qs
        (s.resize c p n).freeQuadsOf held
      else (({ s with parting := s.parting ++ [c] } : State).holdQuads qs).settlePart p

end Sys2Proof.Machine
end

