-- ==== Sys2Proof/Machine/Calls.lean ====
section
/-! DEFINITION. The remaining Harbour calls: weights, meters, interrupts, queries, ranks and sharing (R328 to R334, R388,
R397). -/

namespace Sys2Proof.Machine

/-- Whether a call names a VD that exists. -/
def State.namesVd (s : State) (id : Nat) : Bool := id != 0 && id < 512 && s.hasVd id

/-- How a call that names no VD fails: out of range, or FREE (R323). -/
def vdFault (id : Nat) : Nat := if id == 0 || 511 < id then stBadArg else stBadState

/-- SET_WEIGHT (R328). -/
def execSetWeight (c : CallSlot) (s : State) : Host.Outcome State Fault Refusal :=
  s.call c (callWithin c allBits allBits allBits 0 0) (byOperator c) fun s =>
    let id := c.a0.toNat
    let w := c.a1.toNat
    let sv := c.a2.toNat
    if w == 0 || 64 < w || sv == 0 || 255 < sv then s.endCall c stBadArg 0
    else if !s.namesVd id then s.endCall c (vdFault id) 0
    else (s.modVd id fun v => { v with wm1 := w - 1, svcw := sv }).endCall c stOk 0

/-- SET_METER (R328, R334): TOK := BURST at every slice. -/
def execSetMeter (c : CallSlot) (s : State) : Host.Outcome State Fault Refusal :=
  s.call c (callWithin c allBits allBits allBits 0 0) (byOperator c) fun s =>
    let id := c.a0.toNat
    let rate := c.a1.toNat
    let burst := c.a2.toNat
    if 1024 < rate || burst < Nat.max rate 1 || 65535 < burst then s.endCall c stBadArg 0
    else if !s.namesVd id then s.endCall c (vdFault id) 0
    else if (s.vds.foldl (fun n v => n + (if v.id == id then rate else v.rate)) 0) > 1024 then s.endCall c stNoSpace 0
    else
      let s := s.modVd id fun v => { v with rate := rate, burst := burst }
      ({ s with slices := s.slices.map fun x => { x with tok := x.tok.filter fun t => t.1 != id } } : State).endCall c stOk 0

/-! ## Interrupts (R331 to R333) -/

def IrqEntry.toNat (e : IrqEntry) : Nat :=
  2 ^ 30 * e.owner + (if e.pend then 2 ^ 16 else 0) + (if e.mask then 2 ^ 15 else 0) + e.vec

/-- The new entry of a SET_IRQ; PEND is read-only. -/
def irqOf (n : Nat) (old : IrqEntry) : IrqEntry :=
  { owner := bitsOf n 31 30, pend := old.pend, mask := n.testBit 15, vec := n % 2048 }

/-- The entry set; an event held is delivered when MASK becomes 0 (R333). -/
def State.setIrqEntry (s : State) (vd src : Nat) (e : IrqEntry) : State :=
  let due := e.pend && !e.mask
  let s := s.modVd vd fun v => { v with irqs := v.irqs.set src { e with pend := e.pend && !due } }
  if due then s.fire vd src else s

/-- SET_IRQ (R328, R332). -/
def execSetIrq (c : CallSlot) (s : State) : Host.Outcome State Fault Refusal :=
  let op := byOperator c
  s.call c (callWithin c allBits (if op then allBits else 0) 0xFFFFFFFF 0 0) true fun s =>
    let src := c.a0.toNat
    let id := if op then c.a1.toNat else c.ring
    let n := c.a2.toNat
    let old := (s.vd id).irqs.getD src {}
    if !s.namesVd id && id != 0 then s.endCall c (vdFault id) 0
    else if bitsOf n 31 30 == 3 then s.endCall c stBoth 0
    else if src ≥ 12 || bitsOf n 29 17 != 0 || bitsOf n 14 11 != 0 then s.endCall c stBadArg 0
    else if op && (s.vd id).conf && bitsOf n 31 30 != old.owner then s.endCall c stDenied 0
    else (s.setIrqEntry id src (irqOf n old)).endCall c stOk old.toNat

/-! ## QUERY (R317, R320 to R322, R328) -/

def Vd.entry (v : Vd) : Nat :=
  2 ^ 50 * (if v.id == 0 then 0 else v.svcw) + 2 ^ 44 * v.wm1 + 2 ^ 40 * v.part + (if v.conf then 2 ^ 39 else 0) +
    (if v.shadow then 2 ^ 38 else 0) + (if v.dpage then 2 ^ 37 else 0) + 2 ^ 34 * v.vstate + v.vfn

def Part.entry (p : Part) : Nat :=
  2 ^ 48 * p.key + 2 ^ 40 * p.pstate + 2 ^ 21 * p.nvd + 2 ^ 16 * p.nquad + 2 ^ 7 * p.nblk

def Remap.entry (r : Remap) : Nat :=
  2 ^ 30 * r.state + (if r.assigned then 2 ^ 24 else 0) + 2 ^ 20 * r.part + 2 ^ 8 * r.lquad

def Own.entry (o : Own) : Nat := 2 ^ 14 * o.kind + 2 ^ 10 * o.part + (if o.scrub then 2 ^ 9 else 0) + o.vd

/-- The entry of a table, when the index lies in it. -/
def State.tableEntry (s : State) (table i : Nat) : Option Nat :=
  match table with
  | 0 => if i < 512 then some (if s.hasVd i then (s.vd i).entry else 0) else none
  | 1 => if i < 16 then some (s.parts.getD i {}).entry else none
  | 2 => if i < 32 then some (s.rmap i).entry else none
  | 3 => if i < 256 then some (s.owner.getD i {}).entry else none
  | _ => none

/-- QUERY (R328): a tenant may query its own VD entry only. -/
def execQuery (c : CallSlot) (s : State) : Host.Outcome State Fault Refusal :=
  s.call c (callWithin c allBits allBits 0 0 0) (byOperator c || (c.a0 == 0 && c.a1.toNat == c.ring)) fun s =>
    match s.tableEntry c.a0.toNat c.a1.toNat with
    | some e => s.endCall c stOk e
    | none => s.endCall c stBadArg 0

/-! ## Ranks (R397) -/

def Rank.entry (r : Rank) : Nat := (if r.v then 2 ^ 31 else 0) + (if r.pod then 2 ^ 30 else 0) + 2 ^ 9 * r.pkgid + r.vd

def rankOf (rank n : Nat) : Rank :=
  { rank := rank, v := n.testBit 31, pod := n.testBit 30, pkgid := bitsOf n 18 9, vd := bitsOf n 8 0 }

/-- Whether an entry names a VD of this package whose interface is locked. -/
def State.namesLocked (s : State) (r : Rank) : Bool := r.v && r.pkgid == 0 && (s.vd r.vd).locked

/-- SET_RANK (R397) on an active partition: one in change is not active (R320; log entry 56). DENIED where the part lacks Longshore (R437). A barrier that waited for the rank is looked at again (R399). -/
def execSetRank (c : CallSlot) (s : State) : Host.Outcome State Fault Refusal :=
  s.call c (callWithin c allBits allBits 0xFFFFFFFF 0 0) (byOperator c) fun s =>
    let p := c.a0.toNat
    let k := c.a1.toNat
    let n := c.a2.toNat
    let x := s.parts.getD p {}
    let old := (x.ranks.find? fun r => r.rank == k).getD (rankOf k 0)
    let new := rankOf k n
    if !s.feature 6 then s.endCall c stDenied 0
    else if 15 < p || x.pstate != 1 || 1023 < k || bitsOf n 29 19 != 0 then s.endCall c stBadArg 0
    else if s.namesLocked old || s.namesLocked new then s.endCall c stDenied 0
    else
      ((s.modPart p fun x =>
        { x with ranks := x.ranks.filter (fun r => r.rank != k) ++ if n == 0 then [] else [new] }).checkBars).endCall c stOk old.entry

/-! ## Sharing (R388) -/

/-- SET_SHARED (R388). -/
def execSetShared (c : CallSlot) (s : State) : Host.Outcome State Fault Refusal :=
  s.call c (callWithin c allBits 1 0 0 0) (!byOperator c) fun s =>
    let v := s.vd c.ring
    let b := c.a0.toNat
    if !v.conf then s.endCall c stDenied 0
    else if 255 < b || (assocGet b v.s2).isNone then s.endCall c stBadArg 0
    else if v.tdisp.state != 0 then s.endCall c stBadState 0
    else
      (s.modVd c.ring fun v =>
        { v with sharedBlocks := if c.a1.toNat == 1 then setIns b v.sharedBlocks else setDel b v.sharedBlocks }).endCall c stOk 0

end Sys2Proof.Machine
end

