-- ==== Sys2Proof/Machine/HostLink.lean ====
section
/-! DEFINITION. The host links: completions of the device's own requests (R205, R366, R367, R389), IDE streams and their keys
(R373 to R376, R379, R380, R396), and the links' state. -/

namespace Sys2Proof.Machine

/-! ## The end of a request (R352, R367) -/

/-- Whether a request carries the translation of a host range of a function. -/
def usesRange (port fn lo hi : Nat) (vfn : Nat) (r : HostReq) : Bool :=
  r.ats && r.port == port && vfn == fn && r.size != 0 && r.haddr < hi && lo < r.haddr + r.size

/-- The withheld Invalidation Completions of a port that may now be sent (R367). -/
def State.answerInvalidations (s : State) (port : Nat) : State :=
  let l := (s.ports.getD port {}).invalidations
  let busy (x : Nat × Nat × Nat) : Bool := s.reqs.any fun r => usesRange port x.1 x.2.1 x.2.2 (s.vd r.vd).vfn r
  let s' : State := { s with ports := s.ports.modify port fun p => { p with invalidations := l.filter busy } }
  (l.filter fun x => !busy x).foldl (fun (s : State) x => s.emit (.atsInvalidated port x.2.1 x.2.2)) s'

/-- A request that is no longer outstanding. -/
def State.closeReq (s : State) (r : HostReq) : State :=
  let s : State := { s with reqs := s.reqs.filter fun x => x.tag != r.tag }
  (s.answerInvalidations r.port).apertureDone r.vd

/-- A command that goes on with its unit after an answer, or is discarded where a kill-and-drain has waited for it; no halt has stopped its block meanwhile (R164, R311). -/
def State.cmdBack (s : State) (id : Nat) (f : Cmd → Cmd) : State :=
  let c := s.cmd id
  if !s.hasCmd id then s
  else if s.killed c && c.held then s.discard id
  else s.modCmd id fun x => { f x with st := if s.cmdRuns c then .running else .queued }

/-- A command that an answer ends; one that a kill-and-drain covers is discarded (R428). -/
def State.cmdFail (s : State) (id : Nat) (f : Cmd → CmdFault) : State :=
  if s.hasCmd id && s.killed (s.cmd id) then s.discard id else s.cmdBack id fun x => { x with fault := some (f x) }

/-- A thread's pending result of a request forgotten. -/
def Thread.forget (x : Thread) (tag : Nat) : Thread := { x with pending := x.pending.filter fun p => p.tag != tag }

/-! ## Data (R205, R221) -/

/-- A host line filled in a core's L1 with what a request has brought, where the line still waits for just that request: one
asked for before the core's last acquire brings nothing (R189, R200). -/
def State.fillHost (s : State) (core vd line tag : Nat) (bytes : List Byte) : State :=
  match s.l1Line core vd line with
  | some l => if l.fill == tag then s.putL1 core (l.fillFrom (BitVec.ofNat 1024 (bytesNat bytes)) 0) else s
  | none => s

/-- The pending results of a request with the words that it has brought, in order, and no tag. -/
def arriveAll (tag : Nat) : List PendingResult → List Word → List PendingResult
  | [], _ => []
  | p :: r, ws =>
    if p.tag == tag then { p with vals := ws.take 1, arrived := true, tag := 0 } :: arriveAll tag r (ws.drop 1)
    else p :: arriveAll tag r ws

/-- The data of a thread's load: its pending results have arrived, and an acquire performs its steps; a thread that waits for the
line presents its instruction again. -/
def State.loadData (s : State) (r : HostReq) (t : TRef) (fill : Bool) (line off size : Nat) (sext : Bool) (mask own : Nat)
    (acq : Option Nat) (bytes : List Byte) : State :=
  let s := if fill then s.fillHost (s.coreOf t) r.vd line r.tag bytes
    else (s.l1WriteBack (s.coreOf t) r.vd line).overtake (s.coreOf t) r.vd (line * 128 + r.va.toNat % 128) bytes.length
      (bytesNat bytes) false
  if (s.th t).park == .host r.tag then s.modTh t fun x => { x with park := .running }
  else
    let ws := loadWords size sext (mergeBytes size mask own (bytesAt bytes off size))
    let here := (s.th t).pending.any fun p => p.tag == r.tag
    let s := s.modTh t fun x => { x with pending := arriveAll r.tag x.pending ws }
    match acq, here with
    | some sc, true => s.acquire t sc
    | _, _ => s

/-- The line of a GPA that a request's host address stands for. -/
def State.atomicLine (s : State) (r : HostReq) : Nat :=
  match (s.vd r.vd).aps.find? fun x => x.2.v && x.2.port == r.port && x.2.haddr * 2 ^ 21 ≤ r.haddr &&
      r.haddr < (x.2.haddr + x.2.glen) * 2 ^ 21 with
  | some (_, a) => (a.gbase * 2 ^ 21 + (r.haddr - a.haddr * 2 ^ 21)) / 128
  | none => 0

/-- The data of an AtomicOp: the old value is due, the core's copy of the line, which it has overtaken, is dropped (R190), and the
thread steps on. -/
def State.atomicData (s : State) (r : HostReq) (t : TRef) (dst : Option (Nat × Nat)) (la : Nat) (bytes : List Byte) : State :=
  if (s.th t).park != .host r.tag then s
  else
    let s := s.l1Drop (s.coreOf t) r.vd (s.atomicLine r)
    let s := match dst with
      | some (d, n) => s.later t d la (natWords n (bytesNat bytes))
      | none => s
    s.resume t

/-- What a read of a reader has brought, or its failure. -/
def State.putGot (s : State) (vd who va n : Nat) (bytes : Option (List Byte)) : State :=
  s.modVd vd fun v => { v with got := v.got ++ [{ who := who, va := va, n := n, bytes := bytes }] }

/-- What the data of a completion does. -/
def State.reqData (s : State) (r : HostReq) (bytes : List Byte) : State :=
  match r.what with
  | .load t fill line off size sext mask own acq => s.loadData r t fill line off size sext mask own acq bytes
  | .atomic t dst la => s.atomicData r t dst la bytes
  | .cmd id => s.cmdBack id fun x => { x with host := x.host ++ [(r.va.toNat, bytes)] }
  | .signal k => if s.hasKe k then s.signalDone (s.ke k) else s
  | .ats _ _ _ _ => s
  | .quay vd who va n => s.putGot vd who va n (some bytes)
  | .fill core vd line => s.fillHost core vd line r.tag bytes
  | .flush _ => s

/-! ## Failure (R205, R309, R366, R367, R389) -/

/-- The level of the leaf that maps an address, for a notice. -/
def State.leafLevel (s : State) (vd va : Nat) : Nat :=
  match s.walk vd va fun _ => none with
  | .leaf level _ _ _ _ _ => level
  | _ => 3

/-- A thread's read or translation that the host refused: a permission fault (R344, R367). It is Precise (R400): where the thread
waits at its instruction, it traps there. A load in flight traps with TRAPPC at the load itself, when the thread could next issue
(log entry 47). -/
def State.threadProt (s : State) (r : HostReq) (t : TRef) : State :=
  if (s.th t).park == .host r.tag then s.trap t causeProt r.va
  else if (s.th t).pending.any fun p => p.tag == r.tag then
    (s.modTh t fun x => { x.forget r.tag with late := some (r.pc, r.va) }).lateTrap t
  else s

/-- The REASON 3 notice of a translation that was denied (R366). -/
def State.deniedNotice (s : State) (r : HostReq) (src : Nat) : Notice :=
  pageNotice 0 (r.va.toNat / 65536) (s.leafLevel r.vd r.va.toNat) r.need src 3

/-- The thread that waits for a Translation Request. -/
def State.atsThread (s : State) (tag : Nat) : Option TRef := (s.threads.find? fun x => x.park == .host tag).map (·.ref)

/-- The notice of a reader whose translation was denied: for a queue's Quay its queue; Harbour has no bit of its own in SRC, and a
flit is a fabric engine's (log entry 47). -/
def readerNotice (w va level need : Nat) : Notice :=
  let src := if w ≥ 2048 then 2 else if w == ringReader || w ≥ 1024 then 0 else 4
  let p := pageNotice 0 (va / 65536) level need src 3
  if src == 4 then { p with queue := w % 64 } else p

/-- A translation denied to a reader of Quay or Harbour: its read fails. -/
def State.readerDenied (s : State) (vd who : Nat) (r : HostReq) : State :=
  let s := (s.putGot vd who r.va.toNat 0 none).post vd (readerNotice who r.va.toNat (s.leafLevel r.vd r.va.toNat) r.need)
  s.modQueue vd (who % 64) fun u => { u with pktPoll := {}, sigPoll := {} }

/-- What a refused posted write means to who made it (R344, R366): PROT for a thread, which traps at its store once it could issue (log
entry 47), or for a command; for a queue's Quay XLATE. -/
def State.postProt (s : State) (x : PostWait) (r : HostReq) : State :=
  match x.by_.thread, x.by_.cmd, x.by_.queue with
  | some (t, pc), _, _ => (s.modTh t fun y => if y.late.isSome then y else { y with late := some (pc, dw x.by_.va) }).lateTrap t
  | none, some id, _ => s.cmdFail id fun c => c.addrFault causeProt x.by_.va (s.leafLevel r.vd x.by_.va) 2
  | none, none, some q => s.queueError x.vd q codeXlate
  | none, none, none => s

/-- The notice of a refused posted write (R354): of its thread, its command or its queue. -/
def State.postNotice (s : State) (x : PostWait) (r : HostReq) : Notice :=
  let n := s.deniedNotice r x.by_.src
  match x.by_.thread, x.by_.cmd, x.by_.queue with
  | some (t, pc), _, _ => { s.noticeOf t n with pc := pc.toNat }
  | none, some id, _ => if s.hasCmd id then s.cmdNotice (s.cmd id) n else n
  | none, none, some q => { n with queue := q }
  | none, none, none => n

/-- A translation denied to what waits under its tag: a thread, a held flit, or a posted write, which is dropped. -/
def State.tagDenied (s : State) (vd : Nat) (r : HostReq) : State :=
  match s.atsThread r.tag, s.posts.find? fun x => x.tag == some r.tag with
  | some t, _ => (s.post vd { s.noticeOf t (s.deniedNotice r 1) with pc := (s.th t).pc.toNat }).threadProt r t
  | none, some x =>
    let s := s.post vd (s.postNotice x r)
    ({ s with posts := s.posts.filter fun x => x.tag != some r.tag } : State).postProt x r
  | none, none =>
    let s := s.post vd (s.deniedNotice r 2)
    { s with held := s.held.map fun x => if x.tag == some r.tag then { x with denied := true } else x }

/-- A translation denied (R366). -/
def State.atsDenied (s : State) (r : HostReq) : State :=
  match r.what with
  | .ats vd _ _ (some who) => s.readerDenied vd who r
  | .ats vd _ _ none => s.tagDenied vd r
  | .cmd id =>
    let src := match (s.cmd id).eng with
      | .quay _ => 4
      | _ => 2
    let s := if s.hasCmd id then s.post r.vd (s.cmdNotice (s.cmd id) (s.deniedNotice r src)) else s
    s.cmdFail id fun c => c.addrFault causeProt r.va.toNat (s.leafLevel r.vd r.va.toNat) r.need
  | _ => s

/-- A request that completed with Unsupported Request, Completer Abort or not at all. -/
def State.reqFailed (s : State) (r : HostReq) : State :=
  match r.what with
  | .load t _ _ _ _ _ _ _ _ => s.threadProt r t
  | .atomic t _ _ => if (s.th t).park == .host r.tag then s.trap t causeHostAtomic r.va else s
  | .cmd id => if r.size == 0 then s.atsDenied r else s.cmdFail id fun c => c.addrFault causeProt r.va.toNat 0 1
  | .signal k => if s.hasKe k then s.signalLost (s.ke k) codeSignal else s
  | .ats _ _ _ _ => s.atsDenied r
  | .quay vd who va n => s.putGot vd who va n none
  | .fill _ _ _ => s
  | .flush _ => s

/-! ## Insecure streams (R375, R376, R380) -/

def State.stream (s : State) (id : Nat) : Stream := (s.streams.find? fun x => x.id == id).getD { id := id }

def State.modStream (s : State) (id : Nat) (f : Stream → Stream) : State :=
  let s : State := if s.streams.any fun x => x.id == id then s else { s with streams := s.streams ++ [{ id := id }] }
  { s with streams := s.streams.map fun x => if x.id == id then f x else x }

/-- A request of a stream that has become Insecure, aborted (R380). -/
def State.ideAbort (s : State) (r : HostReq) : State :=
  let s := s.closeReq r
  match r.what with
  | .load t _ _ _ _ _ _ _ _ => s.consume t r.va.toNat
  | .atomic t _ _ => s.consume t r.va.toNat
  | .cmd id => s.cmdFail id fun c => c.errFault 0x09
  | .signal k => if s.hasKe k then s.signalLost (s.ke k) codeSignal else s
  | .ats vd _ _ (some who) => s.putGot vd who r.va.toNat 0 none
  | .ats _ _ _ none => match s.atsThread r.tag with
    | some t => s.consume t r.va.toNat
    | none =>
      { s with held := s.held.map fun x => if x.tag == some r.tag then { x with denied := true } else x
               posts := s.posts.filter fun x => x.tag != some r.tag }
  | .quay vd who va n => s.putGot vd who va n none
  | .fill _ _ _ => s
  | .flush _ => s

/-- An interface enters ERROR (R375, R376): from then on it has no DMA, its blocks halt, what has not been issued to the host is dropped,
and its outstanding requests are given up (R392). -/
def State.enterError (s : State) (vd : Nat) : State :=
  let s := (s.modVd vd fun v => { v with tdisp := { v.tdisp with state := 3 } }).fire vd 11
  let s := s.haltVd vd
  let s : State := { s with
    posts := s.posts.filter fun x => x.vd != vd
    held := s.held.filter fun x => s.flitVd x.flit != some vd
    kernels := s.kernels.map fun k => if k.vd == vd then { k with posted := [] } else k }
  (s.reqs.filter fun r => r.vd == vd).foldl State.closeReq s

/-- What uses a stream that has failed is aborted (R380): the outstanding requests and the posted writes not yet sent, whose threads end
with UE_CONSUMED, and the commands whose transfers have used it. -/
def State.abortStream (s : State) (id : Nat) : State :=
  let s := (s.reqs.filter fun r => r.stream == id).foldl State.ideAbort s
  let gone := s.posts.filter fun x => x.stream == id
  let s := gone.foldl (fun (s : State) x => match x.by_.thread with
    | some (t, _) => if s.live t then s.consume t x.by_.va else s
    | none => s) { s with posts := s.posts.filter fun x => x.stream != id }
  (s.cmds.filter fun c => c.streams.contains id && !c.ended && c.fault.isNone).foldl
    (fun s c => s.cmdFail c.id fun x => x.errFault 0x09) s

/-- What the loss of a stream means: a locked interface that it is bound to enters ERROR, unless an unlock goes on (R378); what any other
VD has on it is aborted. -/
def State.streamLost (s : State) (id : Nat) : State :=
  let vd := (s.stream id).vd
  (if vd != 0 && (s.vd vd).locked && !(s.vd vd).unlock then s.enterError vd else s).abortStream id

/-- A stream that is Insecure: only new keys of both sets bring it back (R380). -/
def Stream.lose (x : Stream) : Stream :=
  { x with secure := false, failed := true, spent := false, next := none, keys := x.keys.map fun k => { k with stale := true } }

/-- A stream becomes Insecure after a failure, which is counted (R380). -/
def State.insecure (s : State) (id : Nat) : State :=
  let s := s.modStream id Stream.lose
  (s.countError (s.stream id).vd 7).streamLost id

/-- Whether a stream has the keys of a set for every sub-stream and direction. -/
def Stream.hasSet (x : Stream) (k : Nat) : Bool :=
  (List.range 3).all fun sb => [true, false].all fun rx =>
    x.keys.any fun e => e.sub == sb && e.rx == rx && e.set == k && !e.stale

/-- A TLP received on a stream (R379, R380), and whether it is taken: one whose MAC fails, on a stream that is not Secure, or with a
K bit that names an unprogrammed set makes the stream Insecure, and it is discarded, as every later one is. -/
def State.receive (s : State) (sb : Nat) (m : IdeMark) : State × Bool :=
  let x := s.stream m.stream
  if x.failed then (s, false)
  else if !x.secure || !m.macOk || !x.hasSet m.set then (s.insecure m.stream, false)
  else
    let s := s.modStream m.stream fun x => x.heard sb m.set
    (s, !(s.stream m.stream).failed)

/-! ## Completions -/

/-- Whether a completion is taken. One on its request's stream is checked as a TLP of it (R380); one in the clear answers only a request
that went in the clear. -/
def State.takes (s : State) (r : HostReq) (c : Completion) : State × Bool :=
  let x := s.stream r.stream
  if c.ide then s.receive 2 { stream := r.stream, set := c.set, macOk := c.macOk } else (s, !x.secure && !x.failed)

/-- A completion's bytes: a read may be answered by several completions, in order (R389); once all are there the request ends. -/
def State.moreData (s : State) (r : HostReq) (bytes : List Byte) : State :=
  let all := r.part ++ bytes
  if (r.size == 0 && !r.what.isFlush) || (r.size != 0 && bytes.isEmpty) || all.length > r.size then s
  else if all.length == r.size then (s.closeReq r).reqData r all
  else { s with reqs := s.reqs.map fun x => if x.tag == r.tag then { x with part := all } else x }

/-- HOST_COMPLETION (R205, R367, R380, R392): a completion that matches no request is discarded, and so is every TLP of an
Insecure stream. -/
def execHostCompletion (tag : Nat) (c : Completion) (s : State) : Host.Outcome State Fault Refusal :=
  .next (match s.reqs.find? fun r => r.tag == tag with
    | none => s
    | some r =>
      match s.takes r c with
        | (s, false) => s
        | (s, true) =>
          match c.body with
          | .data bytes => s.moreData r bytes
          | .unsupported => (s.closeReq r).reqFailed r
          | .abort => (s.closeReq r).reqFailed r)

/-- The completion timeout (R389), in service cycles. -/
def completionLimit : Nat := 33554432

/-- COMPLETION_TIMEOUT (R389). -/
def execCompletionTimeout (tag : Nat) (s : State) : Host.Outcome State Fault Refusal :=
  .next (match s.reqs.find? fun r => r.tag == tag with
    | none => s
    | some r => if s.clk.svc < r.since + completionLimit then s else (s.closeReq r).reqFailed r)

/-! ## ATS (R366, R367) -/

/-- A translation entered into a port's cache of 4,096 entries. -/
def State.atcFill (s : State) (port fn h bus : Nat) : State :=
  { s with ports := s.ports.modify port fun p =>
      { p with atc := ((fn, h / 4096, bus / 4096) :: p.atc.filter fun x => !(x.1 == fn && x.2.1 == h / 4096)).take 4096 } }

/-- What waits for a translation goes on. -/
def State.atsGranted (s : State) (r : HostReq) : State :=
  match r.what with
  | .ats vd _ _ (some who) => s.modQueue vd (who % 64) fun u => { u with pktPoll := {}, sigPoll := {} }
  | .ats _ _ _ none => match s.atsThread r.tag with
    | some t => s.modTh t fun x => { x with park := .running }
    | none => s
  | .cmd c => s.cmdBack c fun x => x
  | _ => s

/-- ATS_TRANSLATION_COMPLETION (R366): the bus address, or a denial; on an IDE stream, a TLP of the set in use (log entry 28). What an
invalidation has overtaken is not entered: its requester takes a miss, and asks anew once the invalidation is answered (R367). -/
def execAtsTranslationCompletion (tag : Nat) (haddr : Option Nat) (s : State) : Host.Outcome State Fault Refusal :=
  .next (match s.reqs.find? fun r => r.tag == tag && r.size == 0 && !r.what.isFlush with
    | none => s
    | some r =>
      let x := s.stream r.stream
      match s.takes r { body := .abort, ide := x.secure || x.failed, set := (assocGet 2 x.rxSets).getD x.cur } with
      | (s, false) => s
      | (s, true) =>
        let s := s.closeReq r
        if r.stale then s.atsGranted r
        else match haddr with
          | some h => (s.atcFill r.port (s.vd r.vd).vfn r.haddr h).atsGranted r
          | none => s.atsDenied r)

/-- ATS_INVALIDATION_REQUEST (R367): the range's translations go at once; the answer waits for the requests that use them. -/
def execAtsInvalidationRequest (port fn lo hi : Nat) (s : State) : Host.Outcome State Fault Refusal :=
  .next (if (s.ports.getD port {}).invalidations.length ≥ 32 || !(s.ports.getD port {}).up then s
    else
      let overtaken (r : HostReq) : Bool :=
        r.port == port && r.size == 0 && !r.what.isFlush && (s.vd r.vd).vfn == fn && r.haddr / 4096 * 4096 < hi &&
          lo < r.haddr / 4096 * 4096 + 4096
      let s : State := { s with
        ports := s.ports.modify port fun p =>
          { p with
            atc := p.atc.filter fun x => !(x.1 == fn && x.2.1 * 4096 < hi && lo < x.2.1 * 4096 + 4096)
            invalidations := p.invalidations ++ [(fn, lo, hi)] }
        reqs := s.reqs.map fun r => if overtaken r then { r with stale := true } else r }
      s.answerInvalidations port)

/-! ## Links -/

/-- A stream's keys zeroised (R373, R374): a Secure one is lost to its VD. -/
def State.zeroiseStream (s : State) (id : Nat) : State :=
  let was := (s.stream id).secure
  let s := s.zeroStream id
  if was then s.streamLost id else s

/-- LINK_DOWN (R373): every key slot of the port is zeroised. -/
def execLinkDown (port : Nat) (s : State) : Host.Outcome State Fault Refusal :=
  let ids := (s.streams.filter fun x => x.id / 64 == port).map (·.id)
  .next (ids.foldl State.zeroiseStream { s with ports := s.ports.modify port fun p => { p with up := false } })

/-- LINK_UP (R389): the link has trained. -/
def execLinkUp (port : Nat) (s : State) : Host.Outcome State Fault Refusal :=
  .next { s with ports := s.ports.modify port fun p => { p with up := true } }

/-! ## IDE_KM and LINK_KM (R373, R379, R380, R384, R396) -/

/-- A mailbox; one never used is in its reset state. -/
def State.mbox (s : State) (mb : Nat) : Mailbox := (s.mailboxes.find? fun x => x.id == mb).getD { id := mb }

/-- Whether a mailbox has a session that FINISH has completed. -/
def State.inSession (s : State) (mb : Nat) : Bool := (s.mbox mb).sessions.any (·.finished)

/-- ERROR, UnexpectedRequest (R386). -/
def spdmUnexpected : List Byte := [0x13, 0x7F, 0x04, 0x00]

/-- The VD that a function serves: VD 0 for the physical function, or the enabled VD bound to it. -/
def State.vdOfFn (s : State) (fn : Nat) : Option Nat :=
  if fn == 0 then some 0 else (s.vds.find? fun v => v.vfn == fn && v.vstate ≥ 2).map (·.id)

/-- A mailbox's work charged to its VD's ring, or to the operator's (R384). -/
def State.chargeMbox (s : State) (mb : Nat) : State :=
  match s.vdOfFn mb with
  | some vd => s.chargeRing vd
  | none => s

/-- A message that travels in a secured session of a mailbox. -/
def State.secured (s : State) (mb : Nat) (body : State → State) : Host.Outcome State Fault Refusal :=
  .next (if s.inSession mb then body (s.chargeMbox mb) else (s.chargeMbox mb).emit (.spdm mb spdmUnexpected))

/-- An answer of IDE_KM: 0 done, 1 refused. -/
def ideOk : Nat := 0
def ideError : Nat := 1

/-- A Secure stream under a key set, every counter at 1. -/
def Stream.start (x : Stream) (k : Nat) : Stream :=
  { x with
    failed := false, secure := true, cur := k, rxSets := [(0, k), (1, k), (2, k)], next := none, counters := [], noticed := false }

/-- A stream with one more key. New keys of both sets return a failed one to Secure, with every counter at 1. -/
def Stream.program (x : Stream) (k : KeyProg) : Stream :=
  let e : KeySet := { sub := k.sub, rx := k.rx, set := k.set, key := k.key, iv := k.iv }
  let x := { x with keys := e :: x.keys.filter fun y => !(y.sub == k.sub && y.rx == k.rx && y.set == k.set) }
  let used := if k.rx then (assocGet k.sub x.rxSets).getD x.cur else x.cur
  if x.failed && x.hasSet 0 && x.hasSet 1 then x.start 0
  else if x.secure && used == k.set then
    { x with counters := x.counters.filter fun c => !(c.1 == k.sub && c.2.1 == k.rx) }
  else x

/-- KEY_PROG (R373, R374). -/
def execKeyProg (k : KeyProg) (s : State) : Host.Outcome State Fault Refusal :=
  s.secured 0 fun s =>
    if 255 < k.stream || 2 < k.sub || 1 < k.set || !(s.stream k.stream).usable then s.emit (.ideKm k.stream ideError)
    else (s.modStream k.stream (·.program k)).emit (.ideKm k.stream ideOk)

/-- K_SET_GO (R379): the first set makes the stream Secure; a further one takes over with the next TLP sent, and with the first
received under its K bit. -/
def execKSetGo (stream set : Nat) (s : State) : Host.Outcome State Fault Refusal :=
  s.secured 0 fun s =>
    let x := s.stream stream
    if 255 < stream || 1 < set || x.failed || !x.hasSet set then s.emit (.ideKm stream ideError)
    else
      let s := s.modStream stream fun x =>
        if !x.secure then x.start set
        else if x.cur == set then { x with next := none }
        else { x with next := some set }
      s.emit (.ideKm stream ideOk)

/-- Whether a stream uses a set: to send, or on some sub-stream to receive. -/
def Stream.uses (x : Stream) (set : Nat) : Bool := x.cur == set || x.rxSets.any fun y => y.2 == set

/-- K_SET_STOP (R373, R374): that set alone is zeroised. A Secure stream that uses it is Insecure, without a failure to count. -/
def execKSetStop (stream set : Nat) (s : State) : Host.Outcome State Fault Refusal :=
  s.secured 0 fun s =>
    if 255 < stream || 1 < set then s.emit (.ideKm stream ideError)
    else
      let x := s.stream stream
      let (s, bad) := s.zeroCheck
      let s := s.modStream stream fun x =>
        { x with
          keys := x.keys.filter fun e => e.set != set
          next := if x.next == some set then none else x.next
          usable := x.usable && !bad }
      (if x.secure && x.uses set then (s.modStream stream Stream.lose).streamLost stream else s).emit (.ideKm stream ideOk)

/-- LINK_KM (R396): a partition's link key; arrivals that waited for it are sent (R399). -/
def execLinkKm (part : Nat) (key : BitVec 256) (s : State) : Host.Outcome State Fault Refusal :=
  s.secured 0 fun s =>
    if 15 < part || !s.feature 6 || !(s.parts.getD part {}).linkUsable then s.emit (.ideKm (256 + part) ideError)
    else
      let s := s.modPart part fun p => { p with linkKey := some key, linkTx := [] }
      (s.checkBars).emit (.ideKm (256 + part) ideOk)

end Sys2Proof.Machine
end

