-- ==== Sys2Proof/Machine/Sha.lean ====
section
/-! DEFINITION. SHA-512 (R384 to R386, R435), as FIPS 180-4 states it: the spec names the function and does not define it
(PRESUMED, log entry 55). -/

namespace Sys2Proof.Machine

/-- The constants of the 80 rounds. -/
def shaK : List DWord :=
  [0x428A2F98D728AE22, 0x7137449123EF65CD, 0xB5C0FBCFEC4D3B2F, 0xE9B5DBA58189DBBC,
   0x3956C25BF348B538, 0x59F111F1B605D019, 0x923F82A4AF194F9B, 0xAB1C5ED5DA6D8118,
   0xD807AA98A3030242, 0x12835B0145706FBE, 0x243185BE4EE4B28C, 0x550C7DC3D5FFB4E2,
   0x72BE5D74F27B896F, 0x80DEB1FE3B1696B1, 0x9BDC06A725C71235, 0xC19BF174CF692694] ++
  [0xE49B69C19EF14AD2, 0xEFBE4786384F25E3, 0x0FC19DC68B8CD5B5, 0x240CA1CC77AC9C65,
   0x2DE92C6F592B0275, 0x4A7484AA6EA6E483, 0x5CB0A9DCBD41FBD4, 0x76F988DA831153B5,
   0x983E5152EE66DFAB, 0xA831C66D2DB43210, 0xB00327C898FB213F, 0xBF597FC7BEEF0EE4,
   0xC6E00BF33DA88FC2, 0xD5A79147930AA725, 0x06CA6351E003826F, 0x142929670A0E6E70] ++
  [0x27B70A8546D22FFC, 0x2E1B21385C26C926, 0x4D2C6DFC5AC42AED, 0x53380D139D95B3DF,
   0x650A73548BAF63DE, 0x766A0ABB3C77B2A8, 0x81C2C92E47EDAEE6, 0x92722C851482353B,
   0xA2BFE8A14CF10364, 0xA81A664BBC423001, 0xC24B8B70D0F89791, 0xC76C51A30654BE30,
   0xD192E819D6EF5218, 0xD69906245565A910, 0xF40E35855771202A, 0x106AA07032BBD1B8] ++
  [0x19A4C116B8D2D0C8, 0x1E376C085141AB53, 0x2748774CDF8EEB99, 0x34B0BCB5E19B48A8,
   0x391C0CB3C5C95A63, 0x4ED8AA4AE3418ACB, 0x5B9CCA4F7763E373, 0x682E6FF3D6B2B8A3,
   0x748F82EE5DEFB2FC, 0x78A5636F43172F60, 0x84C87814A1F0AB72, 0x8CC702081A6439EC,
   0x90BEFFFA23631E28, 0xA4506CEBDE82BDE9, 0xBEF9A3F7B2C67915, 0xC67178F2E372532B] ++
  [0xCA273ECEEA26619C, 0xD186B8C721C0C207, 0xEADA7DD6CDE0EB1E, 0xF57D4F7FEE6ED178,
   0x06F067AA72176FBA, 0x0A637DC5A2C898A6, 0x113F9804BEF90DAE, 0x1B710B35131C471B,
   0x28DB77F523047D84, 0x32CAAB7B40C72493, 0x3C9EBE0A15C9BEBC, 0x431D67C49C100D4C,
   0x4CC5D4BECB3E42B6, 0x597F299CFC657E2A, 0x5FCB6FAB3AD6FAEC, 0x6C44198C4A475817]

/-- Two rotations and a further rotation or shift, joined. -/
def shaMix (x y : DWord) (i j : Nat) : DWord := x.rotateRight i ^^^ x.rotateRight j ^^^ y

/-- One round with its constant and its message word. -/
def ShaWords.round (x : ShaWords) (k w : DWord) : ShaWords :=
  let t := x.h + shaMix x.e (x.e.rotateRight 41) 14 18 + ((x.e &&& x.f) ^^^ (~~~ x.e &&& x.g)) + k + w
  let u := shaMix x.a (x.a.rotateRight 39) 28 34 + ((x.a &&& x.b) ^^^ (x.a &&& x.c) ^^^ (x.b &&& x.c))
  { a := t + u, b := x.a, c := x.b, d := x.c, e := x.d + t, f := x.e, g := x.f, h := x.g }

/-- The message word 16 places behind the first of 16. -/
def shaNext (l : List DWord) : DWord :=
  let p := l.getD 1 0
  let q := l.getD 14 0
  l.getD 0 0 + shaMix p (p >>> 7) 1 8 + l.getD 9 0 + shaMix q (q >>> 6) 19 61

/-- A block's 16 words taken into the hash value. -/
def ShaWords.block (x : ShaWords) (l : List DWord) : ShaWords :=
  let y := (shaK.foldl (fun (z : ShaWords × List DWord) k =>
    (z.1.round k (z.2.getD 0 0), z.2.drop 1 ++ [shaNext z.2])) (x, l)).1
  { a := x.a + y.a, b := x.b + y.b, c := x.c + y.c, d := x.d + y.d, e := x.e + y.e, f := x.f + y.f, g := x.g + y.g
    h := x.h + y.h }

/-- The words of a block; the first byte of a word is its highest. -/
def shaWordsOf (l : List Byte) : List DWord := (List.range 16).map fun i =>
  BitVec.ofNat 64 (bytesNat ((l.drop (8 * i)).take 8).reverse)

/-- Whole blocks taken in, with what is left. -/
def ShaWords.blocks (x : ShaWords) : Nat → List Byte → ShaWords × List Byte
  | 0, l => (x, l)
  | n + 1, l => if l.length < 128 then (x, l) else (x.block (shaWordsOf (l.take 128))).blocks n (l.drop 128)

/-- Some bytes taken into a running digest. -/
def Sha.add (x : Sha) (l : List Byte) : Sha :=
  let all := x.rest ++ l
  let r := x.words.blocks (all.length / 128) all
  { words := r.1, rest := r.2, len := x.len + l.length }

/-- The 64 bytes of a hash value. -/
def ShaWords.bytes (x : ShaWords) : List Byte :=
  [x.a, x.b, x.c, x.d, x.e, x.f, x.g, x.h].flatMap fun w => (natBytes 8 w.toNat).reverse

/-- The digest of what a running one has taken, its first byte lowest. -/
def Sha.done (x : Sha) : BitVec 512 :=
  let pad := (x.rest ++ [0x80]) ++ List.replicate ((239 - x.rest.length) % 128) 0 ++ (natBytes 16 (8 * x.len)).reverse
  BitVec.ofNat 512 (bytesNat (x.words.blocks 2 pad).1.bytes)

/-- SHA-512 of some bytes. -/
def sha (l : List Byte) : BitVec 512 := (({} : Sha).add l).done

end Sys2Proof.Machine
end

