-- ==== Sys2Proof/Machine/Attest.lean ====
section
/-! DEFINITION. The TDISP interface of a confidential VD (R375 to R378) and the SPDM responder (R384 to R387). -/

namespace Sys2Proof.Machine

/-! ## The interface report (R375, R385) -/

/-- A VD's aperture entries and stage-2 block list as bytes: what index 0x23 digests. -/
def Vd.mapBytes (v : Vd) : List Byte :=
  (List.range 16).flatMap (fun i => natBytes 16 ((assocGet i v.aps).getD {}).toNat) ++
    v.s2.flatMap fun x => natBytes 1 x.1 ++ natBytes 1 x.2

/-- The interface report: the VD's entry, its map, its shared blocks and the ranks that name it. -/
def State.interfaceReport (s : State) (vd : Nat) : List Byte :=
  let v := s.vd vd
  let ranks := ((s.parts.getD v.part {}).ranks).filter fun r => r.pkgid == 0 && r.vd == vd
  natBytes 8 v.entry ++ v.mapBytes ++ v.sharedBlocks.flatMap (natBytes 1 ·) ++
    ranks.flatMap fun r => natBytes 2 r.rank ++ natBytes 4 r.entry

/-! ## TDISP (R375 to R378) -/

/-- A TDISP request of a VD's mailbox: it needs a session; a VD without an interface answers with an error. -/
def State.tdispOp (s : State) (vd : Nat) (body : State → State) : Host.Outcome State Fault Refusal :=
  let v := s.vd vd
  if v.vfn == 0 || !s.hasVd vd then .next s
  else s.secured v.vfn fun s => if v.conf then body s else s.emit (.tdisp vd .invalidInterfaceState)

/-- The condition of a lock. -/
def State.lockable (s : State) (vd : Nat) : Bool :=
  let v := s.vd vd
  v.vstate == 2 && v.tdisp.state == 0 && !(s.blocks.any fun b => b.vd == vd) &&
    v.queues.all (fun q => q.2.accepted.isEmpty) && !(s.moves.any fun m => m.owner == vd || m.vd == vd) &&
    v.aps.all fun x => !x.2.v || ((s.stream x.2.stream).secure && (s.stream x.2.stream).vd == vd)

/-- LOCK_INTERFACE_REQUEST (R375): the report is recorded and a fresh start nonce returned. -/
def execLockInterfaceRequest (vd : Nat) (s : State) : Host.Outcome State Fault Refusal :=
  s.tdispOp vd fun s =>
    if !s.lockable vd then s.emit (.tdisp vd .invalidInterfaceState)
    else
      let (m, s) := s.fresh
      let nonce : BitVec 256 := (Config.random m).setWidth 256
      let report := sha (s.interfaceReport vd)
      ((s.modVd vd fun v => { v with tdisp := { state := 1, nonce := nonce, report := report } }).fire vd 11).emit
        (.tdisp vd (.locked nonce))

/-- START_INTERFACE_REQUEST (R375). -/
def execStartInterfaceRequest (vd : Nat) (nonce : BitVec 256) (s : State) : Host.Outcome State Fault Refusal :=
  s.tdispOp vd fun s =>
    let v := s.vd vd
    if v.tdisp.state != 1 || v.unlock then s.emit (.tdisp vd .invalidInterfaceState)
    else if v.tdisp.nonce != nonce then s.emit (.tdisp vd .invalidNonce)
    else ((s.modVd vd fun v => { v with tdisp := { v.tdisp with state := 2 } }).fire vd 11).emit (.tdisp vd .started)

/-- STOP_INTERFACE_REQUEST (R375, R378): an unlock; a second one has no further effect. -/
def execStopInterfaceRequest (vd : Nat) (s : State) : Host.Outcome State Fault Refusal :=
  s.tdispOp vd fun s =>
    let v := s.vd vd
    if v.tdisp.state == 0 then s.emit (.tdisp vd .invalidInterfaceState)
    else if v.unlock || v.vstate != 2 then s.emit (.tdisp vd .stopped)
    else (s.unlockStart vd).emit (.tdisp vd .stopped)

/-- GET_DEVICE_INTERFACE_STATE (R378). -/
def execGetDeviceInterfaceState (vd : Nat) (s : State) : Host.Outcome State Fault Refusal :=
  s.tdispOp vd fun s => s.emit (.tdisp vd (.state (s.vd vd).tdisp.state))

/-! ## Mailboxes (R384, R386) -/

def State.modMbox (s : State) (mb : Nat) (f : Mailbox → Mailbox) : State :=
  { s with mailboxes := f (s.mbox mb) :: s.mailboxes.filter fun x => x.id != mb }

/-- Whether a mailbox answers: boot has succeeded, and its function is presented or bound. -/
def State.mboxUp (s : State) (mb : Nat) : Bool :=
  s.boot.booted && !s.callsDead && (mb == 0 || (s.portOf mb).isSome || s.vds.any fun v => v.vfn == mb)

/-- A request on a mailbox: one that its state does not allow is answered with UnexpectedRequest, and changes nothing. -/
def State.mail (s : State) (mb : Nat) (ok : Mailbox → Bool) (body : State → State) : Host.Outcome State Fault Refusal :=
  .next (if !s.mboxUp mb then s
    else if !ok (s.mbox mb) then (s.chargeMbox mb).emit (.spdm mb spdmUnexpected)
    else body (s.chargeMbox mb))

/-- A request and its response added to the transcript, and the response sent. -/
def State.record (s : State) (mb : Nat) (msg resp : List Byte) (f : Mailbox → Mailbox) : State :=
  (s.modMbox mb fun x => { f x with hash := x.hash.add (msg ++ resp) }).emit (.spdm mb resp)

/-- A response header of SPDM 1.3. -/
def spdmHeader (code p1 p2 : Nat) : List Byte := [0x13, BitVec.ofNat 8 code, BitVec.ofNat 8 p1, BitVec.ofNat 8 p2]

/-- A response whose body rests on keys or certificates. -/
def State.spdmResp (s : State) (mb code p2 : Nat) : List Byte × State :=
  let (m, s) := s.fresh
  (spdmHeader code 0 p2 ++ Config.spdmBody code (s.mbox mb).hash.done m, s)

/-- GET_VERSION (R384): the mailbox starts anew, and its sessions end. -/
def execGetVersion (mb : Nat) (msg : List Byte) (s : State) : Host.Outcome State Fault Refusal :=
  s.mail mb (fun _ => true) fun s =>
    (s.modMbox mb fun _ => { id := mb }).record mb msg [0x10, 0x04, 0x00, 0x00, 0x00, 0x01, 0x00, 0x13] fun x => { x with conn := 1 }

/-- A request answered under the transcript in one connection state, which it may advance. -/
def State.negotiate (s : State) (mb at_ next code p2 : Nat) (msg : List Byte) : Host.Outcome State Fault Refusal :=
  s.mail mb (fun x => x.conn == at_) fun s =>
    let (resp, s) := s.spdmResp mb code p2
    s.record mb msg resp fun x => { x with conn := next }

/-- GET_CAPABILITIES (R384). -/
def execGetCapabilities (mb : Nat) (msg : List Byte) (s : State) : Host.Outcome State Fault Refusal :=
  s.negotiate mb 1 2 0x61 0 msg

/-- The ALGORITHMS response: the choices of R384 (SHA-512 for measurements, RSASSA-4096, SHA-512, P-384, AES-256-GCM) in the layout
of SPDM 1.3 (PRESUMED, log entry 55). -/
def spdmAlgorithms : List Byte :=
  spdmHeader 0x63 3 0 ++ natBytes 2 48 ++ [0x01, 0x02] ++ natBytes 4 0x08 ++ natBytes 4 0x20 ++ natBytes 4 0x04 ++
    List.replicate 16 0 ++ [0x02, 0x20] ++ natBytes 2 0x10 ++ [0x03, 0x20] ++ natBytes 2 0x02 ++ [0x05, 0x20] ++ natBytes 2 0x01

/-- NEGOTIATE_ALGORITHMS (R384). -/
def execNegotiateAlgorithms (mb : Nat) (msg : List Byte) (s : State) : Host.Outcome State Fault Refusal :=
  s.mail mb (fun x => x.conn == 2) fun s => s.record mb msg spdmAlgorithms fun x => { x with conn := 3 }

/-- GET_DIGESTS (R384, R386): slot 0 holds a chain. -/
def execGetDigests (mb : Nat) (msg : List Byte) (s : State) : Host.Outcome State Fault Refusal := s.negotiate mb 3 3 0x01 1 msg

/-- GET_CERTIFICATE (R384, R386). -/
def execGetCertificate (mb : Nat) (msg : List Byte) (s : State) : Host.Outcome State Fault Refusal := s.negotiate mb 3 3 0x02 0 msg

/-- CHALLENGE (R386): the signature is over the transcript that ends with the answer's other fields. The mailbox keeps the transcript
without this exchange, so that a second answer signs its own alone. -/
def execChallenge (mb : Nat) (msg : List Byte) (s : State) : Host.Outcome State Fault Refusal :=
  s.mail mb (fun x => x.conn == 3) fun s =>
    let (m, s) := s.fresh
    let h := (s.mbox mb).hash
    let open_ := spdmHeader 0x03 0 1 ++ Config.spdmBody 0x03 h.done m
    s.emit (.spdm mb (open_ ++ Config.spdmBody 0x103 (h.add (msg ++ open_)).done m))

/-! ## Measurements (R385) -/

/-- A measurement's content, for an index that the mailbox answers. -/
def State.measurement (s : State) (mb i : Nat) : Option (List Byte) :=
  if 1 ≤ i && i ≤ 16 then some (natBytes 64 (s.boot.meas.getD (i - 1) 0).toNat)
  else if mb == 0 then none
  else match s.vdOfFn mb with
    | none => none
    | some vd =>
      let v := s.vd vd
      match i with
      | 0x20 => some (natBytes 8 v.entry ++ natBytes 1 v.part)
      | 0x21 => some (natBytes 2 3 ++ natBytes 2 s.boot.fwMinor)
      | 0x22 => some (natBytes 64 v.tdisp.report.toNat)
      | 0x23 => some (natBytes 64 (sha v.mapBytes).toNat)
      | _ => none

/-- ERROR, InvalidRequest. -/
def spdmInvalid : List Byte := [0x13, 0x7F, 0x01, 0x00]

/-- GET_MEASUREMENTS (R385): Param2 is the index. -/
def execGetMeasurements (mb : Nat) (msg : List Byte) (s : State) : Host.Outcome State Fault Refusal :=
  s.mail mb (fun x => x.conn == 3) fun s =>
    let i := (msg.getD 3 0).toNat
    match s.measurement mb i with
    | none => s.emit (.spdm mb spdmInvalid)
    | some c =>
      let (m, s) := s.fresh
      let block := natBytes 1 i ++ [0x01] ++ natBytes 2 (c.length + 3) ++ [0x00] ++ natBytes 2 c.length ++ c
      s.emit (.spdm mb (spdmHeader 0x60 0 0 ++ [0x01] ++ natBytes 3 block.length ++ block ++
        Config.spdmBody 0x60 (s.mbox mb).hash.done m))

/-! ## Sessions (R384) -/

/-- KEY_EXCHANGE (R384): at most two sessions. -/
def execKeyExchange (mb : Nat) (msg : List Byte) (s : State) : Host.Outcome State Fault Refusal :=
  s.mail mb (fun x => x.conn == 3 && x.sessions.length < 2) fun s =>
    let (id, s) := s.fresh
    (s.modMbox mb fun x => { x with sessions := x.sessions ++ [{ id := id, finished := false }] }).emit
      (.spdm mb (spdmHeader 0x64 0 0 ++ Config.spdmBody 0x64 ((s.mbox mb).hash.add msg).done id))

/-- The first session that FINISH has not completed, completed. -/
def finishFirst : List Session → List Session
  | [] => []
  | x :: r => if x.finished then x :: finishFirst r else { x with finished := true } :: r

/-- FINISH (R384). -/
def execFinish (mb : Nat) (msg : List Byte) (s : State) : Host.Outcome State Fault Refusal :=
  s.mail mb (fun x => x.sessions.any fun y => !y.finished) fun s =>
    let (m, s) := s.fresh
    (s.modMbox mb fun x => { x with sessions := finishFirst x.sessions }).emit
      (.spdm mb (spdmHeader 0x65 0 0 ++ Config.spdmBody 0x65 ((s.mbox mb).hash.add msg).done m))

/-- The first completed session ended. -/
def endFirst : List Session → List Session
  | [] => []
  | x :: r => if x.finished then r else x :: endFirst r

/-- END_SESSION (R384): the answer still travels in the session that it ends. -/
def execEndSession (mb : Nat) (_msg : List Byte) (s : State) : Host.Outcome State Fault Refusal :=
  s.mail mb (fun x => x.sessions.any (·.finished)) fun s =>
    (s.modMbox mb fun x => { x with sessions := endFirst x.sessions }).emit (.spdm mb (spdmHeader 0x6C 0 0))

end Sys2Proof.Machine
end

