-- ==== Sys2Proof/Machine/Ident.lean ====
section
/-! DEFINITION. Device identification, the capability list and the monitor dwords, as configuration reads see them (R436 to
R440). -/

namespace Sys2Proof.Machine

/-! ## Clock steps (R439, R440) -/

/-- A die's step as it stands: a droop lowers the die by one more. -/
def Monitors.step (m : Monitors) (die : Nat) : Nat :=
  if die == 0 then Nat.min 3 (m.stepA + if m.droopA then 1 else 0) else Nat.min 3 (m.stepB + if m.droopB then 1 else 0)

/-- The service clock's step. -/
def Monitors.sstep (m : Monitors) : Nat :=
  if m.step 0 == 3 || m.step 1 == 3 then 2 else if m.step 0 == 2 || m.step 1 == 2 then 1 else 0

/-- SSTEP, CSTEPB and CSTEPA together. -/
def Monitors.steps (m : Monitors) : Nat := 16 * m.sstep + 4 * m.step 1 + m.step 0

/-- The three monitor dwords (R439). -/
def Monitors.dword (m : Monitors) : Nat → Nat
  | 0 => 2 ^ 16 * (m.tempB % 2 ^ 16) + m.tempA % 2 ^ 16
  | 1 => 2 ^ 16 * (m.proc % 2 ^ 16) + m.shown
  | _ => m.power % 2 ^ 16

/-! ## The capability list (R437, R438) -/

/-- The features that a function lists, in ascending order. -/
def State.capIds (s : State) (fn : Nat) : List Nat :=
  (List.range 9).filter fun i => s.boot.caps.contains i && i != 0 && (i != 8 || fn == 0)

/-- An entry's PARAM. -/
def State.capParam (s : State) (id : Nat) : Nat :=
  if id == 6 then s.boot.ports % 64 else if id == 8 then s.mons.dword 0 else 0

/-- The dwords of a list from an offset on. -/
def State.capDwords (s : State) : Nat → List Nat → List Nat
  | _, [] => []
  | off, id :: r =>
    let len := if id == 8 then 16 else 8
    let next := if r.isEmpty then 0 else off + len
    [2 ^ 16 * id + 2 ^ 12 + next, s.capParam id] ++ (if id == 8 then [s.mons.dword 1, s.mons.dword 2] else []) ++
      s.capDwords (off + len) r

/-- A function's capability list, from configuration offset 0x418 on. -/
def State.capList (s : State) (fn : Nat) : List Nat := s.capDwords 0x418 (s.capIds fn)

/-- A dword of a function's configuration space (R436): what the spec does not give is free, and the DVSEC Vendor ID is the
function's own at offset 0. So are the PCI Express capability
structures: R389 says what a port supports, and gives no offset of a field that advertises it (log entry 52). -/
def State.cfgRead (s : State) (fn off : Nat) : Nat :=
  let free := (Config.cfgDword fn off).toNat
  let list := s.capList fn
  match off with
  | 0x400 => free / 2 ^ 16 * 2 ^ 16 + 0x0023
  | 0x404 => 2 ^ 20 * 0x18 + free / 2 ^ 16 % 16 * 2 ^ 16 + (Config.cfgDword fn 0).toNat % 2 ^ 16
  | 0x408 => free / 2 ^ 16 * 2 ^ 16 + 0x0001
  | 0x40C => 0x00B04100
  | 0x410 => 2 ^ 16 * 3 + s.boot.fwMinor % 2 ^ 16
  | 0x414 => 2 ^ 28 * s.boot.status + if list.isEmpty then 0 else 0x418
  | o => if 0x418 ≤ o && o < 0x418 + 4 * list.length && o % 4 == 0 then list.getD ((o - 0x418) / 4) 0 else free

end Sys2Proof.Machine
end

