-- ==== Sys2Proof/Machine/Boot.lean ====
section
/-! DEFINITION. Measured boot (R435) with the presentation table (R390). -/

namespace Sys2Proof.Machine

/-! ## Measurements -/

/-- MEASi extended by a digest. -/
def Boot.extend (b : Boot) (i : Nat) (d : BitVec 512) : Boot :=
  { b with meas := b.meas.modify i fun m => sha (natBytes 64 m.toNat ++ natBytes 64 d.toNat) }

/-! ## The presentation table (R390) -/

/-- Whether an entry's VF range is in bounds. -/
def rangeOk (e : EndpointCfg) : Bool :=
  e.vfcount % 16 == 0 && e.vfcount ≤ 512 && (e.vfcount == 0 || (1 ≤ e.vfbase && e.vfbase + e.vfcount ≤ 513)) && e.port < 4 &&
    e.ldid < 16

/-- Whether two enabled entries may stand together: on one port both are CXL, with distinct LDIDs; their VFs are disjoint. -/
def entriesAgree (a b : EndpointCfg) : Bool :=
  (a.port != b.port || (a.cxl && b.cxl && a.ldid != b.ldid)) &&
    (a.vfcount == 0 || b.vfcount == 0 || a.vfbase + a.vfcount ≤ b.vfbase || b.vfbase + b.vfcount ≤ a.vfbase)

/-- Whether every pair of a list agrees. -/
def allAgree : List EndpointCfg → Bool
  | [] => true
  | e :: r => r.all (entriesAgree e) && allAgree r

/-- Whether a table meets every condition. -/
def tableOk (l : List EndpointCfg) : Bool :=
  let on := l.filter (·.en)
  l.length ≤ 16 && on.all rangeOk && allAgree on

/-- What the package presents after a refused table: port 0's endpoint without VFs. -/
def portZero : List EndpointCfg := [{ en := true, cxl := false, port := 0, ldid := 0, vfbase := 1, vfcount := 0 }]

/-! ## The tables that boot builds -/

/-- The remap table from the fuses, which disable one quad of each die (R9), and the retirement record (R317, R319). -/
def bootRemap (da db : Nat) (retired : List Nat) : List Remap :=
  (List.range 32).map fun q =>
    { state := if q == da % 16 || q == 16 + db % 16 then 1 else if retired.contains q then 2 else 0 }

/-- The ownership table: Harbour's blocks, the pools of partitions, and free blocks. -/
def bootOwner (harbour : List Nat) (pools : List (Nat × Nat)) : List Own :=
  (List.range 256).map fun b =>
    if harbour.contains b then { kind := 1 }
    else match assocGet b pools with
      | some p => { kind := 2, part := p }
      | none => {}

/-- The partition table: nothing is active, and the pools are counted. -/
def bootParts (owner : List Own) : List Part :=
  (List.range 16).map fun p => { nblk := owner.countP fun o => o.kind == 2 && o.part == p }

/-- The host ports that endpoints use, trained. -/
def bootPorts (l : List EndpointCfg) : List Port :=
  (List.range 4).map fun p =>
    let mine := l.filter fun e => e.en && e.port == p
    { up := !mine.isEmpty, cxl := mine.any (·.cxl) }

/-! ## The steps -/

/-- The state from which boot starts: reset, with the retirement record and the HBM rows recorded in it, the inputs still to come and
what has been sent. -/
def State.restarted (s : State) : State :=
  { State.reset with
    agenda := s.agenda, seq := s.seq + 1, out := s.out, boot := { retirement := s.boot.retirement, badRows := s.boot.badRows } }

/-- Harbour's own blocks, to which VD 0 is mapped, the pools, and a full budget of the operator's ring (log entry 26). -/
def State.homeBlocks (s : State) (cfg : BootCfg) : State :=
  let owner := bootOwner cfg.harbourBlocks cfg.pools
  let hb := (List.range 256).filter cfg.harbourBlocks.contains
  ({ s with owner := owner, parts := bootParts owner } : State).modVd 0 fun v =>
    { v with s2 := (List.range hb.length).zip hb, bud := 255 * 4096 }

/-- A boot that stops: only port 0's physical function is there, with an empty list. Every call on its ring ends with BADSTATE. -/
def State.bootStop (s : State) (status : Nat) (b : Boot) : State :=
  { s with boot := { b with status := status, caps := [], endpoints := portZero }, ports := bootPorts portZero }

/-- The digest of the physical function's list, for MEAS5. -/
def State.listDigest (s : State) : BitVec 512 := sha ((s.capList 0).flatMap (natBytes 4 ·))

/-- Steps 7 and 8. -/
def State.bootEnd (s : State) : State :=
  let b := s.boot.extend 5 s.listDigest
  let b := (List.range 10).foldl (fun (b : Boot) k => b.extend (6 + k) 0) b
  { s with boot := { b with locked := true, booted := true } }

/-- Steps 3 to 8, after the loader and the firmware have been verified. -/
def State.bootTables (s : State) (cfg : BootCfg) (b : Boot) : State :=
  let b := b.extend 2 cfg.fuses
  let retired := (b.retirement ++ cfg.retired).eraseDups
  let b := { (b.extend 3 cfg.record) with retirement := retired, badRows := [] }
  let good := cfg.cfgOk && tableOk cfg.endpoints
  let b := if good then b.extend 4 cfg.config else { b with status := 3 }
  let eps := if good then cfg.endpoints else portZero
  let s : State := { s with
    remap := bootRemap cfg.disabledA cfg.disabledB retired
    mons := { s.mons with proc := cfg.proc } }
  if !cfg.scrubOk then s.bootStop 4 b
  else
    let s : State := { s with
      touched := List.replicate 256 0, ports := bootPorts eps
      boot := { b with caps := cfg.caps, ports := cfg.ports, endpoints := eps } }
    s.bootEnd

/-- COLD_RESET (R435): every table and register at its reset value, then measured boot in order. A step that fails extends no
measurement. -/
def execColdReset (cfg : BootCfg) (s : State) : Host.Outcome State Fault Refusal :=
  let s := s.restarted.homeBlocks cfg
  .next (if !cfg.romOk then s.bootStop 1 s.boot
    else
      let b := s.boot.extend 0 cfg.loader
      if !cfg.fwOk then s.bootStop 2 b else s.bootTables cfg { (b.extend 1 cfg.image) with fwMinor := cfg.fwMinor })

end Sys2Proof.Machine
end

