-- ==== Sys2Proof/Machine/Branch.lean ====
section
/-! DEFINITION. Branches, calls, jumps and returns (R59, R284 to R288). -/

namespace Sys2Proof.Machine

/-- The target of BR and CALL (R59). -/
def branchTarget (pc : DWord) (o : Nat) : DWord := (pc &&& ~~~ 63) + dwordOfInt (signExt 23 o * 64)

/-- The condition that k2 selects, from the top predicate entry (R284). -/
def condHolds (k : Nat) (x : Thread) : Bool :=
  match k with
  | 0 => true
  | 1 => x.stack.headD false
  | _ => !x.stack.headD false

/-- BR and CALL pop the top entry when p1 is 1. -/
def Thread.popIf (p : Nat) (x : Thread) : Thread := if p == 1 then { x with stack := x.stack.drop 1 } else x

/-- The issue form of a branch: inactive threads perform it too. One that may push a return address (`call`) is a store, which leaves
only after its shadow has compared equal (R218, R426). -/
def branchForm (k p : Nat) (regs : List (Nat × Nat)) (call : Bool) : Form :=
  { regs := regs, held := call, needsTop := k != 0 || p == 1, all := true }

/-- BR (R284): taken by active and inactive threads alike. -/
def execBr (k p o : Nat) (s : State) : Host.Outcome State Fault Refusal :=
  s.issue (branchForm k p [] false) fun s t =>
    let x := s.th t
    let s' := s.modTh t (·.popIf p)
    if condHolds k x then .jump s' (branchTarget x.pc o) else .next s'

/-- A taken call (R286): the return address is the next fetch block, pushed by a default-policy store; `p` pops. -/
def State.callTo (s : State) (t : TRef) (target : DWord) (p : Nat) : Act :=
  let x := s.th t
  let ret := (x.pc &&& ~~~ 63) + 64
  if x.sp.toNat < 8 + x.slo.toNat || x.sp.toNat > x.shi.toNat then .trap s causeCallstack x.sp
  else
    match s.reach t (x.sp - 8) 8 8 .write with
    | .act a => a
    | .at_ s loc =>
      match s.bufferStore t loc (x.sp - 8) 8 ret.toNat 0 with
      | .next s => .jump (s.modTh t fun x => { x.popIf p with sp := x.sp - 8 }) target
      | a => a

/-- CALL (R284, R286): only active threads transfer; every thread pops. -/
def execCall (k p o : Nat) (s : State) : Host.Outcome State Fault Refusal :=
  s.issue (branchForm k p [] true) fun s t =>
    let x := s.th t
    if condHolds k x && x.active then s.callTo t (branchTarget x.pc o) p else .next (s.modTh t (·.popIf p))

/-- JR (R59, R284, R286): `c` 1 for a call. -/
def execJr (k c a : Nat) (s : State) : Host.Outcome State Fault Refusal :=
  s.issue (branchForm k 0 [(a, 2)] (c == 1)) fun s t =>
    let x := s.th t
    let target := s.pair t a
    if !(condHolds k x && x.active) then .next s
    else if (s.buOf t).badRegs t.lane [(a, 2)] then .poison s 0
    else if target.toNat % 64 != 0 then .trap s causeAlignFetch target
    else if c == 1 then s.callTo t target 0
    else .jump s target

/-- The jump of a RET to the address that it has loaded (R287). -/
def State.retTo (s : State) (t : TRef) (v : Nat) : Act :=
  if v % 64 != 0 then .trap s causeAlignFetch (dw v)
  else .jump (s.modTh t fun x => { x with sp := x.sp + 8 }) (dw v)

/-- RET (R287): a default-policy load at SP, which returns the thread's own buffered store; from host memory the thread
waits for the line and presents the RET again. -/
def execRet (s : State) : Host.Outcome State Fault Refusal :=
  s.issue {} fun s t =>
    let x := s.th t
    if x.sp.toNat < x.slo.toNat || x.sp.toNat + 8 > x.shi.toNat then .trap s causeCallstack x.sp
    else
      match s.reach t x.sp 8 8 .read with
      | .act a => a
      | .at_ s loc =>
        let (mask, own) := bufView (s.th t).stores loc 8
        if mask == 255 then s.retTo t own
        else
          match loc with
          | .host vd ap gpa =>
            match s.l1Line (s.coreOf t) vd (gpa / 128) with
            | some l =>
              if l.has (gpa % 128) 8 then s.retTo t (mergeBytes 8 mask own (lineGet l.data (gpa % 128) 8))
              else s.askLine t vd ap gpa 8 x.sp
            | none => s.askLine t vd ap gpa 8 x.sp
          | l =>
            match s.locRead (s.coreOf t) l 8 .l1 with
            | (s', _, true) => .poison s' (s'.poisonVal l x.sp.toNat)
            | (s', v, false) => s'.retTo t (mergeBytes 8 mask own v)

end Sys2Proof.Machine
end

