-- ==== Sys2Proof/Machine/Clocks.lean ====
section
/-! DEFINITION. The monitors, the clock steps and the thermal shutdown (R23, R439, R440). -/

namespace Sys2Proof.Machine

/-- The step that a temperature in 1/8 °C asks for. -/
def tempStep (t : Nat) : Nat :=
  let x := signExt 16 t
  if x ≥ 840 then 3 else if x ≥ 800 then 2 else if x ≥ 760 then 1 else 0

/-- A die's target step. -/
def Monitors.target (m : Monitors) (die : Nat) : Nat :=
  Nat.max (tempStep (if die == 0 then m.tempA else m.tempB)) m.powerStep

/-- A die's own step, a droop apart, and when its target fell below it. -/
def Monitors.base (m : Monitors) (die : Nat) : Nat := if die == 0 then m.stepA else m.stepB
def Monitors.low (m : Monitors) (die : Nat) : Nat := if die == 0 then m.lowA else m.lowB

def Monitors.setBase (m : Monitors) (die step low : Nat) : Monitors :=
  if die == 0 then { m with stepA := step, lowA := low } else { m with stepB := step, lowB := low }

/-- The moment from which a die's target has been lower than its step, kept up. -/
def Monitors.noteLow (m : Monitors) (die svc : Nat) : Monitors :=
  if m.target die < m.base die then (if m.low die == 0 then m.setBase die (m.base die) (svc + 1) else m)
  else m.setBase die (m.base die) 0

/-- The power step after an averaging interval (R440); the spec states only when it rises. -/
def Monitors.powerNext (m : Monitors) (power moment : Nat) : Nat :=
  if power > 3200 then Nat.min 3 (m.powerStep + 1)
  else if Config.powerFalls moment then m.powerStep - 1
  else m.powerStep

/-- Service cycles of a monitor update and before a step up. -/
def monitorPeriod : Nat := 65536
def stepUpDelay : Nat := 2 ^ 24

/-- The monitor updates of an averaging interval of 2^20 service cycles (R439). -/
def averagedUpdates : Nat := 16

/-- The number of the update that a service cycle stands in. -/
def State.monitorIndex (s : State) : Nat := s.clk.svc / monitorPeriod

/-- MONITOR_UPDATE (R439, R440): the published values, once in each 65,536 service cycles; the power step follows where the update
ends an averaging interval. What they ask of the clocks comes next. -/
def execMonitorUpdate (tempA tempB power : Nat) (s : State) : Host.Outcome State Fault Refusal :=
  let m := s.mons
  let n := s.monitorIndex
  .next (if n ≤ m.seen then s
    else
      let ps := if m.seen / averagedUpdates < n / averagedUpdates then m.powerNext power s.seq else m.powerStep
      let m := { m with tempA := tempA % 2 ^ 16, tempB := tempB % 2 ^ 16, power := power % 2 ^ 16, shown := m.steps, powerStep := ps, seen := n }
      let m := (m.noteLow 0 s.clk.svc).noteLow 1 s.clk.svc
      let s : State := { s with mons := m, seq := s.seq + 1 }
      let s := [0, 1].foldl (fun (s : State) d => if m.target d > m.base d then s.push (.clockStepDown d) else s) s
      if signExt 16 tempA ≥ 920 || signExt 16 tempB ≥ 920 then s.push .thermalShutdown else s)

/-- CLOCK_STEP_DOWN (R440): at once, to the target. -/
def execClockStepDown (die : Nat) (s : State) : Host.Outcome State Fault Refusal :=
  let m := s.mons
  .next (if m.target die > m.base die then { s with mons := m.setBase die (m.target die) 0 } else s)

/-- CLOCK_STEP_UP (R440): one step, when the target has stayed lower long enough. -/
def execClockStepUp (die : Nat) (s : State) : Host.Outcome State Fault Refusal :=
  let m := s.mons
  .next (if m.low die == 0 || m.target die ≥ m.base die || s.clk.svc < m.low die - 1 + stepUpDelay then s
    else { s with mons := (m.setBase die (m.base die - 1) 0).noteLow die s.clk.svc })

/-- VOLTAGE_DROOP (R440). -/
def execVoltageDroop (die : Nat) (s : State) : Host.Outcome State Fault Refusal :=
  .next { s with mons := if die == 0 then { s.mons with droopA := true } else { s.mons with droopB := true } }

/-- VOLTAGE_DROOP_CLEARS (R440). -/
def execVoltageDroopClears (die : Nat) (s : State) : Host.Outcome State Fault Refusal :=
  .next { s with mons := if die == 0 then { s.mons with droopA := false } else { s.mons with droopB := false } }

/-- THERMAL_SHUTDOWN (R440): every clock stops, every VD's state is lost, the links are down. The records that outlive a reset
stay. -/
def execThermalShutdown (s : State) : Host.Outcome State Fault Refusal :=
  .next { State.reset with
    agenda := s.agenda, seq := s.seq, out := s.out, clk := s.clk
    boot := { s.boot with booted := false, endpoints := [] }
    mons := { s.mons with stopped := true } }

end Sys2Proof.Machine
end

