-- ==== Sys2Proof/Machine/Fabric.lean ====
section
/-! DEFINITION. Longshore flits as they arrive (R395, R398, R399), and the time limit of a fabric command. -/

namespace Sys2Proof.Machine

/-! ## Acceptance (R398) -/

/-- Whether a partition has its link key (R396). -/
def State.keyed (s : State) (part : Nat) : Bool := (s.parts.getD part {}).linkKey.isSome && (s.parts.getD part {}).linkUsable

/-- A flit that answers another, when its sender's rank in the partition of its KEY can be reached. -/
def State.flitReply (s : State) (f : Flit) (typ : Nat) (data : BitVec 1024) : State :=
  match s.partOfKey f.key with
  | none => s
  | some p =>
    if (s.rankIn p f.srank).isSome && s.keyed p then
      s.flitOut p typ f.srank f.drank f.addr f.tag data (if typ == 3 then BitVec.allOnes 128 else 0) 0 0
    else s

/-- A flit that fails a check: it is dropped, counted where it names a VD, and an error flit returns (R398). -/
def State.flitDrop (s : State) (f : Flit) : State :=
  let s := match s.flitVd f with
    | some vd => s.countError vd 7
    | none => s
  s.flitReply f 6 (errorData 0)

/-- Whether the MAC of a flit verifies: its partition's key is loaded, and the input says that the bytes are right. -/
def State.macVerifies (s : State) (f : Flit) : Bool :=
  f.macOk && (match s.partOfKey f.key with
    | some p => s.keyed p
    | none => false)

/-- A received flit: accepted for its VD, or dropped; a part without Longshore has no port (R437). -/
def State.flitIn (s : State) (f : Flit) (body : State → Nat → State) : Host.Outcome State Fault Refusal :=
  .next (if !s.feature 6 then s
    else match s.flitVd f with
    | some vd => if s.macVerifies f && f.typeOk then body s vd else s.flitDrop f
    | none => s.flitDrop f)

/-! ## The target's side (R212, R249, R371) -/

/-- Where a line of the target VD leads. -/
inductive FlitPlace where
  | at_ (s : State) (l : Loc)
  | error (s : State) (cause : Nat)
  | later (s : State) (tag : Option Nat)

/-- Whether stage 1 permits an access, so that what refused it is the Breakwater (R371). -/
def State.stage1Grants (s : State) (vd va : Nat) (need : Need) : Bool :=
  match s.walk vd va fun _ => none with
  | .leaf _ _ _ e _ _ => match need with
    | .fetch => pteEx e
    | .read => pteRd e
    | .write => pteRd e && pteWr e
  | _ => false

/-- The place of a line that a flit reads or writes: the VD's own translation; a host page may have to wait. A refusal by the
Breakwater is answered as LINK (R371). -/
def State.flitPlace (s : State) (vd va : Nat) (need : Need) : FlitPlace :=
  if va ≥ scratchBase then .error s causeProt
  else match s.translate (.quay 0) vd va need with
    | (s, .absent _) => .error s causePage
    | (s, .denied _) => .error s (if s.stage1Grants vd va need then 0 else causeProt)
    | (s, .ok (.host v ap gpa)) =>
      if s.atsMiss v ap gpa then
        if s.atsPending v ap (s.busAddr v ap gpa).2.1 || !s.atsFree v ap gpa then .later s none
        else
          let (tag, s) := s.sendAts v ap gpa (dw va) (needKind need) fun h => .ats v ap h none
          .later s (some tag)
      else if (s.ports.getD (s.busAddr v ap gpa).1 {}).up then .at_ s (.host v ap gpa)
      else .later s none
    | (s, .ok l) => .at_ s l

/-- Whether a write of the enabled bytes meets poison in a unit that it does not cover whole. -/
def State.flitPartly (s : State) (ma : Nat) (be : BitVec 128) : Bool :=
  (dirtyRuns be).any fun r => s.devPartly (ma + r.1) r.2

/-- The full/empty bits that a PUT writes (R249); each word's queues are served if its bit differs from `was`, what it was before. -/
def State.flitBits (s : State) (l : Loc) (was : List Bool) (fev few : BitVec 16) : State :=
  (List.range 16).foldl (fun (s : State) k =>
    if !few.getLsbD k then s
    else
      let w := l.plus (8 * k)
      let s := s.setFe w (fev.getLsbD k)
      if was.getD k true == fev.getLsbD k then s else s.feServe w) s

/-- A PUT's line performed whole; an answer for the issuer. -/
def State.putLine (s : State) (f : Flit) (l : Loc) : State × Option Nat :=
  match l with
  | .dev vd gpa ma =>
    let s := s.charge vd ma
    if s.flitPartly ma f.be then (s, some 0)
    else
      let was := (List.range 16).map fun k => s.feDev (ma + 8 * k)
      let cleared := s.devPoisoned ma 128
      let s := (dirtyRuns f.be).foldl (fun (s : State) r =>
        (s.clearWhole (ma + r.1) r.2).homeWrite vd (gpa + r.1) (ma + r.1) r.2 (lineGet f.data r.1 r.2)) s
      ((s.flitBits l was f.fev f.few).serveIf cleared, none)
  | .host vd ap gpa =>
    if f.few != 0 then (s, some causeFeUnsupported)
    else ((dirtyRuns f.be).foldl (fun (s : State) r =>
      s.sendPosted vd ap (gpa + r.1) r.2 (lineGet f.data r.1 r.2) { src := 2, va := f.addr % 2 ^ 52 / 128 * 128 + r.1 }) s, none)
  | .scr _ _ _ => (s, some causeProt)

/-- A PUT's line at the target (R212): written and acknowledged, or answered with an error. -/
def State.flitPut (s : State) (vd : Nat) (f : Flit) : State :=
  match s.flitPlace vd (f.addr / 128 * 128) .write with
  | .later s tag => { s with held := s.held ++ [{ flit := f, put := true, tag := tag }] }
  | .error s cause => s.flitReply f 6 (errorData cause)
  | .at_ s l =>
    match s.putLine f l with
    | (s, none) => s.flitReply f 1 0
    | (s, some cause) => s.flitReply f 6 (errorData cause)

/-- The reader of a flit's line among a VD's host reads. -/
def flitReader (line : Nat) : Nat := 2048 + line / 128

/-- A GET's line at the target (R212): read and returned, or answered with an error. -/
def State.flitGet (s : State) (vd : Nat) (f : Flit) : State :=
  match s.flitPlace vd (f.addr / 128 * 128) .read with
  | .later s tag => { s with held := s.held ++ [{ flit := f, put := false, tag := tag }] }
  | .error s cause => s.flitReply f 6 (errorData cause)
  | .at_ s l =>
    let line := f.addr / 128 * 128
    match s.quayAt (flitReader line) line l 128 with
    | .ok s bs => (s.forgetGot vd (flitReader line)).flitReply f 3 (BitVec.ofNat 1024 (bytesNat bs))
    | .poison s => s.flitReply f 6 (errorData 0)
    | .xlate s => (s.forgetGot vd (flitReader line)).flitReply f 6 (errorData causeProt)
    | .wait s => { s with held := s.held ++ [{ flit := f, put := false, tag := none }] }

/-- FLIT_PUT_DATA (R212, R398). -/
def execFlitPutData (f : Flit) (s : State) : Host.Outcome State Fault Refusal := s.flitIn f fun s vd => s.flitPut vd f

/-- FLIT_GET_REQUEST (R212, R398). -/
def execFlitGetRequest (f : Flit) (s : State) : Host.Outcome State Fault Refusal := s.flitIn f fun s vd => s.flitGet vd f

/-- Whether a held flit's translation is still on its way. -/
def State.heldWaits (s : State) (x : HeldFlit) : Bool :=
  match x.tag with
  | some t => s.reqs.any fun r => r.tag == t
  | none => false

/-- A held flit tried again; a denied translation is a permission fault at the target. -/
def State.retryFlit (s : State) (x : HeldFlit) : State :=
  match s.flitVd x.flit with
  | none => s
  | some vd =>
    if x.denied then s.flitReply x.flit 6 (errorData causeProt)
    else if x.put then s.flitPut vd x.flit
    else s.flitGet vd x.flit

/-- The held flits that need wait no longer, tried again. -/
def State.retryFlits (s : State) : State :=
  (s.held.filter fun x => !s.heldWaits x).foldl State.retryFlit { s with held := s.held.filter s.heldWaits }

/-! ## The issuer's side -/

/-- The command that a flit answers. -/
def State.flitCmd (s : State) (vd : Nat) (f : Flit) (fn : Option Nat) : Option Cmd :=
  s.cmds.find? fun c => c.vd == vd && c.cls == 2 && c.st == .waitFlit && c.tag == f.tag && c.desc.rank == f.srank &&
    (match fn with | some n => c.fn == n | none => true)

/-- FLIT_PUT_ACK (R398): the flit of the unit is acknowledged. -/
def execFlitPutAck (f : Flit) (s : State) : Host.Outcome State Fault Refusal :=
  s.flitIn f fun s vd =>
    match s.flitCmd vd f (some fnPut) with
    | some c => s.cmdBack c.id fun x => { x with ncheck := x.ncheck + 1 }
    | none => s

/-- FLIT_GET_DATA (R398): a line for the command's unit. -/
def execFlitGetData (f : Flit) (s : State) : Host.Outcome State Fault Refusal :=
  s.flitIn f fun s vd =>
    match s.flitCmd vd f (some fnGet) with
    | some c => s.cmdBack c.id fun x => { x with host := x.host ++ [(f.addr / 128 * 128, natBytes 128 f.data.toNat)] }
    | none => s

/-- The fault that an error flit brings: a translation fault of the target at the flit's address, FE_UNSUPPORTED, or LINK
(R166, R249, R398; log entry 21). -/
def flitFault (f : Flit) (c : Cmd) : CmdFault :=
  let cause := f.data.toNat % 256
  if cause == causePage || cause == causeProt || cause == causeFeUnsupported then c.addrFault cause f.addr 0 0 else c.errFault subLink

/-- FLIT_ERROR (R398): the issuer's command ends. The report of a poisoned source (R423) answers no command. -/
def execFlitError (f : Flit) (s : State) : Host.Outcome State Fault Refusal :=
  s.flitIn f fun s vd =>
    if f.data.toNat % 256 == causeUe then s
    else match s.flitCmd vd f none with
      | some c => s.cmdFail c.id (flitFault f)
      | none => s

/-- The time limit of a fabric command without a response (R398), in cycles of the issuing core. -/
def fabricLimit : Nat := 16777216

/-- FABRIC_RESPONSE_TIMEOUT (R398). -/
def execFabricResponseTimeout (cmd : Nat) (s : State) : Host.Outcome State Fault Refusal :=
  let c := s.cmd cmd
  .next (if !s.hasCmd cmd || c.st != .waitFlit || s.cycles (dieOfCore (s.cmdCore c)) < c.since + fabricLimit then s
    else s.cmdFail cmd fun c => c.errFault subLink)

/-- FLIT_REPLAY (R395): the port sends the flit again; no program sees it. -/
def execFlitReplay (port : Nat) (s : State) : Host.Outcome State Fault Refusal := .next (s.emit (.replayFlit port))

/-! ## Pod barriers (R399) -/

/-- The id and the generation that a barrier flit carries (log entry 12). -/
def flitBar (f : Flit) : Nat × Nat := (f.data.toNat % 2 ^ 32, f.data.toNat / 2 ^ 32 % 2 ^ 32)

/-- FLIT_BARRIER_ARRIVAL (R399). -/
def execFlitBarrierArrival (f : Flit) (s : State) : Host.Outcome State Fault Refusal :=
  s.flitIn f fun s vd =>
    let (id, gen) := flitBar f
    let b := s.bar (.pod vd id)
    if gen < b.gen then s
    else (s.setBar { b with ranks := setIns (1024 * gen + f.srank) b.ranks }).checkBar (.pod vd id)

/-- FLIT_BARRIER_OPEN (R399): the generation that it names opens. -/
def execFlitBarrierOpen (f : Flit) (s : State) : Host.Outcome State Fault Refusal :=
  s.flitIn f fun s vd =>
    let (id, gen) := flitBar f
    let b := s.bar (.pod vd id)
    if gen == b.gen && b.sent then s.openBar b else s

end Sys2Proof.Machine
end

