-- ==== Sys2Proof/Machine/Func.lean ====
section
/-! DEFINITION. The FLL functions that round RNE and are not roots (R142): 2^x, log2 x, sin 2πx, cos 2πx and tanh x,
computed in fixed point with `fpBits` fraction bits and rounded once. -/

namespace Sys2Proof.Machine

/-- Fraction bits of the fixed-point values (log entry 10: far beyond what a correctly rounded f32 result needs). -/
def fpBits : Nat := 700

/-- The fixed-point 1. -/
def fpOne : Nat := 2 ^ fpBits

/-- `Σ ± t / (2k + 1)`, each term the last divided by `n * n`: the series of atan(1/n) and atanh(1/n). -/
def inverseSeries (alternate : Bool) (n : Nat) : Nat → Nat → Nat → Int → Int
  | 0, _, _, acc => acc
  | fuel + 1, k, t, acc =>
    inverseSeries alternate n fuel (k + 1) (t / (n * n))
      (if alternate && k % 2 == 1 then acc - (t / (2 * k + 1) : Nat) else acc + (t / (2 * k + 1) : Nat))

/-- π in fixed point, by Machin's formula. -/
def fpPi : Nat :=
  (16 * inverseSeries true 5 320 0 (fpOne / 5) 0 - 4 * inverseSeries true 239 100 0 (fpOne / 239) 0).toNat

/-- ln 2 in fixed point, as 2 atanh(1/3). -/
def fpLn2 : Nat := (2 * inverseSeries false 3 240 0 (fpOne / 3) 0).toNat

/-- `Σ x^k / k!` from the term `t` of index `k` on. -/
def expSeries (x : Nat) : Nat → Nat → Nat → Nat → Nat
  | 0, _, _, acc => acc
  | fuel + 1, k, t, acc => expSeries x fuel (k + 1) (t * x / fpOne / (k + 1)) (acc + t)

/-- e^x for a fixed-point x below 1. -/
def fpExp (x : Nat) : Nat := expSeries x 180 0 fpOne 0

/-- The alternating series of sine and cosine: terms `t`, each the last times `x²` over `(k + 1)(k + 2)`. -/
def trigSeries (x2 : Nat) : Nat → Nat → Nat → Bool → Int → Int
  | 0, _, _, _, acc => acc
  | fuel + 1, k, t, neg, acc =>
    trigSeries x2 fuel (k + 2) (t * x2 / fpOne / ((k + 1) * (k + 2))) (!neg)
      (if neg then acc - (t : Nat) else acc + (t : Nat))

/-- sin and cos of a fixed-point angle in [0, 2). -/
def fpSin (x : Nat) : Nat := (trigSeries (x * x / fpOne) 100 1 x false 0).toNat
def fpCos (x : Nat) : Nat := (trigSeries (x * x / fpOne) 100 0 fpOne false 0).toNat

/-- `Σ z^(2k+1) / (2k+1)`: atanh z. -/
def atanhSeries (z2 : Nat) : Nat → Nat → Nat → Nat → Nat
  | 0, _, _, acc => acc
  | fuel + 1, k, t, acc => atanhSeries z2 fuel (k + 1) (t * z2 / fpOne) (acc + t / (2 * k + 1))

/-- 2^x (R142, FEXP2). -/
def exp2V (ftz : Bool) (a : FVal) : FRes :=
  match a with
  | .nan s fr w q => (nanPattern .f32 (.nan s fr w q), if q then flagNV else noFlag)
  | .inf s => (if s then 0 else infPattern .f32, noFlag)
  | .fin s m e =>
    if m == 0 then (0x3F800000, noFlag)
    else if e + Nat.log2 m ≥ 8 then
      roundFin .f32 modeRne false ftz false 1 (if s then -400 else 400) true
    else
      -- |x| < 256 in units of 2^-160
      let u := m * 2 ^ (e + 160).toNat
      let v := sgnInt s u
      let n := v / (2 ^ 160 : Int)
      let f := (v % (2 ^ 160 : Int)).toNat
      if f == 0 then roundFin .f32 modeRne false ftz false 1 n
      else
        let r := f * 2 ^ (fpBits - 160) * fpLn2 / fpOne
        roundFin .f32 modeRne false ftz false (fpExp r) (n - fpBits) true

/-- log2 x (R142, FLOG2). -/
def log2V (ftz : Bool) (a : FVal) : FRes :=
  match a with
  | .nan s fr w q => (nanPattern .f32 (.nan s fr w q), if q then flagNV else noFlag)
  | .inf s => if s then (canonicalNan .f32, flagNV) else (infPattern .f32, noFlag)
  | .fin s m e =>
    if m == 0 then (signBit .f32 + infPattern .f32, flagDZ)
    else if s then (canonicalNan .f32, flagNV)
    else
      let k := Nat.log2 m
      let p := 2 ^ k
      let n : Int := e + k
      if m == p then roundFin .f32 modeRne false ftz (n < 0) n.natAbs 0
      else
        let z := (m - p) * fpOne / (m + p)
        let l := 2 * atanhSeries (z * z / fpOne) 240 0 z 0 * fpOne / fpLn2
        let v : Int := n * (fpOne : Int) + l
        roundFin .f32 modeRne false ftz (v < 0) v.natAbs (-(fpBits : Int)) true

/-- sin(2πx), or cos(2πx) when `cosine` (R142, FSINT, FCOST). -/
def turnV (ftz cosine : Bool) (a : FVal) : FRes :=
  match a with
  | .nan s fr w q => (nanPattern .f32 (.nan s fr w q), if q then flagNV else noFlag)
  | .inf _ => (canonicalNan .f32, flagNV)
  | .fin s m e =>
    -- the fraction of a turn, in units of 2^-160; an integral x is a whole number of turns
    let t := if e ≥ 0 then 0 else m * 2 ^ (e + 160).toNat % 2 ^ 160
    let quad := t / 2 ^ 158
    let r := t % 2 ^ 158
    let k := if cosine then quad + 1 else quad          -- cos t = sin (t + 1/4)
    let neg := k % 4 ≥ 2
    let sgn := if cosine then neg else neg != s
    if r == 0 then
      if k % 2 == 0 then ((if cosine then 0 else if s then signBit .f32 else 0), noFlag)
      else roundFin .f32 modeRne false ftz sgn 1 0
    else
      let x := r * 2 ^ (fpBits - 160) * (2 * fpPi) / fpOne
      let v := if k % 2 == 0 then fpSin x else fpCos x
      roundFin .f32 modeRne false ftz sgn v (-(fpBits : Int)) true

/-- tanh x (R142, FTANH). -/
def tanhV (ftz : Bool) (a : FVal) : FRes :=
  match a with
  | .nan s fr w q => (nanPattern .f32 (.nan s fr w q), if q then flagNV else noFlag)
  | .inf s => ((if s then signBit .f32 else 0) + 0x3F800000, noFlag)
  | .fin s m e =>
    if m == 0 then ((if s then signBit .f32 else 0), noFlag)
    else if e + Nat.log2 m ≥ 5 then roundFin .f32 modeRne false ftz s (2 ^ 200 - 1) (-200) true
    else
      let x2 := 2 * (m * 2 ^ (e + fpBits).toNat)
      let n := x2 / fpLn2
      let y := fpExp (x2 % fpLn2) * 2 ^ n
      let v := (y - fpOne) * fpOne / (y + fpOne)
      roundFin .f32 modeRne false ftz s v (-(fpBits : Int)) true

end Sys2Proof.Machine
end

