-- ==== Sys2Proof/Machine/Float.lean ====
section
/-! DEFINITION. Floating-point arithmetic, conversions and long-latency arithmetic (R132 to R144). -/

namespace Sys2Proof.Machine

/-! ## Rounding mode and draw -/

/-- The rounding mode of one result, with SR's draw made from the thread's generator before the operands are examined
(R100, R101). -/
def State.draw (s : State) (t : TRef) (rm : Nat) : Mode × State :=
  if rm == 5 then
    let r := xorshift (s.th t).rngs
    ({ rm := 5, rbits := srBits r }, s.modTh t fun x => { x with rngs := r })
  else ({ rm := rm }, s)

/-- A CVT modifier resolved: DYN reads FPCSR.RM at issue (R99, R132). -/
def Thread.rmOf (x : Thread) (r : Nat) : Nat := if r == 6 then x.rm else r

/-- The operand `vn` of a format: a pair for f64, otherwise a register. -/
def State.operand (s : State) (t : TRef) (f : Fmt) (n : Nat) : Nat :=
  if f == .f64 then (s.pair t n).toNat else (s.reg t n).toNat

/-- The value of an operand, flushed where FTZ applies: F32 and f16 only (R106). -/
def State.fval (s : State) (t : TRef) (f : Fmt) (n : Nat) : FVal :=
  unpack f (flushIn f (f == .f32 && (s.th t).ftz) (s.operand t f n))

/-- Registers of a format's operand. -/
def fmtRegs (f : Fmt) : Nat := if f == .f64 then 2 else 1

/-- A floating-point instruction: one draw in the mode that `rm` gives, none when it never rounds; the result to `w`
registers from `d` on, and the flags into FPCSR (R107, R132). -/
def State.float (d w : Nat) (reads : List (Nat × Nat)) (rm : Thread → Option Nat)
    (r : State → TRef → Mode → FRes) (s : State) : Host.Outcome State Fault Refusal :=
  s.issue { regs := (d, w) :: reads, reads := reads } fun s t =>
    let (md, s') := match rm (s.th t) with
      | none => (modeRne, s)
      | some m => s.draw t m
    let (v, fl) := r s t md
    .next ((s'.modTh t (·.raise fl)).setWords t d (natWords w v))

/-! ## Conversions (R133 to R136) -/

/-- A narrow result placed in the old vd (R133). -/
def packed (k w : Nat) (old : Word) (n : Nat) : Nat := if k == 0 then n else ((old >>> w).toNat ||| (n * 2 ^ (32 - w)))

/-- A narrow source taken from va (R133). -/
def taken (k w : Nat) (x : Word) : Nat := if k == 0 then x.toNat % 2 ^ w else x.toNat / 2 ^ (32 - w)

/-- An integer as an exact value. -/
def intVal (x : Int) : FVal := .fin (x < 0) x.natAbs 0

/-- A conversion of an integer to a float format (R134). -/
def State.cvtFromInt (d a ra w r : Nat) (f : Fmt) (v : State → TRef → Int) (s : State) :
    Host.Outcome State Fault Refusal :=
  s.float d w [(a, ra)] (fun x => some (x.rmOf r)) fun s t md => roundTo f md false (intVal (v s t))

/-- A conversion of a float to an integer of `w` bits (R104, R134). -/
def State.cvtToInt (d a r sat w : Nat) (signed : Bool) (f : Fmt) (s : State) : Host.Outcome State Fault Refusal :=
  s.float d (w / 32) [(a, fmtRegs f)] (fun x => some (x.rmOf r)) fun s t md =>
    toInteger w signed md (sat == 1) (unpack f (s.operand t f a))

/-- A narrowing of an f32 to a format of `w` bits, placed under R133. -/
def State.cvtNarrow (d a r sat k w : Nat) (f : Fmt) (s : State) : Host.Outcome State Fault Refusal :=
  s.float d 1 (if k == 0 then [(a, 1)] else [(a, 1), (d, 1)]) (fun x => some (x.rmOf r)) fun s t md =>
    let (v, fl) := roundTo f md (sat == 1) (unpack .f32 (s.reg t a).toNat)
    (packed k w (s.reg t d) v, fl)

/-- A widening to f32, exact (R134); with pk = 1 vd is read too, since it is S+ (R67, R133). -/
def State.cvtWiden (d a k w : Nat) (f : Fmt) (s : State) : Host.Outcome State Fault Refusal :=
  s.float d 1 (if k == 0 then [(a, 1)] else [(a, 1), (d, 1)]) (fun _ => none) fun s t md =>
    roundTo .f32 md false (unpack f (taken k w (s.reg t a)))

/-- An integer narrowed to 8 bits within `[lo, hi]`: its low bits, or clamped (R104, R134). -/
def State.cvtByte (d a sat k : Nat) (lo hi : Int) (s : State) : Host.Outcome State Fault Refusal :=
  s.float d 1 (if k == 0 then [(a, 1)] else [(a, 1), (d, 1)]) (fun _ => none) fun s t _ =>
    let x := (s.reg t a).toInt
    let y := if sat == 1 then (if x < lo then lo else if x > hi then hi else x) else x
    (packed k 8 (s.reg t d) (y % 256).toNat, noFlag)

/-- CVT.f32.s32 (R134). -/
def execCvtF32S32 (d a r : Nat) (s : State) : Host.Outcome State Fault Refusal :=
  s.cvtFromInt d a 1 1 r .f32 fun s t => (s.reg t a).toInt

/-- CVT.f32.n32 (R134). -/
def execCvtF32N32 (d a r : Nat) (s : State) : Host.Outcome State Fault Refusal :=
  s.cvtFromInt d a 1 1 r .f32 fun s t => (s.reg t a).toNat

/-- CVT.f64.s64 (R134). -/
def execCvtF64S64 (d a r : Nat) (s : State) : Host.Outcome State Fault Refusal :=
  s.cvtFromInt d a 2 2 r .f64 fun s t => (s.pair t a).toInt

/-- CVT.f64.n64 (R134). -/
def execCvtF64N64 (d a r : Nat) (s : State) : Host.Outcome State Fault Refusal :=
  s.cvtFromInt d a 2 2 r .f64 fun s t => (s.pair t a).toNat

/-- CVT.s32.f32 (R134). -/
def execCvtS32F32 (d a r sat : Nat) (s : State) : Host.Outcome State Fault Refusal :=
  s.cvtToInt d a r sat 32 true .f32

/-- CVT.n32.f32 (R134). -/
def execCvtN32F32 (d a r sat : Nat) (s : State) : Host.Outcome State Fault Refusal :=
  s.cvtToInt d a r sat 32 false .f32

/-- CVT.s64.f64 (R134). -/
def execCvtS64F64 (d a r sat : Nat) (s : State) : Host.Outcome State Fault Refusal :=
  s.cvtToInt d a r sat 64 true .f64

/-- CVT.n64.f64 (R134). -/
def execCvtN64F64 (d a r sat : Nat) (s : State) : Host.Outcome State Fault Refusal :=
  s.cvtToInt d a r sat 64 false .f64

/-- CVT.f64.f32 (R134). -/
def execCvtF64F32 (d a : Nat) (s : State) : Host.Outcome State Fault Refusal :=
  s.float d 2 [(a, 1)] (fun _ => none) fun s t md => roundTo .f64 md false (unpack .f32 (s.reg t a).toNat)

/-- CVT.f32.f64 (R134). -/
def execCvtF32F64 (d a r sat : Nat) (s : State) : Host.Outcome State Fault Refusal :=
  s.float d 1 [(a, 2)] (fun x => some (x.rmOf r)) fun s t md =>
    roundTo .f32 md (sat == 1) (unpack .f64 (s.pair t a).toNat)

/-- CVT.f16.f32 (R134). -/
def execCvtF16F32 (d a r sat k : Nat) (s : State) : Host.Outcome State Fault Refusal :=
  s.cvtNarrow d a r sat k 16 .f16

/-- CVT.bf16.f32 (R134). -/
def execCvtBf16F32 (d a r sat k : Nat) (s : State) : Host.Outcome State Fault Refusal :=
  s.cvtNarrow d a r sat k 16 .bf16

/-- CVT.e4m3.f32 (R134). -/
def execCvtE4m3F32 (d a r sat k : Nat) (s : State) : Host.Outcome State Fault Refusal :=
  s.cvtNarrow d a r sat k 8 .e4m3

/-- CVT.e5m2.f32 (R134). -/
def execCvtE5m2F32 (d a r sat k : Nat) (s : State) : Host.Outcome State Fault Refusal :=
  s.cvtNarrow d a r sat k 8 .e5m2

/-- CVT.e2m1.f32 (R134). -/
def execCvtE2m1F32 (d a r sat k : Nat) (s : State) : Host.Outcome State Fault Refusal :=
  s.cvtNarrow d a r sat k 4 .e2m1

/-- CVT.f32.f16 (R134). -/
def execCvtF32F16 (d a k : Nat) (s : State) : Host.Outcome State Fault Refusal :=
  s.cvtWiden d a k 16 .f16

/-- CVT.f32.bf16 (R134). -/
def execCvtF32Bf16 (d a k : Nat) (s : State) : Host.Outcome State Fault Refusal :=
  s.cvtWiden d a k 16 .bf16

/-- CVT.f32.e4m3 (R134). -/
def execCvtF32E4m3 (d a k : Nat) (s : State) : Host.Outcome State Fault Refusal :=
  s.cvtWiden d a k 8 .e4m3

/-- CVT.f32.e5m2 (R134). -/
def execCvtF32E5m2 (d a k : Nat) (s : State) : Host.Outcome State Fault Refusal :=
  s.cvtWiden d a k 8 .e5m2

/-- CVT.f32.e2m1 (R134). -/
def execCvtF32E2m1 (d a k : Nat) (s : State) : Host.Outcome State Fault Refusal :=
  s.cvtWiden d a k 4 .e2m1

/-- CVT.s8.s32 (R134). -/
def execCvtS8S32 (d a sat k : Nat) (s : State) : Host.Outcome State Fault Refusal :=
  s.cvtByte d a sat k (-128) 127

/-- CVT.n8.s32 (R134). -/
def execCvtN8S32 (d a sat k : Nat) (s : State) : Host.Outcome State Fault Refusal :=
  s.cvtByte d a sat k 0 255

/-- FRND (R135). -/
def execFrnd (d a r : Nat) (s : State) : Host.Outcome State Fault Refusal :=
  s.float d 1 [(a, 1)] (fun x => some (x.rmOf r)) fun s t md => roundIntegral .f32 md (s.reg t a).toNat

/-- FRNDD (R135). -/
def execFrndd (d a r : Nat) (s : State) : Host.Outcome State Fault Refusal :=
  s.float d 2 [(a, 2)] (fun x => some (x.rmOf r)) fun s t md => roundIntegral .f64 md (s.pair t a).toNat

/-- BSCALE (R136). -/
def execBscale (d a : Nat) (s : State) : Host.Outcome State Fault Refusal :=
  s.float d 1 [(a, 1)] (fun _ => none) fun s t _ => blockScale (s.reg t a).toNat

/-! ## F32 and F64 (R137 to R139) -/

/-- FTZ as it applies to results of a format (R106). -/
def Thread.flush (x : Thread) (f : Fmt) : Bool := f == .f32 && x.ftz

/-- A two-operand rounded operation. -/
def State.float2 (f : Fmt) (d a b : Nat) (op : Fmt → Mode → Bool → FVal → FVal → FRes) (s : State) :
    Host.Outcome State Fault Refusal :=
  s.float d (fmtRegs f) [(a, fmtRegs f), (b, fmtRegs f)] (fun x => some x.rm) fun s t md =>
    op f md ((s.th t).flush f) (s.fval t f a) (s.fval t f b)

/-- A fused operation; `na` and `nc` negate the product and the addend. -/
def State.float3 (f : Fmt) (d a b : Nat) (na nc : Bool) (s : State) : Host.Outcome State Fault Refusal :=
  s.float d (fmtRegs f) [(a, fmtRegs f), (b, fmtRegs f), (d, fmtRegs f)] (fun x => some x.rm) fun s t md =>
    let x := s.fval t f a
    let z := s.fval t f d
    fmaV f md ((s.th t).flush f) (if na then fvNeg x else x) (s.fval t f b) (if nc then fvNeg z else z)

/-- a − b: a NaN subtrahend keeps its own sign (R108). -/
def subV (f : Fmt) (md : Mode) (ftz : Bool) (a b : FVal) : FRes := addV f md ftz a (fvNeg b)

/-- FMIN and its relatives, on patterns read under FTZ (R138). -/
def State.floatPick (f : Fmt) (d a b : Nat) (maxi prop : Bool) (s : State) : Host.Outcome State Fault Refusal :=
  s.float d (fmtRegs f) [(a, fmtRegs f), (b, fmtRegs f)] (fun _ => none) fun s t _ =>
    let ftz := (s.th t).flush f
    minMaxV f maxi prop (flushIn f ftz (s.operand t f a)) (flushIn f ftz (s.operand t f b))

/-- FABS, FNEG and FSGNJ: the magnitude of va with a sign (R139). -/
def State.floatSign (f : Fmt) (d a : Nat) (rb : List (Nat × Nat)) (sign : State → TRef → Bool) (s : State) :
    Host.Outcome State Fault Refusal :=
  s.float d (fmtRegs f) ((a, fmtRegs f) :: rb) (fun _ => none) fun s t _ =>
    (s.operand t f a % signBit f + (if sign s t then signBit f else 0), noFlag)

/-- The sign bit of an operand. -/
def State.signOf (s : State) (t : TRef) (f : Fmt) (n : Nat) : Bool := s.operand t f n / signBit f % 2 == 1

/-- FADD.f32 (R137). -/
def execFaddF32 (d a b : Nat) (s : State) : Host.Outcome State Fault Refusal := s.float2 .f32 d a b addV

/-- FSUB.f32 (R137). -/
def execFsubF32 (d a b : Nat) (s : State) : Host.Outcome State Fault Refusal := s.float2 .f32 d a b subV

/-- FMUL.f32 (R137). -/
def execFmulF32 (d a b : Nat) (s : State) : Host.Outcome State Fault Refusal := s.float2 .f32 d a b mulV

/-- FFMA.f32 (R137). -/
def execFfmaF32 (d a b : Nat) (s : State) : Host.Outcome State Fault Refusal := s.float3 .f32 d a b false false

/-- FFMS.f32 (R137). -/
def execFfmsF32 (d a b : Nat) (s : State) : Host.Outcome State Fault Refusal := s.float3 .f32 d a b false true

/-- FNFMA.f32 (R137). -/
def execFnfmaF32 (d a b : Nat) (s : State) : Host.Outcome State Fault Refusal := s.float3 .f32 d a b true false

/-- FMIN.f32 (R138). -/
def execFminF32 (d a b : Nat) (s : State) : Host.Outcome State Fault Refusal := s.floatPick .f32 d a b false false

/-- FMAX.f32 (R138). -/
def execFmaxF32 (d a b : Nat) (s : State) : Host.Outcome State Fault Refusal := s.floatPick .f32 d a b true false

/-- FMINM.f32 (R138). -/
def execFminmF32 (d a b : Nat) (s : State) : Host.Outcome State Fault Refusal := s.floatPick .f32 d a b false true

/-- FMAXM.f32 (R138). -/
def execFmaxmF32 (d a b : Nat) (s : State) : Host.Outcome State Fault Refusal := s.floatPick .f32 d a b true true

/-- FABS.f32 (R139). -/
def execFabsF32 (d a : Nat) (s : State) : Host.Outcome State Fault Refusal :=
  s.floatSign .f32 d a [] fun _ _ => false

/-- FNEG.f32 (R139). -/
def execFnegF32 (d a : Nat) (s : State) : Host.Outcome State Fault Refusal :=
  s.floatSign .f32 d a [] fun s t => !s.signOf t .f32 a

/-- FSGNJ.f32 (R139). -/
def execFsgnjF32 (d a b : Nat) (s : State) : Host.Outcome State Fault Refusal :=
  s.floatSign .f32 d a [(b, fmtRegs .f32)] fun s t => s.signOf t .f32 b

/-- FCLASS.f32 (R139): a single register. -/
def execFclassF32 (d a : Nat) (s : State) : Host.Outcome State Fault Refusal :=
  s.float d 1 [(a, fmtRegs .f32)] (fun _ => none) fun s t _ => (classOf .f32 (s.operand t .f32 a), noFlag)

/-- FADD.f64 (R137). -/
def execFaddF64 (d a b : Nat) (s : State) : Host.Outcome State Fault Refusal := s.float2 .f64 d a b addV

/-- FSUB.f64 (R137). -/
def execFsubF64 (d a b : Nat) (s : State) : Host.Outcome State Fault Refusal := s.float2 .f64 d a b subV

/-- FMUL.f64 (R137). -/
def execFmulF64 (d a b : Nat) (s : State) : Host.Outcome State Fault Refusal := s.float2 .f64 d a b mulV

/-- FFMA.f64 (R137). -/
def execFfmaF64 (d a b : Nat) (s : State) : Host.Outcome State Fault Refusal := s.float3 .f64 d a b false false

/-- FFMS.f64 (R137). -/
def execFfmsF64 (d a b : Nat) (s : State) : Host.Outcome State Fault Refusal := s.float3 .f64 d a b false true

/-- FNFMA.f64 (R137). -/
def execFnfmaF64 (d a b : Nat) (s : State) : Host.Outcome State Fault Refusal := s.float3 .f64 d a b true false

/-- FMIN.f64 (R138). -/
def execFminF64 (d a b : Nat) (s : State) : Host.Outcome State Fault Refusal := s.floatPick .f64 d a b false false

/-- FMAX.f64 (R138). -/
def execFmaxF64 (d a b : Nat) (s : State) : Host.Outcome State Fault Refusal := s.floatPick .f64 d a b true false

/-- FMINM.f64 (R138). -/
def execFminmF64 (d a b : Nat) (s : State) : Host.Outcome State Fault Refusal := s.floatPick .f64 d a b false true

/-- FMAXM.f64 (R138). -/
def execFmaxmF64 (d a b : Nat) (s : State) : Host.Outcome State Fault Refusal := s.floatPick .f64 d a b true true

/-- FABS.f64 (R139). -/
def execFabsF64 (d a : Nat) (s : State) : Host.Outcome State Fault Refusal :=
  s.floatSign .f64 d a [] fun _ _ => false

/-- FNEG.f64 (R139). -/
def execFnegF64 (d a : Nat) (s : State) : Host.Outcome State Fault Refusal :=
  s.floatSign .f64 d a [] fun s t => !s.signOf t .f64 a

/-- FSGNJ.f64 (R139). -/
def execFsgnjF64 (d a b : Nat) (s : State) : Host.Outcome State Fault Refusal :=
  s.floatSign .f64 d a [(b, fmtRegs .f64)] fun s t => s.signOf t .f64 b

/-- FCLASS.f64 (R139): a single register. -/
def execFclassF64 (d a : Nat) (s : State) : Host.Outcome State Fault Refusal :=
  s.float d 1 [(a, fmtRegs .f64)] (fun _ => none) fun s t _ => (classOf .f64 (s.operand t .f64 a), noFlag)

/-! ## Packed halves (R140) -/

/-- The element format: t 0 f16, 1 bf16. -/
def halfFmt (t : Nat) : Fmt := if t == 0 then .f16 else .bf16

/-- The half `i` of a register, flushed in the f16 form under FTZ (R106). -/
def State.half (s : State) (r : TRef) (ty n i : Nat) : Nat :=
  flushIn (halfFmt ty) (ty == 0 && (s.th r).ftz) ((s.reg r n).toNat / 2 ^ (16 * i) % 2 ^ 16)

/-- An H2 instruction: the low element, then the high one; a rounding form draws for each in SR mode (R101). -/
def State.packed2 (d : Nat) (reads : List (Nat × Nat)) (rounds : Bool)
    (op : State → TRef → Mode → Nat → FRes) (s : State) : Host.Outcome State Fault Refusal :=
  s.issue { regs := (d, 1) :: reads, reads := reads } fun s t =>
    let draw (u : State) : Mode × State := if rounds then u.draw t (s.th t).rm else (modeRne, u)
    let (m0, s1) := draw s
    let (m1, s2) := draw s1
    let (lo, f0) := op s t m0 0
    let (hi, f1) := op s t m1 1
    .next ((s2.modTh t (·.raise (f0 ||| f1))).setReg t d (BitVec.ofNat 32 (lo + hi * 2 ^ 16)))

/-- A rounded packed operation on va and vb. -/
def State.half2 (d a b ty : Nat) (op : Fmt → Mode → Bool → FVal → FVal → FRes) (s : State) :
    Host.Outcome State Fault Refusal :=
  s.packed2 d [(a, 1), (b, 1)] true fun s t md i =>
    op (halfFmt ty) md (ty == 0 && (s.th t).ftz) (unpack (halfFmt ty) (s.half t ty a i)) (unpack (halfFmt ty) (s.half t ty b i))

/-- F2ADD (R140). -/
def execF2add (d a b t : Nat) (s : State) : Host.Outcome State Fault Refusal := s.half2 d a b t addV

/-- F2SUB (R140). -/
def execF2sub (d a b t : Nat) (s : State) : Host.Outcome State Fault Refusal := s.half2 d a b t subV

/-- F2MUL (R140). -/
def execF2mul (d a b t : Nat) (s : State) : Host.Outcome State Fault Refusal := s.half2 d a b t mulV

/-- F2FMA (R140). -/
def execF2fma (d a b t : Nat) (s : State) : Host.Outcome State Fault Refusal :=
  s.packed2 d [(a, 1), (b, 1), (d, 1)] true fun s r md i =>
    fmaV (halfFmt t) md (t == 0 && (s.th r).ftz) (unpack (halfFmt t) (s.half r t a i))
      (unpack (halfFmt t) (s.half r t b i)) (unpack (halfFmt t) (s.half r t d i))

/-- F2MIN (R140). -/
def execF2min (d a b t : Nat) (s : State) : Host.Outcome State Fault Refusal :=
  s.packed2 d [(a, 1), (b, 1)] false fun s r _ i => minMaxV (halfFmt t) false false (s.half r t a i) (s.half r t b i)

/-- F2MAX (R140). -/
def execF2max (d a b t : Nat) (s : State) : Host.Outcome State Fault Refusal :=
  s.packed2 d [(a, 1), (b, 1)] false fun s r _ i => minMaxV (halfFmt t) true false (s.half r t a i) (s.half r t b i)

/-- F2ABS (R140): each element's sign bit cleared, whatever its format. -/
def execF2abs (d a t : Nat) (s : State) : Host.Outcome State Fault Refusal :=
  s.packed2 d [(a, 1)] false fun s r _ i =>
    ((s.reg r a).toNat / 2 ^ (16 * i) % 2 ^ 16 % signBit (halfFmt t), noFlag)

/-- F2NEG (R140): each element's sign bit inverted. -/
def execF2neg (d a t : Nat) (s : State) : Host.Outcome State Fault Refusal :=
  s.packed2 d [(a, 1)] false fun s r _ i =>
    (((s.reg r a).toNat / 2 ^ (16 * i) % 2 ^ 16) ^^^ signBit (halfFmt t), noFlag)

/-! ## Long-latency arithmetic (R141 to R144) -/

/-- A long-latency operation: operands, mode and draw are taken at issue, and the result is due in its window. -/
def State.longOp (d w la : Nat) (reads : List (Nat × Nat)) (rounds : Bool) (r : State → TRef → Mode → FRes) (s : State) :
    Host.Outcome State Fault Refusal :=
  s.issue { regs := (d, w) :: reads, reads := reads } fun s t =>
    let (md, s') := if rounds then s.draw t (s.th t).rm else (modeRne, s)
    let (v, fl) := r s t md
    .next (s'.later t d la (natWords w v) fl)

/-- The format that t1 selects (R69). -/
def llFmt (t : Nat) : Fmt := if t == 0 then .f32 else .f64

/-- An FLL function. -/
def State.fll (d a la ty : Nat) (rounds : Bool) (op : Fmt → Mode → Bool → FVal → FRes) (s : State) :
    Host.Outcome State Fault Refusal :=
  s.longOp d (ty + 1) la [(a, ty + 1)] rounds fun s t md =>
    op (llFmt ty) md ((s.th t).flush (llFmt ty)) (s.fval t (llFmt ty) a)

/-- FSQRT (R142). -/
def execFsqrt (d a l t : Nat) (s : State) : Host.Outcome State Fault Refusal := s.fll d a l t true sqrtV

/-- FRCP (R142). -/
def execFrcp (d a l t : Nat) (s : State) : Host.Outcome State Fault Refusal :=
  s.fll d a l t true fun f md ftz x => divV f md ftz (.fin false 1 0) x

/-- FRSQ (R142). -/
def execFrsq (d a l : Nat) (s : State) : Host.Outcome State Fault Refusal :=
  s.fll d a l 0 false fun f _ ftz x => rsqrtV f ftz x

/-- FEXP2 (R142). -/
def execFexp2 (d a l : Nat) (s : State) : Host.Outcome State Fault Refusal :=
  s.fll d a l 0 false fun _ _ ftz x => exp2V ftz x

/-- FLOG2 (R142). -/
def execFlog2 (d a l : Nat) (s : State) : Host.Outcome State Fault Refusal :=
  s.fll d a l 0 false fun _ _ ftz x => log2V ftz x

/-- FSINT (R142). -/
def execFsint (d a l : Nat) (s : State) : Host.Outcome State Fault Refusal :=
  s.fll d a l 0 false fun _ _ ftz x => turnV ftz false x

/-- FCOST (R142). -/
def execFcost (d a l : Nat) (s : State) : Host.Outcome State Fault Refusal :=
  s.fll d a l 0 false fun _ _ ftz x => turnV ftz true x

/-- FTANH (R142). -/
def execFtanh (d a l : Nat) (s : State) : Host.Outcome State Fault Refusal :=
  s.fll d a l 0 false fun _ _ ftz x => tanhV ftz x

/-- FDIV (R143). -/
def execFdiv (d a b l t : Nat) (s : State) : Host.Outcome State Fault Refusal :=
  s.longOp d (t + 1) l [(a, t + 1), (b, t + 1)] true fun s r md =>
    divV (llFmt t) md ((s.th r).flush (llFmt t)) (s.fval r (llFmt t) a) (s.fval r (llFmt t) b)

/-- Quotient and remainder of two words, signed when t1 is 0 (R144). -/
def divRem (t : Nat) (a b : Word) : Word × Word :=
  if b == 0 then (0xFFFFFFFF, a)
  else if t == 0 then
    if a == 0x80000000 && b == 0xFFFFFFFF then (0x80000000, 0)
    else (wordOfInt (a.toInt.tdiv b.toInt), wordOfInt (a.toInt.tmod b.toInt))
  else (BitVec.ofNat 32 (a.toNat / b.toNat), BitVec.ofNat 32 (a.toNat % b.toNat))

/-- DIV (R144). -/
def execDiv (d a b l t : Nat) (s : State) : Host.Outcome State Fault Refusal :=
  s.longOp d 1 l [(a, 1), (b, 1)] false fun s r _ => ((divRem t (s.reg r a) (s.reg r b)).1.toNat, noFlag)

/-- REM (R144). -/
def execRem (d a b l t : Nat) (s : State) : Host.Outcome State Fault Refusal :=
  s.longOp d 1 l [(a, 1), (b, 1)] false fun s r _ => ((divRem t (s.reg r a) (s.reg r b)).2.toNat, noFlag)

end Sys2Proof.Machine
end

