-- ==== Sys2Proof/Machine/Regs.lean ====
section
/-! DEFINITION. Host writes of the kick page and the control page (R297, R298, R306, R326, R327, R416), with the T-bit
rules (R376, R377), and the service periods (R330). -/

namespace Sys2Proof.Machine

/-! ## T-bit access (R377) -/

/-- Whether a host request with or without the T bit may reach a private or a shared page of a VD. -/
def Vd.admits (v : Vd) (priv tbit : Bool) : Bool :=
  if tbit then v.conf && v.tdisp.state == 2 else !(v.conf && v.tdisp.state != 0 && priv)

/-- A refused request is logged: its host address, the T bit, and whether it wrote. -/
def State.logTbit (s : State) (vd addr : Nat) (tbit write : Bool) : State :=
  s.post vd { kind := 9, val := addr, aux := (if tbit then 1 else 0) + (if write then 2 else 0) }

/-- Whether a VD's function is enabled (R323, R324): its id is in use. -/
def State.enabled (s : State) (vd : Nat) : Bool := vd == 0 || (s.hasVd vd && (s.vd vd).vstate ≥ 2)

/-- A write to a register page: dropped when the function is disabled, dropped and logged when the T-bit rules refuse it.
`off` is the BAR0 offset. -/
def State.regWrite (s : State) (vd off : Nat) (tbit : Bool) (f : State → State) : Host.Outcome State Fault Refusal :=
  .next (if !s.enabled vd then s
    else if !(s.vd vd).admits true tbit then s.logTbit vd (Config.barBase (s.vd vd).vfn 0 + off) tbit true
    else f s)

/-! ## The kick page (R297, R298) -/

/-- Whether NOTIFY and CRNOTIFY writes of a VD are taken: it is ACTIVE, and its interface is neither CONFIG_LOCKED nor ERROR
(R297, R376). -/
def State.takesNotify (s : State) (vd : Nat) : Bool :=
  let v := s.vd vd
  s.vdActive vd && !(v.conf && (v.tdisp.state == 1 || v.tdisp.state == 3))

/-- Whether a new write index lies ahead of the old one and at most a ring's length ahead of the read index (R297). -/
def indexTaken (old read new : Word) (size : Nat) : Bool :=
  (old - read).toNat < (new - read).toNat && (new - read).toNat ≤ 2 ^ size

/-- NOTIFY (R297). -/
def State.notifyQueue (s : State) (vd q : Nat) (w : Word) : State :=
  let u := s.queue vd q
  if s.takesNotify vd && qEn u && indexTaken u.widx u.rdidx w (qSize u) then
    s.modQueue vd q fun u => { u with widx := w, pktPoll := {}, sigPoll := {} }
  else s

/-- The writable bits of QCTL while EN = 1, and while EN = 0 (R298). -/
def qctlOpen : Word := 0x9F1
def qctlShut : Word := 0x801

/-- The next read of a queue whose HOME changes: what is left of its wait counts on the new die's clock (R4). -/
def PollMark.rehome (m : PollMark) (was now : Nat) : PollMark := { m with limit := now + (m.limit - was) }

/-- A write of QCTL (R298): while EN = 1 only IRQ and EN change; setting EN zeroes the indexes, or stops with CONFIG, and lets go
of what was being read of the old ring. A packet being accepted is finished in any case, with the index that it has. -/
def State.writeQctl (s : State) (vd q : Nat) (w : Word) : State :=
  (if !qEn (s.queue vd q) && w.getLsbD 0 then s.dropReader vd q else s).modQueue vd q fun u =>
    if qEn u then { u with qctl := (u.qctl &&& ~~~ qctlShut) ||| (w &&& qctlShut) }
    else
      let n := { u with qctl := w &&& qctlOpen }
      let n := { n with sigPoll := n.sigPoll.rehome (s.cycles (qHome u)) (s.cycles (qHome n)) }
      if !qEn n then n
      else if n.qbase.toNat % 64 != 0 || qSize n < 4 || 14 < qSize n then
        { n with qctl := n.qctl &&& ~~~ 1#32, err := true, code := BitVec.ofNat 8 codeConfig }
      else
        { n with
          rdidx := 0
          widx := 0
          taking := n.taking.map fun t => { t with old := true }
          pktPoll := {}
          sigPoll := {} }

/-- A write of QERR (R297, R306): clearing ERR passes the packet that failed, unless the error is CONFIG. -/
def State.writeQerr (s : State) (vd q : Nat) (w : Word) : State :=
  s.modQueue vd q fun u =>
    if w.getLsbD 31 && u.err then
      { u with
        err := false, code := 0, pktPoll := {}, sigPoll := {}
        rdidx := if u.code.toNat == codeConfig then u.rdidx else u.rdidx + 1 }
    else u

/-- A write of a queue's register (R297): a VD has queues 0 to 63, the physical function none. -/
def State.queueWrite (s : State) (vd q off : Nat) (tbit : Bool) (f : State → State) : Host.Outcome State Fault Refusal :=
  if q < 64 && vd != 0 then s.regWrite vd (64 * q + off) tbit f else .next s

/-- NOTIFY (R297). -/
def execNotify (vd q : Nat) (value : Word) (tbit : Bool) (s : State) : Host.Outcome State Fault Refusal :=
  s.queueWrite vd q 0 tbit fun s => s.notifyQueue vd q value

/-- QUEUE_ENABLE (R298). -/
def execQueueEnable (vd q : Nat) (value : Word) (tbit : Bool) (s : State) : Host.Outcome State Fault Refusal :=
  s.queueWrite vd q 0x10 tbit fun s => s.writeQctl vd q value

/-- QUEUE_DISABLE (R298): fetching stops; accepted packets run on. -/
def execQueueDisable (vd q : Nat) (value : Word) (tbit : Bool) (s : State) : Host.Outcome State Fault Refusal :=
  s.queueWrite vd q 0x10 tbit fun s => s.writeQctl vd q value

/-- QERR_CLEAR (R297, R306). -/
def execQerrClear (vd q : Nat) (value : Word) (tbit : Bool) (s : State) : Host.Outcome State Fault Refusal :=
  s.queueWrite vd q 0x1C tbit fun s => s.writeQerr vd q value

/-! ## The control page (R326, R327, R416) -/

/-- CRNOTIFY (R327), under the rules of NOTIFY. -/
def State.notifyRing (s : State) (ring : Nat) (w : Word) : State :=
  let c := s.ctl ring
  if s.takesNotify ring && ringEn c.crctl && indexTaken c.crwidx c.crdone w (ringSize c.crctl) then
    s.modCtl ring fun c => { c with crwidx := w }
  else s

/-- A ring's control word after a write: SIZE and EN are the only fields, and SIZE keeps its value while EN = 1. EN stays 0
for a misaligned base or a size out of range. The flag says that EN was set. -/
def ringCtl (old w : Word) (base : DWord) (lo hi : Nat) : Word × Bool :=
  if ringEn old then ((old &&& ~~~ 1#32) ||| (w &&& 1), false)
  else
    let n := w &&& 0xF1
    if !ringEn n then (n, false)
    else if base.toNat % 64 != 0 || ringSize n < lo || hi < ringSize n then (n &&& ~~~ 1#32, false)
    else (n, true)

/-- A write of CRCTL: setting EN zeroes the call indexes. -/
def State.writeCrctl (s : State) (ring : Nat) (w : Word) : State :=
  (if !ringEn (s.ctl ring).crctl && w.getLsbD 0 then s.dropReader ring ringReader else s).modCtl ring fun c =>
    let (v, set) := ringCtl c.crctl w c.crbase 4 10
    if set then { c with crctl := v, crwidx := 0, crdone := 0 } else { c with crctl := v }

/-- A write of FQCTL: setting EN zeroes FQTAIL and FQHEAD; an entry of the old queue that is still on its way counts in no index of the
new one. -/
def State.writeFqctl (s : State) (ring : Nat) (w : Word) : State :=
  s.modCtl ring fun c =>
    let (v, set) := ringCtl c.fqctl w c.fqbase 4 14
    if set then { c with fqctl := v, fqtail := 0, fqhead := 0, fqWait := [] } else { c with fqctl := v }

/-- A write of FQHEAD: ignored when it would leave more entries than the queue holds (R416). -/
def State.writeFqhead (s : State) (ring : Nat) (w : Word) : State :=
  s.modCtl ring fun c => if (c.fqtail - w).toNat > 2 ^ ringSize c.fqctl then c else { c with fqhead := w }

/-- CRNOTIFY (R327). -/
def execCrnotify (ring : Nat) (value : Word) (tbit : Bool) (s : State) : Host.Outcome State Fault Refusal :=
  s.regWrite ring 0x1018 tbit fun s => s.notifyRing ring value

/-- CALL_RING_ENABLE (R326). -/
def execCallRingEnable (ring : Nat) (value : Word) (tbit : Bool) (s : State) : Host.Outcome State Fault Refusal :=
  s.regWrite ring 0x1010 tbit fun s => s.writeCrctl ring value

/-- FAULT_QUEUE_ENABLE (R326). -/
def execFaultQueueEnable (ring : Nat) (value : Word) (tbit : Bool) (s : State) : Host.Outcome State Fault Refusal :=
  s.regWrite ring 0x1028 tbit fun s => s.writeFqctl ring value

/-- FQHEAD_WRITE (R416). -/
def execFqheadWrite (ring : Nat) (value : Word) (tbit : Bool) (s : State) : Host.Outcome State Fault Refusal :=
  s.regWrite ring 0x1030 tbit fun s => s.writeFqhead ring value

/-! ## The other registers (R5, R297, R326, R393) -/

/-- A base register written, unless its ring or queue is enabled. -/
def State.writeQbase (s : State) (vd q : Nat) (v : DWord) : State :=
  s.modQueue vd q fun u => if qEn u then u else { u with qbase := v }

def State.writeCrbase (s : State) (ring : Nat) (v : DWord) : State :=
  s.modCtl ring fun c => if ringEn c.crctl then c else { c with crbase := v }

def State.writeFqbase (s : State) (ring : Nat) (v : DWord) : State :=
  s.modCtl ring fun c => if ringEn c.fqctl then c else { c with fqbase := v }

/-- Whether an HDM decoder fits R393: one of the 16 of an enabled CXL endpoint, a host range in units of 2 GiB, and a run of GPA
blocks of a VD whose function the endpoint presents. -/
def State.hdmOk (s : State) (x : Hdm) : Bool :=
  match s.boot.endpoints[x.ep]? with
  | some e =>
    e.en && e.cxl && x.k < 16 && x.base % 2 ^ 31 == 0 && x.gblk + x.blocks ≤ 256 && x.vd != 0 && s.hasVd x.vd &&
      e.vfbase ≤ (s.vd x.vd).vfn && (s.vd x.vd).vfn < e.vfbase + e.vfcount
  | none => false

/-- An HDM decoder of a CXL logical device committed (R393), in place of the one of the same number; one that does not fit is not. -/
def State.commitHdm (s : State) (x : Hdm) : State :=
  if !s.hdmOk x then s
  else { s with hdm := x :: s.hdm.filter fun y => !(y.ep == x.ep && y.k == x.k) }

/-- REGISTER_WRITE (R5, R297, R298, R326, R393): a write to a read-only or reserved place is dropped. -/
def execRegisterWrite (r : DevReg) (value : DWord) (tbit : Bool) (s : State) : Host.Outcome State Fault Refusal :=
  match r with
  | .qbase vd q => s.queueWrite vd q 8 tbit fun s => s.writeQbase vd q value
  | .qctl vd q => s.queueWrite vd q 0x10 tbit fun s => s.writeQctl vd q (value.setWidth 32)
  | .crbase ring => s.regWrite ring 0x1008 tbit fun s => s.writeCrbase ring value
  | .fqbase ring => s.regWrite ring 0x1020 tbit fun s => s.writeFqbase ring value
  | .crctl ring => s.regWrite ring 0x1010 tbit fun s => s.writeCrctl ring (value.setWidth 32)
  | .fqctl ring => s.regWrite ring 0x1028 tbit fun s => s.writeFqctl ring (value.setWidth 32)
  | .readOnly ring off => s.regWrite ring off tbit fun s => s
  | .hdm ep k base blocks vd gblk =>
    .next (s.commitHdm { ep := ep, k := k, base := base, blocks := blocks, vd := vd, gblk := gblk })

/-- SERVICE_PERIOD (R330): every ring's budget is refilled. -/
def execServicePeriod (s : State) : Host.Outcome State Fault Refusal :=
  .next { s with vds := s.vds.map fun v => { v with bud := min (v.bud + v.budget) v.budget } }

end Sys2Proof.Machine
end

