-- ==== Sys2Proof/Machine/HostMem.lean ====
section
/-! DEFINITION. Host requests (R204, R213, R377, R391, R423) and CXL.mem accesses (R393, R394).

A host request names its function and an offset `off`: below 2^39 it is the BAR2 offset, from 2^39 on the BAR0 offset, and
from 2^40 on the configuration offset (log entry 34). -/

namespace Sys2Proof.Machine

def bar0Base : Nat := 2 ^ 39
def cfgBase : Nat := 2 ^ 40

/-! ## Register pages (R297, R326, R391) -/

/-- A queue's 64 bytes of the kick page. -/
def UQueue.page (u : UQueue) : Nat :=
  2 ^ 64 * u.qbase.toNat + 2 ^ 128 * u.qctl.toNat + 2 ^ 192 * u.rdidx.toNat +
    2 ^ 224 * ((if u.err then 2 ^ 31 else 0) + u.code.toNat)

/-- The first 128 bytes of the control page; its other bytes read as zero. -/
def Vd.page (v : Vd) : Nat :=
  let c := v.ctl
  (if v.id == 0 then 2 ^ 31 else v.id) + 2 ^ 64 * c.crbase.toNat + 2 ^ 128 * c.crctl.toNat + 2 ^ 224 * c.crdone.toNat +
    2 ^ 256 * c.fqbase.toNat + 2 ^ 320 * c.fqctl.toNat + 2 ^ 352 * c.fqtail.toNat + 2 ^ 384 * c.fqhead.toNat +
    2 ^ 512 * (List.range 8).foldl (fun n k => n + 2 ^ (64 * k) * c.errcnt.getD k 0) 0

/-- A byte of BAR0. -/
def State.regByte (s : State) (vd x : Nat) : Byte :=
  BitVec.ofNat 8
    (if x < 4096 then (if vd == 0 then 0 else (s.queue vd (x / 64)).page / 2 ^ (8 * (x % 64)))
    else if x < 8192 then (s.vd vd).page / 2 ^ (8 * (x - 4096))
    else 0)

/-- The bytes of BAR0 from an offset on. -/
def State.regBytes (s : State) (vd x n : Nat) : List Byte := (List.range n).map fun i => s.regByte vd (x + i)

/-- A write of a whole register of BAR0; any other write is dropped. -/
def State.regStore (s : State) (vd x : Nat) (data : List Byte) : State :=
  let v := bytesNat data
  let w := BitVec.ofNat 32 v
  let q := x / 64
  if x < 4096 then
    if vd == 0 then s
    else match x % 64, data.length with
      | 0x00, 4 => s.notifyQueue vd q w
      | 0x08, 8 => s.writeQbase vd q (dw v)
      | 0x10, 4 => s.writeQctl vd q w
      | 0x1C, 4 => s.writeQerr vd q w
      | _, _ => s
  else match x - 4096, data.length with
    | 0x08, 8 => s.writeCrbase vd (dw v)
    | 0x10, 4 => s.writeCrctl vd w
    | 0x18, 4 => s.notifyRing vd w
    | 0x20, 8 => s.writeFqbase vd (dw v)
    | 0x28, 4 => s.writeFqctl vd w
    | 0x30, 4 => s.writeFqhead vd w
    | _, _ => s

/-- The width of the register of BAR0 that begins at an offset; a write that begins inside a word goes on at the next one. -/
def regWidth (x : Nat) : Nat := if (x < 4096 && x % 64 == 8) || x == 4096 + 0x08 || x == 4096 + 0x20 then 8 else 4

/-- A write of BAR0, register by register in ascending order; a part of a register is dropped (log entry 42). -/
def State.regStores (s : State) (vd : Nat) : Nat → Nat → List Byte → State
  | 0, _, _ => s
  | fuel + 1, x, data =>
    let n := regWidth x - x % 4
    if data.length < n then s else (s.regStore vd x (data.take n)).regStores vd fuel (x + n) (data.drop n)

/-! ## TLPs (R379, R380) -/

/-- Whether a stream slot belongs to CXL.cachemem alone: a CXL.io TLP that names it is on no stream, and is discarded (R394; log entry
28). -/
def State.cxlOnly (s : State) (stream : Nat) : Bool := (s.ports.getD (stream / 64) {}).cxl && stream % 64 == 63

/-- A host request that travels on an IDE stream is a TLP of it (R379, R380): sub-stream 0 posted, 1 non-posted. One that is
discarded has no effect; a non-posted one that is taken is answered by a completion, which the device sends on the stream. -/
def State.arrives (s : State) (c : Carry) (posted : Bool) (f : State → Host.Outcome State Fault Refusal) :
    Host.Outcome State Fault Refusal :=
  match c.ide with
  | none => f s
  | some m =>
    if s.cxlOnly m.stream then .next s
    else match s.receive (if posted then 0 else 1) m with
    | (s, false) => .next s
    | (s, true) =>
      match posted, f s with
      | false, .next s => .next (match s.out.getLast? with
        | some o => s.sealOut m.stream 2 o
        | none => s)
      | _, r => r

/-! ## Memory requests -/

/-- Whether a request's bytes lie in one 4 KiB page, as PCI Express requires, and fit a payload (R389). -/
def tlpOk (off n : Nat) : Bool := n != 0 && n ≤ 512 && off % 4096 + n ≤ 4096

/-- The tokens of a host request: one for each line, never held (R335). -/
def State.chargeHost (s : State) (vd ma n : Nat) : State :=
  (List.range ((ma + n - 1) / 128 - ma / 128 + 1)).foldl (fun (s : State) k => s.chargeNow vd (ma + 128 * k)) s

/-- The machine address of a BAR2 request, or what refuses it: a T-bit refusal is logged (R377), a refusal of the Breakwater
is not. The physical function's window is the GPA space of VD 0 (R391; log entry 14). -/
def State.bar2 (s : State) (fn vd off : Nat) (tbit write : Bool) : State × Option Nat :=
  let v := s.vd vd
  if off ≥ 2 ^ 39 then (s, none)
  else if !v.admits (!v.sharedBlocks.contains (off / 2 ^ 31)) tbit then
    (s.logTbit vd (Config.barBase fn 2 + off) tbit write, none)
  else (s, s.stage2 vd off)

/-- A read of a VD's memory for a function. -/
def State.hostLoad (s : State) (fn vd off n : Nat) (tbit : Bool) : State :=
  if !tlpOk off n then s.emit (.malformed fn)
  else match s.bar2 fn vd off tbit false with
    | (s, none) => s.emit (.unsupported fn)
    | (s, some ma) =>
      let s := s.chargeHost vd ma n
      s.emit (.completion fn (natBytes n (s.homeRead ma n)) (s.devPoisoned ma n))

/-- A write dropped because it covers a poisoned unit only in part, counted for the VD whose memory it is (R339, R423): as an HBM error, or
as an array error where only the home slice's array is in error (log entry 28). -/
def State.countDropped (s : State) (vd ma n : Nat) : State :=
  s.countError vd (if s.poison.any fun p => p < ma + n && ma < p + 64 then 1 else 3)

/-- The sectors of a write: a poisoned unit takes a write that covers it whole, and drops one in part (R423). Words that become FULL are
served (R243). -/
def State.hostSectors (s : State) (vd gpa ma : Nat) : Nat → List Byte → State
  | 0, _ => s
  | fuel + 1, data =>
    if data.isEmpty then s
    else
      let n := Nat.min data.length (64 - ma % 64)
      let s :=
        if s.devPartly ma n then s.countDropped vd ma n
        else ((s.clearWhole ma n).homeWrite vd gpa ma n (bytesNat (data.take n))).serveIf (s.devPoisoned ma n)
      s.hostSectors vd (gpa + n) (ma + n) fuel (data.drop n)

/-- A posted write of a VD's memory: a refused one is dropped. -/
def State.hostStore (s : State) (fn vd off : Nat) (data : List Byte) (tbit : Bool) : State :=
  if !tlpOk off data.length then s.emit (.malformed fn)
  else match s.bar2 fn vd off tbit true with
    | (s, none) => s
    | (s, some ma) => (s.chargeHost vd ma data.length).hostSectors vd off ma 10 data

/-- A read by a function: memory, a register page, or configuration space. -/
def State.hostReads (s : State) (fn off size : Nat) (tbit : Bool) : State :=
  if off ≥ cfgBase then
    let o := off - cfgBase
    s.emit (.completion fn (natBytes size (s.cfgRead fn (o / 4 * 4) / 2 ^ (8 * (o % 4)))) false)
  else match s.vdOfFn fn with
    | none => s.emit (.unsupported fn)
    | some vd =>
      if off < bar0Base then s.hostLoad fn vd off size tbit
      else
        let x := off - bar0Base
        if !(s.vd vd).admits true tbit then (s.logTbit vd (Config.barBase fn 0 + x) tbit false).emit (.unsupported fn)
        else s.emit (.completion fn (s.regBytes vd x size) false)

/-- HOST_READ (R213, R391). -/
def execHostRead (fn off size : Nat) (c : Carry) (s : State) : Host.Outcome State Fault Refusal :=
  s.arrives c false fun s => .next (s.hostReads fn off size c.tbit)

/-- HOST_WRITE (R206, R213, R391, R423). -/
def execHostWrite (fn off : Nat) (data : List Byte) (c : Carry) (s : State) : Host.Outcome State Fault Refusal :=
  s.arrives c true fun s =>
    match s.vdOfFn fn with
    | none => .next s
    | some vd =>
      if off < bar0Base then .next (s.hostStore fn vd off data c.tbit)
      else if off < cfgBase then
        s.regWrite vd (off - bar0Base) c.tbit fun s => s.regStores vd 129 (off - bar0Base) data
      else .next s

/-! ## AtomicOps (R204) -/

/-- An AtomicOp on a VD's memory: the old value is returned; `f` gives the new one, if it writes. -/
def State.hostAtomic (fn off n : Nat) (sizes : List Nat) (c : Carry) (f : Nat → Option Nat) (s : State) :
    Host.Outcome State Fault Refusal :=
  s.arrives c false fun s => .next (if !sizes.contains n || off % n != 0 then s.emit (.malformed fn)
    else match s.vdOfFn fn with
      | none => s.emit (.unsupported fn)
      | some vd =>
        match s.bar2 fn vd off c.tbit true with
        | (s, none) => s.emit (.unsupported fn)
        | (s, some ma) =>
          let s := s.chargeHost vd ma n
          let old := s.homeRead ma n
          if s.devPoisoned ma n then s.emit (.completion fn (natBytes n old) true)
          else
            let s := match f old with
              | some v => s.homeWrite vd off ma n v
              | none => s
            s.emit (.completion fn (natBytes n old) false))

/-- HOST_FETCHADD (R204). -/
def execHostFetchadd (fn off size x : Nat) (c : Carry) (s : State) : Host.Outcome State Fault Refusal :=
  s.hostAtomic fn off size [4, 8] c fun old => some ((old + x) % 2 ^ (8 * size))

/-- HOST_SWAP (R204). -/
def execHostSwap (fn off size x : Nat) (c : Carry) (s : State) : Host.Outcome State Fault Refusal :=
  s.hostAtomic fn off size [4, 8] c fun _ => some (x % 2 ^ (8 * size))

/-- HOST_CAS (R204). -/
def execHostCas (fn off size cmp x : Nat) (c : Carry) (s : State) : Host.Outcome State Fault Refusal :=
  s.hostAtomic fn off size [4, 8, 16] c fun old =>
    if old == cmp % 2 ^ (8 * size) then some (x % 2 ^ (8 * size)) else none

/-! ## CXL.mem (R393, R394) -/

/-- The decoder of a logical device that maps a host address. -/
def State.hdmFor (s : State) (ep haddr : Nat) : Option Hdm :=
  s.hdm.find? fun x => x.ep == ep && x.base ≤ haddr && haddr < x.base + 2 ^ 31 * x.blocks

/-- The key slot of CXL.cachemem IDE on a logical device's port (R394). -/
def State.cxlSlot (s : State) (ep : Nat) : Nat := 64 * ((s.boot.endpoints[ep]?).map (·.port)).getD 0 + 63

/-- Whether the CXL.cachemem IDE stream of a logical device's port has become Insecure. -/
def State.cxlBroken (s : State) (ep : Nat) : Bool := (s.stream (s.cxlSlot ep)).failed

/-- A CXL.mem access under IDE: a MAC that fails, a slot that is not Secure, or a set without keys makes the port's slot Insecure (R380,
R394). -/
def State.cxlArrives (s : State) (ep : Nat) (c : Carry) : State :=
  match c.ide with
  | some m => (s.receive 0 { m with stream := s.cxlSlot ep }).1
  | none => s

/-- CXL_MEM_ACCESS (R393, R394): as a BAR2 request of the decoder's VD; unmapped, or once the port's IDE has failed, it completes
with poison. -/
def execCxlMemAccess (ep haddr size : Nat) (data : Option (List Byte)) (c : Carry) (s : State) :
    Host.Outcome State Fault Refusal :=
  let s := s.cxlArrives ep c
  .next (match s.hdmFor ep haddr with
    | none => s.emit (.completion 0 [] true)
    | some x =>
      let fn := (s.vd x.vd).vfn
      let off := 2 ^ 31 * x.gblk + (haddr - x.base)
      if s.cxlBroken ep || !s.hasVd x.vd then s.emit (.completion fn [] true)
      else match data with
        | some bs => s.hostStore fn x.vd off bs c.tbit
        | none => s.hostLoad fn x.vd off size c.tbit)

end Sys2Proof.Machine
end

