-- ==== Sys2Proof/Machine/Int.lean ====
section
/-! DEFINITION. The integer instructions: ALU, UNARY, the immediate forms and BITF (R112 to R117). -/

namespace Sys2Proof.Machine

/-! ## Arithmetic of words -/

/-- Bits [63:32] of the product of two integers (R113). -/
def highOf (x : Int) : Word := BitVec.ofInt 32 (x / 2 ^ 32)

/-- SHL, SHR and SRA by any amount (R113). -/
def shlW (x : Word) (n : Nat) : Word := if n < 32 then x <<< n else 0
def shrW (x : Word) (n : Nat) : Word := if n < 32 then x >>> n else 0
def sraW (x : Word) (n : Nat) : Word := x.sshiftRight (Nat.min n 31)

/-- The same on pairs (R114). -/
def shlD (x : DWord) (n : Nat) : DWord := if n < 64 then x <<< n else 0
def shrD (x : DWord) (n : Nat) : DWord := if n < 64 then x >>> n else 0
def sraD (x : DWord) (n : Nat) : DWord := x.sshiftRight (Nat.min n 63)

/-- Leading zero bits of a `w`-bit number (R115). -/
def clzNat (w x : Nat) : Nat := if x = 0 then w else w - 1 - Nat.log2 x

/-- Trailing zero bits of the low `w` bits from bit `i` on. -/
def ctzFrom (x : Nat) : Nat → Nat → Nat
  | 0, i => i
  | k + 1, i => if x.testBit i then i else ctzFrom x k (i + 1)

/-- Bits set among the low `w` bits. -/
def popNat (x : Nat) : Nat → Nat
  | 0 => 0
  | w + 1 => (if x.testBit w then 1 else 0) + popNat x w

/-- Byte `i` of a word. -/
def byteW (x : Word) (i : Nat) : Byte := x.extractLsb' (8 * i) 8

/-- A word of four bytes, the lowest first. -/
def wordOfBytes (b0 b1 b2 b3 : Byte) : Word := b3 ++ b2 ++ b1 ++ b0

/-- One byte of BSEL (R113). -/
def bselByte (x c : Word) (i : Nat) : Byte :=
  let b := byteW x (bitsOf c.toNat (2 * i + 1) (2 * i))
  if c.getLsbD (8 + i) then 0
  else if c.getLsbD (12 + i) then (if b.getLsbD 7 then 0xFF else 0)
  else b

/-- BSEL's result (R113). -/
def bselW (x c : Word) : Word := wordOfBytes (bselByte x c 0) (bselByte x c 1) (bselByte x c 2) (bselByte x c 3)

/-- The field of `len` bits at `pos`, zero-extended (R117). -/
def fieldN (x : Word) (pos len : Nat) : Word := BitVec.ofNat 32 (x.toNat / 2 ^ pos % 2 ^ len)

/-- The field sign-extended from its bit `len - 1` (R117). -/
def fieldS (x : Word) (pos len : Nat) : Word := wordOfInt (signExt len (x.toNat / 2 ^ pos))

/-- A field of `y` replaced by the low bits of `x` (R117). -/
def insertField (y x : Word) (pos len : Nat) : Word :=
  let m : Word := BitVec.ofNat 32 ((2 ^ len - 1) * 2 ^ pos)
  (y &&& ~~~ m) ||| ((x <<< pos) &&& m)

/-- A sign-extended 12-bit immediate as a word (R53). -/
def imm12 (i : Nat) : Word := wordOfInt (signExt 12 i)

/-! ## ALU (R113) -/

/-- ADD (R113). -/
def execAdd (d a b : Nat) (s : State) : Host.Outcome State Fault Refusal :=
  s.alu d [(a, 1), (b, 1)] fun s t => s.reg t a + s.reg t b

/-- SUB (R113). -/
def execSub (d a b : Nat) (s : State) : Host.Outcome State Fault Refusal :=
  s.alu d [(a, 1), (b, 1)] fun s t => s.reg t a - s.reg t b

/-- CARRY (R113). -/
def execCarry (d a b : Nat) (s : State) : Host.Outcome State Fault Refusal :=
  s.alu d [(a, 1), (b, 1)] fun s t => if (s.reg t a).toNat + (s.reg t b).toNat ≥ 2 ^ 32 then 1 else 0

/-- BORROW (R113). -/
def execBorrow (d a b : Nat) (s : State) : Host.Outcome State Fault Refusal :=
  s.alu d [(a, 1), (b, 1)] fun s t => if (s.reg t a).toNat < (s.reg t b).toNat then 1 else 0

/-- MUL (R113). -/
def execMul (d a b : Nat) (s : State) : Host.Outcome State Fault Refusal :=
  s.alu d [(a, 1), (b, 1)] fun s t => s.reg t a * s.reg t b

/-- MULH (R113). -/
def execMulh (d a b : Nat) (s : State) : Host.Outcome State Fault Refusal :=
  s.alu d [(a, 1), (b, 1)] fun s t => highOf ((s.reg t a).toInt * (s.reg t b).toInt)

/-- MULHN (R113). -/
def execMulhn (d a b : Nat) (s : State) : Host.Outcome State Fault Refusal :=
  s.alu d [(a, 1), (b, 1)] fun s t => highOf ((s.reg t a).toNat * (s.reg t b).toNat : Nat)

/-- MAD (R113). -/
def execMad (d a b : Nat) (s : State) : Host.Outcome State Fault Refusal :=
  s.alu d [(a, 1), (b, 1), (d, 1)] fun s t => s.reg t a * s.reg t b + s.reg t d

/-- AND (R113). -/
def execAnd (d a b : Nat) (s : State) : Host.Outcome State Fault Refusal :=
  s.alu d [(a, 1), (b, 1)] fun s t => s.reg t a &&& s.reg t b

/-- OR (R113). -/
def execOr (d a b : Nat) (s : State) : Host.Outcome State Fault Refusal :=
  s.alu d [(a, 1), (b, 1)] fun s t => s.reg t a ||| s.reg t b

/-- XOR (R113). -/
def execXor (d a b : Nat) (s : State) : Host.Outcome State Fault Refusal :=
  s.alu d [(a, 1), (b, 1)] fun s t => s.reg t a ^^^ s.reg t b

/-- ANDN (R113). -/
def execAndn (d a b : Nat) (s : State) : Host.Outcome State Fault Refusal :=
  s.alu d [(a, 1), (b, 1)] fun s t => s.reg t a &&& ~~~ (s.reg t b)

/-- SHL (R113). -/
def execShl (d a b : Nat) (s : State) : Host.Outcome State Fault Refusal :=
  s.alu d [(a, 1), (b, 1)] fun s t => shlW (s.reg t a) (s.reg t b).toNat

/-- SHR (R113). -/
def execShr (d a b : Nat) (s : State) : Host.Outcome State Fault Refusal :=
  s.alu d [(a, 1), (b, 1)] fun s t => shrW (s.reg t a) (s.reg t b).toNat

/-- SRA (R113). -/
def execSra (d a b : Nat) (s : State) : Host.Outcome State Fault Refusal :=
  s.alu d [(a, 1), (b, 1)] fun s t => sraW (s.reg t a) (s.reg t b).toNat

/-- ROL (R113). -/
def execRol (d a b : Nat) (s : State) : Host.Outcome State Fault Refusal :=
  s.alu d [(a, 1), (b, 1)] fun s t => (s.reg t a).rotateLeft ((s.reg t b).toNat % 32)

/-- ROR (R113). -/
def execRor (d a b : Nat) (s : State) : Host.Outcome State Fault Refusal :=
  s.alu d [(a, 1), (b, 1)] fun s t => (s.reg t a).rotateRight ((s.reg t b).toNat % 32)

/-- MIN (R113). -/
def execMin (d a b : Nat) (s : State) : Host.Outcome State Fault Refusal :=
  s.alu d [(a, 1), (b, 1)] fun s t => if (s.reg t a).sle (s.reg t b) then s.reg t a else s.reg t b

/-- MAX (R113). -/
def execMax (d a b : Nat) (s : State) : Host.Outcome State Fault Refusal :=
  s.alu d [(a, 1), (b, 1)] fun s t => if (s.reg t a).sle (s.reg t b) then s.reg t b else s.reg t a

/-- MINN (R113). -/
def execMinn (d a b : Nat) (s : State) : Host.Outcome State Fault Refusal :=
  s.alu d [(a, 1), (b, 1)] fun s t => if (s.reg t a).ule (s.reg t b) then s.reg t a else s.reg t b

/-- MAXN (R113). -/
def execMaxn (d a b : Nat) (s : State) : Host.Outcome State Fault Refusal :=
  s.alu d [(a, 1), (b, 1)] fun s t => if (s.reg t a).ule (s.reg t b) then s.reg t b else s.reg t a

/-- BSEL (R113). -/
def execBsel (d a b : Nat) (s : State) : Host.Outcome State Fault Refusal :=
  s.alu d [(a, 1), (b, 1)] fun s t => bselW (s.reg t a) (s.reg t b)

/-- SEL (R113). -/
def execSel (d a b : Nat) (s : State) : Host.Outcome State Fault Refusal :=
  s.alu d [(a, 1), (b, 1)] fun s t => if s.reg t a != 0 then s.reg t a else s.reg t b

/-- ABSDIFF (R113). -/
def execAbsdiff (d a b : Nat) (s : State) : Host.Outcome State Fault Refusal :=
  s.alu d [(a, 1), (b, 1)] fun s t => wordOfInt ((s.reg t a).toInt - (s.reg t b).toInt).natAbs

/-- MULHSN (R113). -/
def execMulhsn (d a b : Nat) (s : State) : Host.Outcome State Fault Refusal :=
  s.alu d [(a, 1), (b, 1)] fun s t => highOf ((s.reg t a).toInt * ((s.reg t b).toNat : Int))

/-! ## Pairs (R114) -/

/-- ADDD (R114). -/
def execAddd (d a b : Nat) (s : State) : Host.Outcome State Fault Refusal :=
  s.alu64 d [(a, 2), (b, 2)] fun s t => s.pair t a + s.pair t b

/-- SUBD (R114). -/
def execSubd (d a b : Nat) (s : State) : Host.Outcome State Fault Refusal :=
  s.alu64 d [(a, 2), (b, 2)] fun s t => s.pair t a - s.pair t b

/-- MULD (R114). -/
def execMuld (d a b : Nat) (s : State) : Host.Outcome State Fault Refusal :=
  s.alu64 d [(a, 2), (b, 2)] fun s t => s.pair t a * s.pair t b

/-- SHLD (R114). -/
def execShld (d a b : Nat) (s : State) : Host.Outcome State Fault Refusal :=
  s.alu64 d [(a, 2), (b, 1)] fun s t => shlD (s.pair t a) (s.reg t b).toNat

/-- SHRD (R114). -/
def execShrd (d a b : Nat) (s : State) : Host.Outcome State Fault Refusal :=
  s.alu64 d [(a, 2), (b, 1)] fun s t => shrD (s.pair t a) (s.reg t b).toNat

/-- SRAD (R114). -/
def execSrad (d a b : Nat) (s : State) : Host.Outcome State Fault Refusal :=
  s.alu64 d [(a, 2), (b, 1)] fun s t => sraD (s.pair t a) (s.reg t b).toNat

/-! ## UNARY (R115) -/

/-- MOV (R115). -/
def execMov (d a : Nat) (s : State) : Host.Outcome State Fault Refusal :=
  s.alu d [(a, 1)] fun s t => s.reg t a

/-- NOT (R115). -/
def execNot (d a : Nat) (s : State) : Host.Outcome State Fault Refusal :=
  s.alu d [(a, 1)] fun s t => ~~~ (s.reg t a)

/-- NEG (R115). -/
def execNeg (d a : Nat) (s : State) : Host.Outcome State Fault Refusal :=
  s.alu d [(a, 1)] fun s t => 0 - s.reg t a

/-- ABS (R115). -/
def execAbs (d a : Nat) (s : State) : Host.Outcome State Fault Refusal :=
  s.alu d [(a, 1)] fun s t => wordOfInt (s.reg t a).toInt.natAbs

/-- CLZ (R115). -/
def execClz (d a : Nat) (s : State) : Host.Outcome State Fault Refusal :=
  s.alu d [(a, 1)] fun s t => BitVec.ofNat 32 (clzNat 32 (s.reg t a).toNat)

/-- CTZ (R115). -/
def execCtz (d a : Nat) (s : State) : Host.Outcome State Fault Refusal :=
  s.alu d [(a, 1)] fun s t => BitVec.ofNat 32 (ctzFrom (s.reg t a).toNat 32 0)

/-- POPC (R115). -/
def execPopc (d a : Nat) (s : State) : Host.Outcome State Fault Refusal :=
  s.alu d [(a, 1)] fun s t => BitVec.ofNat 32 (popNat (s.reg t a).toNat 32)

/-- BREV (R115). -/
def execBrev (d a : Nat) (s : State) : Host.Outcome State Fault Refusal :=
  s.alu d [(a, 1)] fun s t => (s.reg t a).reverse

/-- BSWAP (R115). -/
def execBswap (d a : Nat) (s : State) : Host.Outcome State Fault Refusal :=
  s.alu d [(a, 1)] fun s t => wordOfBytes (byteW (s.reg t a) 3) (byteW (s.reg t a) 2) (byteW (s.reg t a) 1) (byteW (s.reg t a) 0)

/-- SEXTB (R115). -/
def execSextb (d a : Nat) (s : State) : Host.Outcome State Fault Refusal :=
  s.alu d [(a, 1)] fun s t => fieldS (s.reg t a) 0 8

/-- SEXTH (R115). -/
def execSexth (d a : Nat) (s : State) : Host.Outcome State Fault Refusal :=
  s.alu d [(a, 1)] fun s t => fieldS (s.reg t a) 0 16

/-- ZEXTB (R115). -/
def execZextb (d a : Nat) (s : State) : Host.Outcome State Fault Refusal :=
  s.alu d [(a, 1)] fun s t => fieldN (s.reg t a) 0 8

/-- ZEXTH (R115). -/
def execZexth (d a : Nat) (s : State) : Host.Outcome State Fault Refusal :=
  s.alu d [(a, 1)] fun s t => fieldN (s.reg t a) 0 16

/-- MOVD (R115). -/
def execMovd (d a : Nat) (s : State) : Host.Outcome State Fault Refusal :=
  s.alu64 d [(a, 2)] fun s t => s.pair t a

/-- NEGD (R115). -/
def execNegd (d a : Nat) (s : State) : Host.Outcome State Fault Refusal :=
  s.alu64 d [(a, 2)] fun s t => 0 - s.pair t a

/-- CLZD (R115). -/
def execClzd (d a : Nat) (s : State) : Host.Outcome State Fault Refusal :=
  s.alu d [(a, 2)] fun s t => BitVec.ofNat 32 (clzNat 64 (s.pair t a).toNat)

/-- POPCD (R115). -/
def execPopcd (d a : Nat) (s : State) : Host.Outcome State Fault Refusal :=
  s.alu d [(a, 2)] fun s t => BitVec.ofNat 32 (popNat (s.pair t a).toNat 64)

/-! ## Immediates (R116) -/

/-- ADDI (R116). -/
def execAddi (d a i : Nat) (s : State) : Host.Outcome State Fault Refusal :=
  s.alu d [(a, 1)] fun s t => s.reg t a + imm12 i

/-- ANDI (R116). -/
def execAndi (d a i : Nat) (s : State) : Host.Outcome State Fault Refusal :=
  s.alu d [(a, 1)] fun s t => s.reg t a &&& BitVec.ofNat 32 i

/-- ORI (R116). -/
def execOri (d a i : Nat) (s : State) : Host.Outcome State Fault Refusal :=
  s.alu d [(a, 1)] fun s t => s.reg t a ||| BitVec.ofNat 32 i

/-- XORI (R116). -/
def execXori (d a i : Nat) (s : State) : Host.Outcome State Fault Refusal :=
  s.alu d [(a, 1)] fun s t => s.reg t a ^^^ BitVec.ofNat 32 i

/-- SHLI (R116). -/
def execShli (d a n : Nat) (s : State) : Host.Outcome State Fault Refusal :=
  s.alu d [(a, 1)] fun s t => shlW (s.reg t a) n

/-- SHRI (R116). -/
def execShri (d a n : Nat) (s : State) : Host.Outcome State Fault Refusal :=
  s.alu d [(a, 1)] fun s t => shrW (s.reg t a) n

/-- SRAI (R116). -/
def execSrai (d a n : Nat) (s : State) : Host.Outcome State Fault Refusal :=
  s.alu d [(a, 1)] fun s t => sraW (s.reg t a) n

/-- RORI (R116). -/
def execRori (d a n : Nat) (s : State) : Host.Outcome State Fault Refusal :=
  s.alu d [(a, 1)] fun s t => (s.reg t a).rotateRight n

/-- MULI (R116). -/
def execMuli (d a i : Nat) (s : State) : Host.Outcome State Fault Refusal :=
  s.alu d [(a, 1)] fun s t => s.reg t a * imm12 i

/-- LUI (R116). -/
def execLui (d h : Nat) (s : State) : Host.Outcome State Fault Refusal :=
  s.alu d [] fun _ _ => BitVec.ofNat 32 (h * 2 ^ 13)

/-- MOVI (R116). -/
def execMovi (d i : Nat) (s : State) : Host.Outcome State Fault Refusal :=
  s.alu d [] fun _ _ => wordOfInt (signExt 19 i)

/-! ## BITF (R117). The constructors hold the encoded length, len − 1. -/

/-- BFE.n32 (R117). -/
def execBfeN32 (d a p l : Nat) (s : State) : Host.Outcome State Fault Refusal :=
  s.alu d [(a, 1)] fun s t => fieldN (s.reg t a) p (l + 1)

/-- BFE.s32 (R117). -/
def execBfeS32 (d a p l : Nat) (s : State) : Host.Outcome State Fault Refusal :=
  s.alu d [(a, 1)] fun s t => fieldS (s.reg t a) p (l + 1)

/-- BFI (R117). -/
def execBfi (d a p l : Nat) (s : State) : Host.Outcome State Fault Refusal :=
  s.alu d [(a, 1), (d, 1)] fun s t => insertField (s.reg t d) (s.reg t a) p (l + 1)

end Sys2Proof.Machine
end

