-- ==== Sys2Proof/Machine/Kill.lean ====
section
/-! DEFINITION. The kill-and-drain of an engine, and the Slack state (R428, R429). -/

namespace Sys2Proof.Machine

/-- A write of the register's fields ALL and VD (R428). -/
def State.setKillFields (s : State) (e : EngId) (all : Bool) (vd : Nat) : State :=
  s.setEngCtl { s.engCtl e with all := all, vd := vd }

/-- ENGINE_KILL (R428): a write of the register with KILL = 1. An engine in RUN starts to drain for the target written; commands of the
target that are at a boundary are discarded at once. -/
def execEngineKill (e : EngId) (all : Bool) (vd : Nat) (s : State) : Host.Outcome State Fault Refusal :=
  let s := s.setKillFields e all vd
  .next (if (s.engCtl e).state != 0 then s
    else
      let x : EngCtl := { s.engCtl e with state := 1, every := all, target := vd, since := s.engNow e, reset := false }
      let s := (s.setEngCtl x).discardAll (s.cmds.filter fun c => c.eng == e && x.targets c && !c.midUnit)
      if e == .scrub then s.haltJobs else s)

/-- ENGINE_SLACK (R428): nothing of the target is left. -/
def execEngineSlack (e : EngId) (s : State) : Host.Outcome State Fault Refusal :=
  let x := s.engCtl e
  .next (if x.state == 1 && !x.reset && !s.holdsTarget e then s.setEngCtl { x with state := 2 } else s)

/-- ENGINE_GO (R428): a write of the register with GO = 1, which has an effect beyond its fields in SLACK only. -/
def execEngineGo (e : EngWrite) (s : State) : Host.Outcome State Fault Refusal :=
  let s := s.setKillFields e.eng e.all e.vd
  let x := s.engCtl e.eng
  .next (if x.state == 2 then s.setEngCtl { x with state := 0 } else s)

/-- ENGINE_FENCE_TIMEOUT (R429): a core's engine that has not drained is FENCED; its target counts as drained, and its quad
is retired. -/
def execEngineFenceTimeout (e : EngId) (s : State) : Host.Outcome State Fault Refusal :=
  let x := s.engCtl e
  .next (if x.state != 1 || s.engNow e < x.since + drainLimit then s
    else match engCore e with
      | none => s
      | some core =>
        let s := s.discardAll (s.cmds.filter fun c => c.eng == e && x.targets c)
        (s.setEngCtl { x with state := 3, reset := false }).retireQuad (core / 4))

end Sys2Proof.Machine
end

