-- ==== Sys2Proof/Machine/LoadStore.lean ====
section
/-! DEFINITION. Loads and stores (R216 to R223). -/

namespace Sys2Proof.Machine

/-- The point of a load's or store's policy (R188, R219): that of SCOPE for .acq and .rel. -/
def State.polPoint (s : State) (t : TRef) (p : Nat) : Point := if p == 4 then scopePoint (s.scopeOf t) else policyPoint p

/-- A load of `n` bytes into `w` registers (R221). -/
def State.load (d a o p l n w : Nat) (sext : Bool) (s : State) : Host.Outcome State Fault Refusal :=
  s.issue { regs := [(d, w), (a, 2)], reads := [(a, 2)], closes := p == 3 || p == 4 } fun s t =>
    let ea := eaOf (s.pair t a) o n
    match s.reach t ea n n .read with
    | .act x => x
    | .at_ s loc =>
      s.loadFrom t loc ea d l n sext (s.polPoint t p) (if p == 4 then some (s.scopeOf t) else none) (p == 5)

/-- A store of `n` bytes from `w` registers (R222): into the region store buffer, or at once for .vol and .rel. -/
def State.store (d a o p n w : Nat) (s : State) : Host.Outcome State Fault Refusal :=
  s.issue { regs := [(d, w), (a, 2)], reads := [(d, w), (a, 2)], closes := p == 3 || p == 4, held := true } fun s t =>
    let ea := eaOf (s.pair t a) o n
    let v := (if w == 4 then s.quadNat t d else if w == 2 then (s.pair t d).toNat else (s.reg t d).toNat) % 2 ^ (8 * n)
    match s.reach t ea n n .write with
    | .act x => x
    | .at_ s loc =>
      if p == 4 then s.releasing t (s.scopeOf t) fun s => s.storeNow t loc ea n v (s.polPoint t p)
      else if p == 3 then s.storeNow t loc ea n v .home
      else s.bufferStore t loc ea n v p

/-- LDB (R221). -/
def execLdb (d a o p l : Nat) (s : State) : Host.Outcome State Fault Refusal := s.load d a o p l 1 1 false

/-- LDBS (R221). -/
def execLdbs (d a o p l : Nat) (s : State) : Host.Outcome State Fault Refusal := s.load d a o p l 1 1 true

/-- LDH (R221). -/
def execLdh (d a o p l : Nat) (s : State) : Host.Outcome State Fault Refusal := s.load d a o p l 2 1 false

/-- LDHS (R221). -/
def execLdhs (d a o p l : Nat) (s : State) : Host.Outcome State Fault Refusal := s.load d a o p l 2 1 true

/-- LDW (R221). -/
def execLdw (d a o p l : Nat) (s : State) : Host.Outcome State Fault Refusal := s.load d a o p l 4 1 false

/-- LDD (R221). -/
def execLdd (d a o p l : Nat) (s : State) : Host.Outcome State Fault Refusal := s.load d a o p l 8 2 false

/-- LDQ (R221). -/
def execLdq (d a o p l : Nat) (s : State) : Host.Outcome State Fault Refusal := s.load d a o p l 16 4 false

/-- STB (R222). -/
def execStb (d a o p : Nat) (s : State) : Host.Outcome State Fault Refusal := s.store d a o p 1 1

/-- STH (R222). -/
def execSth (d a o p : Nat) (s : State) : Host.Outcome State Fault Refusal := s.store d a o p 2 1

/-- STW (R222). -/
def execStw (d a o p : Nat) (s : State) : Host.Outcome State Fault Refusal := s.store d a o p 4 1

/-- STD (R222). -/
def execStd (d a o p : Nat) (s : State) : Host.Outcome State Fault Refusal := s.store d a o p 8 2

/-- STQ (R222). -/
def execStq (d a o p : Nat) (s : State) : Host.Outcome State Fault Refusal := s.store d a o p 16 4

end Sys2Proof.Machine
end

