-- ==== Sys2Proof/Machine/Modular.lean ====
section
/-! DEFINITION. Modular arithmetic (R145 to R147). -/

namespace Sys2Proof.Machine

/-- 2⁻⁶⁴ modulo an odd q, from MODQI = −q⁻¹ mod 2⁶⁴: (1 + (MODQI mod 2⁶⁴) × q) / 2⁶⁴. -/
def invTwo64 (q : Nat) : Nat := (1 + (negInv (dw q)).toNat * q) / 2 ^ 64 % q

/-- The Montgomery product of two values modulo q (R146). -/
def montMul (q a b : Nat) : Nat := a * b % q * invTwo64 q % q

/-- A MOD instruction that reads MODQ: an illegal modulus traps each active thread (R145). -/
def State.modOp (d w : Nat) (reads : List (Nat × Nat)) (r : State → TRef → Nat → Nat) (s : State) :
    Host.Outcome State Fault Refusal :=
  s.issue { regs := (d, w) :: reads, reads := reads } fun s t =>
    let q := (s.buOf t).modq
    if !legalModulus q then .trap s causeIllegal q
    else .next (s.setWords t d (natWords w (r s t q.toNat)))

/-- A pair as an unsigned value. -/
def State.pn (s : State) (t : TRef) (n : Nat) : Nat := (s.pair t n).toNat

/-- The difference of two values modulo q. -/
def subMod (q a b : Nat) : Nat := (a % q + q - b % q) % q

/-- MADDM (R146). -/
def execMaddm (d a b : Nat) (s : State) : Host.Outcome State Fault Refusal :=
  s.modOp d 2 [(a, 2), (b, 2)] fun s t q => (s.pn t a + s.pn t b) % q

/-- MSUBM (R146). -/
def execMsubm (d a b : Nat) (s : State) : Host.Outcome State Fault Refusal :=
  s.modOp d 2 [(a, 2), (b, 2)] fun s t q => subMod q (s.pn t a) (s.pn t b)

/-- MMULM (R146). -/
def execMmulm (d a b : Nat) (s : State) : Host.Outcome State Fault Refusal :=
  s.modOp d 2 [(a, 2), (b, 2)] fun s t q => montMul q (s.pn t a) (s.pn t b)

/-- MTOM (R146). -/
def execMtom (d a : Nat) (s : State) : Host.Outcome State Fault Refusal :=
  s.modOp d 2 [(a, 2)] fun s t q => s.pn t a * 2 ^ 64 % q

/-- MFROMM (R146). -/
def execMfromm (d a : Nat) (s : State) : Host.Outcome State Fault Refusal :=
  s.modOp d 2 [(a, 2)] fun s t q => montMul q (s.pn t a) 1

/-- MULW (R146): the exact product; MODQ is not read. -/
def execMulw (d a b : Nat) (s : State) : Host.Outcome State Fault Refusal :=
  s.issue { regs := [(d, 4), (a, 2), (b, 2)], reads := [(a, 2), (b, 2)] } fun s t =>
    .next (s.setWords t d (natWords 4 (s.pn t a * s.pn t b)))

/-- BFLYC (R147). -/
def execBflyc (d a : Nat) (s : State) : Host.Outcome State Fault Refusal :=
  s.modOp d 4 [(d, 4), (a, 2)] fun s r q =>
    let x := s.pn r d
    let t := montMul q (s.pn r (d + 2)) (s.pn r a)
    (x + t) % q + 2 ^ 64 * subMod q x t

/-- BFLYG (R147). -/
def execBflyg (d a : Nat) (s : State) : Host.Outcome State Fault Refusal :=
  s.modOp d 4 [(d, 4), (a, 2)] fun s r q =>
    let x := s.pn r d
    let y := s.pn r (d + 2)
    (x + y) % q + 2 ^ 64 * montMul q (subMod q x y) (s.pn r a)

/-- MREDB (R146). -/
def execMredb (d a : Nat) (s : State) : Host.Outcome State Fault Refusal :=
  s.modOp d 2 [(a, 4)] fun s t q => s.quadNat t a % q

/-- MNEG (R146). -/
def execMneg (d a : Nat) (s : State) : Host.Outcome State Fault Refusal :=
  s.modOp d 2 [(a, 2)] fun s t q => subMod q 0 (s.pn t a)

end Sys2Proof.Machine
end

