-- ==== Sys2Proof/Machine/Slices.lean ====
section
/-! DEFINITION. Steps of the caches and home slices by themselves: eviction (R189, R206) and the Groyne meters (R334,
R335). -/

namespace Sys2Proof.Machine

/-- L1_EVICTION (R189): a line leaves a cache, its dirty bytes written back. -/
def execL1Eviction (c : CacheId) (vd line : Nat) (s : State) : Host.Outcome State Fault Refusal :=
  .next (match c with
    | .l1 core => (s.l1WriteBack core vd line).l1Drop core vd line
    | .far die => (s.farWriteBack die vd line).dropFar die vd line)

/-- One slice at the first cycle of a window (R334). -/
def State.refill (s : State) (x : Slice) : Slice :=
  { x with
    tok := x.tok.map fun t => (t.1, min (t.2 + (s.vd t.1).rate) (s.vd t.1).burst)
    idle := !x.served, served := false }

/-- GROYNE_WINDOW_REFILL (R334): the slices of a die. -/
def execGroyneWindowRefill (die : Nat) (s : State) : Host.Outcome State Fault Refusal :=
  .next { s with slices := s.slices.map fun x => if x.die == die then s.refill x else x }

/-- The first of some VDs after the one last served, by ascending id, wrapping. -/
def nextAfter (last : Nat) (l : List Nat) : Option Nat :=
  let sorted := l.eraseDups.inOrder fun a b => a ≤ b
  match sorted.find? (last < ·) with
  | some v => some v
  | none => sorted.head?

/-- The VD that a slice serves in a cycle in which requests wait: one with tokens, or a borrower while the port was idle
(R334). -/
def State.toServe (s : State) (x : Slice) : Option Nat :=
  let tok (v : Nat) : Int := x.tokens (s.vd v)
  match nextAfter x.last (x.waiting.filter fun v => (s.vd v).rate == 0 || tok v ≥ 1) with
  | some v => some v
  | none => if x.idle then nextAfter x.last (x.waiting.filter fun v => tok v > -((s.vd v).burst : Int)) else none

/-- A VD's oldest waiting request served: it takes a token. -/
def State.serveSlice (s : State) (x : Slice) : Slice :=
  match s.toServe x with
  | none => x
  | some v =>
    { x with
      waiting := x.waiting.erase v, last := v, served := true
      tok := if (s.vd v).rate == 0 then x.tok else assocSet v (x.tokens (s.vd v) - 1) x.tok }

/-- GROYNE_SERVE (R334): one request of one slice. -/
def execGroyneServe (die slice : Nat) (s : State) : Host.Outcome State Fault Refusal :=
  .next { s with slices := s.slices.map fun x => if x.die == die && x.slice == slice then s.serveSlice x else x }

end Sys2Proof.Machine
end

