-- ==== Sys2Proof/Machine/Special.lean ====
section
/-! DEFINITION. Special-register moves (R40, R124, R125). -/

namespace Sys2Proof.Machine

/-- A number 0x100 to 0x1FF: every thread of the group raises PRIV at step 3 of R78 (R40). -/
def State.privTrap (s : State) (n : Nat) : Host.Outcome State Fault Refusal :=
  .next (s.undertow { closes := true } fun s => s.group.refs.foldl (fun s t => s.trap t causePriv (dw n)) s)

/-- MFS (R124). -/
def execMfs (d n : Nat) (s : State) : Host.Outcome State Fault Refusal :=
  if specPriv n then s.privTrap n
  else if specWidth n == 2 then s.alu64 d [] fun s t => s.special t n
  else s.alu d [] fun s t => loWord (s.special t n)

/-- A write of a per-thread special register (R39, R40). -/
def Thread.setSpecial (x : Thread) (n : Nat) (v : DWord) : Thread :=
  match n with
  | 0x011 => { x with sp := v &&& ~~~ 7 }
  | 0x014 => { x with scope := v.setWidth 3 }
  | 0x018 => { x with fpcsr := v.setWidth 9 }
  | 0x019 => { x with rngs := if loWord v == 0 then 1 else loWord v }
  | 0x01C => { x with feBudget := v.setWidth 16 }
  | 0x030 => { x with trapVec := v &&& ~~~ 63 }
  | 0x031 => { x with trapCause := v.setWidth 8 }
  | 0x032 => { x with trapPc := v }
  | 0x033 => { x with trapVal := v }
  | _ => x

/-- The value that an MTS writes: the register or the pair, zero-extended. -/
def State.mtsValue (s : State) (t : TRef) (a n : Nat) : DWord :=
  if specWidth n == 2 then s.pair t a else (s.reg t a).setWidth 64

/-- Whether an MTS's value is refused: SCOPE or RM of 6 or 7 (R40). -/
def mtsBad (n : Nat) (v : DWord) : Bool := (n == 0x014 || n == 0x018) && v.toNat % 8 ≥ 6

/-- Whether a thread supplies FPCSR's bundle-wide bits: the bundle's lowest active thread of the group that does not trap
(R125). -/
def State.suppliesSpm (s : State) (t : TRef) (a : Nat) : Bool :=
  s.group.refs.all fun u =>
    !(u.blk == t.blk && u.bun == t.bun && (s.th u).active && u.lane < t.lane && !mtsBad 0x018 (s.mtsValue u a 0x018))

/-- MTS (R125, R126). MODQ is written from the bundle's lowest active lane, whose operand alone is read (R30). -/
def execMts (a n : Nat) (s : State) : Host.Outcome State Fault Refusal :=
  if specPriv n then s.privTrap n
  else
    let rs := [(a, specWidth n)]
    s.issue { regs := rs, reads := if n == 0x01A then [] else rs, closes := true } fun s' t =>
      let v := s'.mtsValue t a n
      if mtsBad n v then .trap s' causeIllegal v
      else if n == 0x01A then
        if !s.leads t then .next s'
        else if (s'.buOf t).badRegs t.lane rs then .poison s' 0
        else .next (s'.modBu t.blk t.bun fun b => { b with modq := v, modqi := negInv v })
      else
        let s' := s'.modTh t (·.setSpecial n v)
        .next (if n == 0x018 && s.suppliesSpm t a then
          s'.modBu t.blk t.bun fun b => { b with spm := v.getLsbD 9, spmt := v.getLsbD 10 } else s')

end Sys2Proof.Machine
end

