-- ==== Sys2Proof/Machine/Sweep.lean ====
section
/-! DEFINITION. Stored errors: the codes (R421, R422), the Backwash sweepers (R423, R424), the array ECC table (R425), and
Harbour's fault policy (R433). -/

namespace Sys2Proof.Machine

/-! ## The array ECC table (R425) -/

/-- The entry of an L2 slice, and of a core's SRAM array. -/
def eccSlice (die slice : Nat) : Nat := 64 * die + slice
def eccSram (core : Nat) : Nat := 128 + core

/-- The die of an entry. -/
def eccDie (entry : Nat) : Nat := if entry < 128 then entry / 64 else dieOfCore (entry - 128)

/-- The 8-byte words of an entry's array (R10, R16). -/
def eccWords (entry : Nat) : Nat := if entry < 128 then 196608 else 131072

def State.modEcc (s : State) (entry : Nat) (f : EccEntry → EccEntry) : State := { s with ecc := s.ecc.modify entry f }

/-- A write of TARGET: ignored while BUSY; one that differs from CUR starts the re-encoding. -/
def State.setTarget (s : State) (entry : Nat) (target : Bool) : State :=
  s.modEcc entry fun x =>
    if x.busy then x
    else if target == x.cur then { x with target := target }
    else { x with target := target, busy := true, tidemark := 0 }

/-- One word re-encoded. -/
def State.reencode (s : State) (entry : Nat) : State :=
  s.modEcc entry fun x =>
    if !x.busy then x
    else if x.tidemark + 1 ≥ eccWords entry then { x with cur := x.target, busy := false, tidemark := 0 }
    else { x with tidemark := x.tidemark + 1 }

/-- ARRAY_ECC_TARGET_WRITE (R425). -/
def execArrayEccTargetWrite (entry : Nat) (target : Bool) (s : State) : Host.Outcome State Fault Refusal :=
  .next (s.setTarget entry target)

/-! ## Fault policy (R433) -/

/-- Whether a word of an array is under DEC-TED: below TIDEMARK it uses TARGET, otherwise CUR (R425). -/
def State.wordDec (s : State) (entry w : Nat) : Bool :=
  let x := s.ecc.getD entry {}
  if x.busy && w < x.tidemark then x.target else x.cur

/-- A corrected error in a word of an array with an ECC entry; those found under DEC-TED are counted apart. -/
def State.arrayCorrected (s : State) (entry w : Nat) : State :=
  let dec := s.wordDec entry w
  let key := if dec then entry + 256 else entry
  let l := s.mons.correctedIn ++ [(key, s.clk.svc)]
  let s : State := { s with mons := { s.mons with correctedIn := l } }
  let recent := l.countP fun x => x.1 == key && s.clk.svc < x.2 + 2 ^ 32
  if !dec then (if recent > 256 then s.setTarget entry true else s)
  else if entry ≥ 128 && (l.countP fun x => x.1 == key) > 4096 then s.retireQuad ((entry - 128) / 4)
  else s

/-- An uncorrectable error in a core's arrays: the second retires the quad. -/
def State.coreUncorrectable (s : State) (core : Nat) : State :=
  let l := s.mons.uncorrectedIn ++ [(core, s.clk.svc)]
  let s : State := { s with mons := { s.mons with uncorrectedIn := l } }
  if (l.countP fun x => x.1 == core) ≥ 2 then s.retireQuad (core / 4) else s

/-! ## The codes (R421, R422) -/

/-- What a code makes of a word: sound, corrected, an error that it detects and does not correct, or more than it promises
anything of. -/
inductive Found where
  | clean
  | corrected
  | detected
  | beyond
  deriving DecidableEq, Repr

/-- What a code that corrects `strength` symbols or bits, and detects one more, makes of `bad` of them. -/
def codeFinds (strength bad : Nat) : Found :=
  if bad == 0 then .clean
  else if bad ≤ strength then .corrected
  else if bad == strength + 1 then .detected
  else .beyond

/-- The symbols that the sector code corrects (R421), and the bits that SECDED and DEC-TED correct (R422). -/
def sectorStrength : Nat := 3
def secded : Nat := 1
def dected : Nat := 2

/-- The bits that the code of an array's word corrects. -/
def State.wordStrength (s : State) (entry w : Nat) : Nat := if s.wordDec entry w then dected else secded

/-- What follows what a code finds. Beyond its strength the outcome is free: the error is detected, or the word holds a free value,
and passes for a sound one or a corrected one (log entry 29). -/
def State.found (s : State) (f : Found) (corrected detected : State → State) (put : Nat → State → State) : State :=
  match f with
  | .clean => s
  | .corrected => corrected s
  | .detected => detected s
  | .beyond =>
    let (m, s) := s.fresh
    if Config.caught m then detected s
    else
      let s := put (Config.upset m).toNat s
      if Config.taken m then corrected s else s

/-! ## What is found in a word (R339, R423) -/

/-- The VD that an error in a memory sector is counted for; 0 for none. -/
def State.sectorVd (s : State) (ma : Nat) : Nat :=
  let o := s.owner.getD (ma / 2 ^ 31) {}
  if o.kind == 3 && !o.scrub then o.vd else 0

/-- An error counted, with Harbour's work of the fault policy charged to the VD's ring (R330, R433). -/
def State.policy (s : State) (vd k : Nat) : State := (s.countError vd k).chargeRing vd

/-- `k` words' data and full/empty bits as an unnoticed error leaves them. -/
def State.upsetWords (s : State) (ma k v : Nat) : State :=
  { s with
    mem := writeCells s.mem ma (8 * k) (v % 2 ^ 512)
    empties := (List.range k).foldl (fun l i =>
      if v.testBit (512 + i) then setDel (ma + 8 * i) l else setIns (ma + 8 * i) l) s.empties }

/-- A memory sector of which `bad` symbols are in error. -/
def State.sweepSector (s : State) (ma bad : Nat) : State :=
  let at_ := ma / 64 * 64
  s.found (codeFinds sectorStrength bad) (fun s => s.policy (s.sectorVd at_) 0)
    (fun s =>
      if s.poison.contains at_ then s
      else
        let s := s.policy (s.sectorVd at_) 1
        { s with poison := setIns at_ s.poison, boot := { s.boot with badRows := setIns at_ s.boot.badRows } })
    fun v s => s.upsetWords at_ 8 v

/-- What an error in an array word does: counted for the VD that the word belongs to, with the policy for its entry of the array ECC
table and its core; `poison` poisons a word not yet poisoned (`was`), and `put` is what an unnoticed error leaves. -/
def State.sweepArray (s : State) (vd : Nat) (f : Found) (entry : Option (Nat × Nat)) (core : Option Nat) (was : Bool)
    (poison : State → State) (put : Nat → State → State) : State :=
  s.found f
    (fun s =>
      let s := s.policy vd 2
      match entry with
      | some e => s.arrayCorrected e.1 e.2
      | none => s)
    (fun s =>
      if was then s
      else
        let s := poison (s.policy vd 3)
        match core with
        | some c => s.coreUncorrectable c
        | none => s) put

/-- A word of an array with an entry of the array ECC table, `bad` of whose bits are in error. -/
def State.sweepWord (s : State) (vd entry w bad : Nat) (core : Option Nat) (was : Bool) (poison : State → State)
    (put : Nat → State → State) : State :=
  s.sweepArray vd (codeFinds (s.wordStrength entry w) bad) (some (entry, w)) core was poison put

/-- A word that holds nothing: it is counted for no VD, and what fills it writes it whole. -/
def State.sweepFree (s : State) (entry w bad : Nat) (core : Option Nat) : State :=
  s.sweepWord 0 entry w bad core false (fun s => s) fun _ s => s

/-- The bit of a word in a mask of 16. -/
def wordBit (w : Nat) : BitVec 16 := BitVec.ofNat 16 (2 ^ (w % 16))

/-- A cached line with one word poisoned, or as an unnoticed error leaves it. -/
def CLine.spoil (l : CLine) (w : Nat) : CLine := { l with poison := l.poison ||| wordBit w }
def CLine.upset (l : CLine) (w v : Nat) : CLine := { l with data := linePut l.data (8 * (w % 16)) 8 v }

/-- An L2 word: word `w % 16` of the slice's far line number `w / 16`, if it holds that many. -/
def State.sweepL2 (s : State) (die slice w bad : Nat) : State :=
  let lines := s.far.filter fun x => x.1 == die && (x.2.ma.map sliceOf) == some slice
  match lines[w / 16]? with
  | some (_, l) =>
    s.sweepWord l.vd (eccSlice die slice) w bad none (l.poison &&& wordBit w != 0) (fun s => s.setFar die (l.spoil w))
      fun v s => s.setFar die (l.upset w v)
  | none => s.sweepFree (eccSlice die slice) w bad none

/-- The word of an L2 slice that holds the word at a machine address of its die (R339): it belongs to the VD whose block it
caches. -/
def State.sweepHome (s : State) (ma w bad : Nat) : State :=
  let at_ := ma / 8 * 8
  s.sweepWord (s.sectorVd at_) (eccSlice (dieOfMa ma) (sliceOf ma)) w bad none (s.devPoisoned at_ 8)
    (fun s => { s with l2bad := setIns at_ s.l2bad }) fun v s => s.upsetWords at_ 1 v

/-- A word of a core's SRAM: of a placed block's scratchpad or region buffer, or of an L1 line behind the split. A region buffer's
word is counted; what its stores hold is not touched (log entry 29). -/
def State.sweepSram (s : State) (core w bad : Nat) : State :=
  let a := 8 * w
  let split := 65536 * (s.co core).split
  match s.blocks.find? fun b => b.core == core && b.scrHere && b.base ≤ a && a < b.base + b.bytes with
  | some b =>
    let off := a - b.base
    let inside (f : Block → Block) (s : State) : State := if off < b.sb then s.modBk b.id f else s
    s.sweepWord b.vd (eccSram core) w bad (some core) (b.poison.contains off)
      (inside fun b => { b with poison := setIns off b.poison }) fun v => inside fun b =>
        { b with
          mem := writeCells b.mem off 8 v
          empties := if v.testBit 512 then setDel off b.empties else setIns off b.empties }
  | none =>
    match (if split ≤ a then (s.co core).l1[(a - split) / 128]? else none) with
    | some l =>
      s.sweepWord l.vd (eccSram core) w bad (some core) (l.poison &&& wordBit w != 0) (fun s => s.setL1 core (l.spoil w))
        fun v s => s.setL1 core (l.upset w v)
    | none => s.sweepFree (eccSram core) w bad (some core)

/-- A lane word of a register row, under SECDED; a free row is no VD's (R339). -/
def State.sweepReg (s : State) (t : TRef) (reg bad : Nat) : State :=
  let f := codeFinds secded bad
  if !(s.bundles.any fun b => b.blk == t.blk && b.idx == t.bun) then s.sweepArray 0 f none none false (fun s => s) fun _ s => s
  else
    s.sweepArray (s.vdOf t) f none (some (s.coreOf t)) ((s.buOf t).poison.contains (t.lane, reg))
      (fun s => s.modBu t.blk t.bun fun b => { b with poison := b.poison ++ [(t.lane, reg)] })
      fun v s => s.setReg t reg (BitVec.ofNat 32 v)

/-- An aligned 64-bit word of a weight buffer, under SECDED. -/
def State.sweepWeight (s : State) (core sub w bad : Nat) : State :=
  let here (x : WBuf) : Bool := x.core == core && x.sub == sub
  let f := codeFinds secded bad
  let mod (s : State) (g : WBuf → WBuf) : State := { s with wbufs := s.wbufs.map fun y => if here y then g y else y }
  match s.wbufs.find? here with
  | some x =>
    s.sweepArray x.vd f none (some core) (x.poison.contains (8 * w))
      (fun s => mod s fun y => { y with poison := setIns (8 * w) y.poison })
      fun v s => mod s fun y => { y with bytes := writeCells y.bytes (8 * w) 8 v }
  | none => s.sweepArray 0 f none (some core) false (fun s => s) fun _ s => s

/-! ## The sweepers (R424) -/

/-- The next word of an array's sweeper: while BUSY the word at TIDEMARK; otherwise one word in each cycle of its die, in ascending
order (log entry 29). -/
def State.sweepPos (s : State) (entry : Nat) : Nat :=
  let x := s.ecc.getD entry {}
  if x.busy then x.tidemark else s.cycles (eccDie entry) % eccWords entry

/-- Whether a word is the next of its sweeper. A memory controller's order through its stacks is not given; registers, weight buffers
and the Headland's tables have no sweeper. -/
def State.sweeps (s : State) (a : SweepTarget) : Bool :=
  match a with
  | .sector _ => true
  | .l2 die slice w => w == s.sweepPos (eccSlice die slice)
  | .home ma w => w == s.sweepPos (eccSlice (dieOfMa ma) (sliceOf ma))
  | .sram core w => w == s.sweepPos (eccSram core)
  | .register _ _ => false
  | .weight _ _ _ => false
  | .headland => false

/-- BACKWASH_SWEEP (R421 to R424): one word read by its sweeper, or by an access, with the symbols or bits in error that it has. A
word with none is left as it is. -/
def execBackwashSweep (a : SweepTarget) (o : SweepFind) (s : State) : Host.Outcome State Fault Refusal :=
  .next (if o.swept && !s.sweeps a then s
    else match a with
    | .sector ma => s.sweepSector ma o.bad
    | .l2 die slice w => s.sweepL2 die slice w o.bad
    | .sram core w => s.sweepSram core w o.bad
    | .register t reg => s.sweepReg t reg o.bad
    | .weight core sub w => s.sweepWeight core sub w o.bad
    | .headland => s.sweepArray 0 (codeFinds secded o.bad) none none false (fun s => s) fun _ s => s
    | .home ma w => s.sweepHome ma w o.bad)

end Sys2Proof.Machine
end

