-- ==== Sys2Proof/Machine/System.lean ====
section
/-! DEFINITION. The SYSTEM instructions (R403 to R406) and words that are no instruction (R77). -/

namespace Sys2Proof.Machine

/-- The 14-bit code of TRAP, SVC and BRK (R76). -/
def codeOf (h l : Nat) : Nat := h * 128 + l

/-- TRAP (R404). -/
def execTrap (h l : Nat) (s : State) : Host.Outcome State Fault Refusal :=
  s.issue { closes := true } fun s _ => .trap s causeTrap (dw (codeOf h l))

/-- BRK (R404). -/
def execBrk (h l : Nat) (s : State) : Host.Outcome State Fault Refusal :=
  s.issue { closes := true } fun s _ => .trap s causeBrk (dw (codeOf h l))

/-- TRET (R403). -/
def execTret (s : State) : Host.Outcome State Fault Refusal :=
  s.issue { closes := true, late := true } fun s t =>
    let x := s.th t
    if x.trapSave.isNone then .trap s causeIllegal (dw s.group.word)
    else if x.trapPc.toNat % 4 != 0 then .trap s causeAlignFetch x.trapPc
    else .gone (s.returnTrap t)

/-- The SVC entry of a bundle (R405, R418): the code, and the mask of its active lanes. -/
def svcNotice (code : Nat) (lanes : List Nat) : Notice :=
  { kind := 10, aux := code + 2 ^ 32 * (lanes.foldl (fun m l => m + 2 ^ l) 0) }

/-- The threads of one bundle in an SVC (R405): its entry is written and they step on. The flag says whether they could, their release
complete and the fault queue disabled or not full. -/
def State.svcEntry (s : State) (code : Nat) (act : List TRef) : State × Bool :=
  match act with
  | [] => (s, true)
  | lead :: _ =>
    let vd := s.vdOf lead
    match s.releaseAll (fun _ _ => 5) act with
    | (s, done) =>
      if !done || (ringEn (s.ctl vd).fqctl && (s.ctl vd).fqFull) then (s, false)
      else
        (act.foldl (fun s t => s.finish t true) (s.post vd (s.noticeOf lead (svcNotice code (act.map (·.lane))))), true)

/-- A bundle's threads in an SVC, which park while its entry cannot be written. -/
def State.svcBundle (s : State) (code : Nat) (act : List TRef) : State :=
  match s.svcEntry code act with
  | (s, true) => s
  | (s, false) => act.foldl (fun s' t => s'.modTh t fun x => { x with park := .svc code s.seq }) { s with seq := s.seq + 1 }

/-- The threads of a list by bundle. -/
def sortBundles (l : List TRef) : List (List TRef) :=
  ((l.map fun t => (t.blk, t.bun)).eraseDups).map fun k => l.filter fun t => (t.blk, t.bun) == k

/-- SVC (R405): once for each bundle with an active thread. -/
def execSvc (h l : Nat) (s : State) : Host.Outcome State Fault Refusal :=
  s.issueGroup { closes := true } fun s _ act =>
    .gone ((sortBundles act).foldl (fun s b => s.svcBundle (codeOf h l) b) s)

/-- The threads of a bundle that wait in one SVC try again (R405). -/
def State.svcRetry (s : State) (t : TRef) : State :=
  match (s.th t).park with
  | .svc code n =>
    (s.svcEntry code (((s.threadsOf t.blk t.bun).filter fun x => x.park == .svc code n).map (·.ref))).1
  | _ => s

/-- NOP (R406). -/
def execNop (s : State) : Host.Outcome State Fault Refusal := s.issue {} fun s _ => .next s

/-- RDCYC (R406). -/
def execRdcyc (d : Nat) (s : State) : Host.Outcome State Fault Refusal := s.alu64 d [] fun s t => s.special t 0x020

/-- RNGSEED (R406). -/
def execRngseed (a : Nat) (s : State) : Host.Outcome State Fault Refusal :=
  s.issue { regs := [(a, 1)], reads := [(a, 1)] } fun s t =>
    let v := s.reg t a ^^^ (BitVec.ofNat 32 (threadNo t) * 0x9E3779B9#32)
    .next (s.modTh t fun x => { x with rngs := if v == 0 then 1 else v })

/-- A word that is no instruction (R77): every thread of the group raises ILLEGAL. -/
def execIllegalWord (w : Nat) (s : State) : Host.Outcome State Fault Refusal :=
  .next (s.undertow { closes := true } fun s => s.group.refs.foldl (fun s t => s.trap t causeIllegal (dw w)) s)

end Sys2Proof.Machine
end

