-- ==== Sys2Proof/Machine/Xl.lean ====
section
/-! DEFINITION. The XL major: exchanges, reductions and scans across the lanes of a bundle (R127 to R129). -/

namespace Sys2Proof.Machine

/-- An XL instruction: `rb` are the further registers that it names, `reads` the lanes and registers that a participant reads,
in the state when the group executes, and `v` its result. -/
def State.xlOp (d a : Nat) (rb : List (Nat × Nat)) (reads : TRef → List (Nat × Nat)) (v : TRef → Word) (s : State) :
    Host.Outcome State Fault Refusal :=
  s.issueConv { regs := (d, 1) :: (a, 1) :: rb } fun s' t =>
    if (reads t).any fun j => (s.buOf t).badRegs j.1 [(j.2, 1)] then .poison s' 0
    else .next (s'.setReg t d (v t))

/-- va of lane `j` of a thread's bundle. -/
def State.laneReg (s : State) (t : TRef) (j a : Nat) : Word := s.reg { t with lane := j } a

/-- An exchange: a participant reads the lane that `src` names for it. -/
def State.xlGet (d a b : Nat) (src : TRef → Nat) (s : State) : Host.Outcome State Fault Refusal :=
  s.xlOp d a [(b, 1)] (fun t => [(t.lane, b), (src t, a)]) fun t => s.laneReg t (src t) a

/-- XLGET.IDX (R129). -/
def execXlgetIdx (d a b : Nat) (s : State) : Host.Outcome State Fault Refusal :=
  s.xlGet d a b fun t => (s.reg t b).toNat % 32

/-- XLGET.UP (R129). -/
def execXlgetUp (d a b : Nat) (s : State) : Host.Outcome State Fault Refusal :=
  s.xlGet d a b fun t => if (s.reg t b).toNat ≤ t.lane then t.lane - (s.reg t b).toNat else t.lane

/-- XLGET.DN (R129). -/
def execXlgetDn (d a b : Nat) (s : State) : Host.Outcome State Fault Refusal :=
  s.xlGet d a b fun t => if t.lane + (s.reg t b).toNat ≤ 31 then t.lane + (s.reg t b).toNat else t.lane

/-- XLGET.XOR (R129). -/
def execXlgetXor (d a b : Nat) (s : State) : Host.Outcome State Fault Refusal :=
  s.xlGet d a b fun t => t.lane ^^^ ((s.reg t b).toNat % 32)

/-- RDLANE (R129): the lane that vb of the lowest active participant names; no other participant's vb is read. -/
def execRdlane (d a b : Nat) (s : State) : Host.Outcome State Fault Refusal :=
  match s.actives with
  | [] => s.xlOp d a [(b, 1)] (fun _ => []) fun _ => 0
  | m :: _ =>
    let src := (s.reg m b).toNat % 32
    s.xlOp d a [(b, 1)] (fun _ => [(m.lane, b), (src, a)]) fun t => s.laneReg t src a

/-- A reduction over the active participants that `keep` admits for a thread. -/
def State.xlRed (d a : Nat) (keep : TRef → TRef → Bool) (f : List Word → Word) (s : State) :
    Host.Outcome State Fault Refusal :=
  s.xlOp d a [] (fun _ => s.actives.map fun u => (u.lane, a)) fun t =>
    f ((s.actives.filter (keep t)).map fun u => s.reg u a)

/-- The least or greatest s32 value of a list. -/
def pickInt (better : Word → Word → Bool) : List Word → Word
  | [] => 0
  | x :: r => r.foldl (fun m y => if better y m then y else m) x

/-- REDADD (R129). -/
def execRedadd (d a : Nat) (s : State) : Host.Outcome State Fault Refusal := s.xlRed d a (fun _ _ => true) List.sum

/-- REDMIN (R129). -/
def execRedmin (d a : Nat) (s : State) : Host.Outcome State Fault Refusal :=
  s.xlRed d a (fun _ _ => true) (pickInt fun y m => y.slt m)

/-- REDMAX (R129). -/
def execRedmax (d a : Nat) (s : State) : Host.Outcome State Fault Refusal :=
  s.xlRed d a (fun _ _ => true) (pickInt fun y m => m.slt y)

/-- SCANADD (R129). -/
def execScanadd (d a : Nat) (s : State) : Host.Outcome State Fault Refusal :=
  s.xlRed d a (fun t u => u.lane ≤ t.lane) List.sum

end Sys2Proof.Machine
end

