-- ==== Sys2Proof/Machine/Dispatch.lean ====
section
/-! DEFINITION. The dispatch: one arm for each constructor of `Instr`, a direct call of its meaning. -/

namespace Sys2Proof.Machine

def exec (i : Instr) (s : State) : Host.Outcome State Fault Refusal :=
  match i with
  | .add d a b => Sys2Proof.Machine.execAdd d a b s
  | .sub d a b => Sys2Proof.Machine.execSub d a b s
  | .carry d a b => Sys2Proof.Machine.execCarry d a b s
  | .borrow d a b => Sys2Proof.Machine.execBorrow d a b s
  | .mul d a b => Sys2Proof.Machine.execMul d a b s
  | .mulh d a b => Sys2Proof.Machine.execMulh d a b s
  | .mulhn d a b => Sys2Proof.Machine.execMulhn d a b s
  | .mad d a b => Sys2Proof.Machine.execMad d a b s
  | .and d a b => Sys2Proof.Machine.execAnd d a b s
  | .or d a b => Sys2Proof.Machine.execOr d a b s
  | .xor d a b => Sys2Proof.Machine.execXor d a b s
  | .andn d a b => Sys2Proof.Machine.execAndn d a b s
  | .shl d a b => Sys2Proof.Machine.execShl d a b s
  | .shr d a b => Sys2Proof.Machine.execShr d a b s
  | .sra d a b => Sys2Proof.Machine.execSra d a b s
  | .rol d a b => Sys2Proof.Machine.execRol d a b s
  | .ror d a b => Sys2Proof.Machine.execRor d a b s
  | .min d a b => Sys2Proof.Machine.execMin d a b s
  | .max d a b => Sys2Proof.Machine.execMax d a b s
  | .minn d a b => Sys2Proof.Machine.execMinn d a b s
  | .maxn d a b => Sys2Proof.Machine.execMaxn d a b s
  | .addd d a b => Sys2Proof.Machine.execAddd d a b s
  | .subd d a b => Sys2Proof.Machine.execSubd d a b s
  | .muld d a b => Sys2Proof.Machine.execMuld d a b s
  | .shld d a b => Sys2Proof.Machine.execShld d a b s
  | .shrd d a b => Sys2Proof.Machine.execShrd d a b s
  | .srad d a b => Sys2Proof.Machine.execSrad d a b s
  | .bsel d a b => Sys2Proof.Machine.execBsel d a b s
  | .sel d a b => Sys2Proof.Machine.execSel d a b s
  | .absdiff d a b => Sys2Proof.Machine.execAbsdiff d a b s
  | .mulhsn d a b => Sys2Proof.Machine.execMulhsn d a b s
  | .mov d a => Sys2Proof.Machine.execMov d a s
  | .not d a => Sys2Proof.Machine.execNot d a s
  | .neg d a => Sys2Proof.Machine.execNeg d a s
  | .abs d a => Sys2Proof.Machine.execAbs d a s
  | .clz d a => Sys2Proof.Machine.execClz d a s
  | .ctz d a => Sys2Proof.Machine.execCtz d a s
  | .popc d a => Sys2Proof.Machine.execPopc d a s
  | .brev d a => Sys2Proof.Machine.execBrev d a s
  | .bswap d a => Sys2Proof.Machine.execBswap d a s
  | .sextb d a => Sys2Proof.Machine.execSextb d a s
  | .sexth d a => Sys2Proof.Machine.execSexth d a s
  | .zextb d a => Sys2Proof.Machine.execZextb d a s
  | .zexth d a => Sys2Proof.Machine.execZexth d a s
  | .movd d a => Sys2Proof.Machine.execMovd d a s
  | .negd d a => Sys2Proof.Machine.execNegd d a s
  | .clzd d a => Sys2Proof.Machine.execClzd d a s
  | .popcd d a => Sys2Proof.Machine.execPopcd d a s
  | .addi d a iv => Sys2Proof.Machine.execAddi d a iv s
  | .andi d a iv => Sys2Proof.Machine.execAndi d a iv s
  | .ori d a iv => Sys2Proof.Machine.execOri d a iv s
  | .xori d a iv => Sys2Proof.Machine.execXori d a iv s
  | .shli d a n => Sys2Proof.Machine.execShli d a n s
  | .shri d a n => Sys2Proof.Machine.execShri d a n s
  | .srai d a n => Sys2Proof.Machine.execSrai d a n s
  | .rori d a n => Sys2Proof.Machine.execRori d a n s
  | .muli d a iv => Sys2Proof.Machine.execMuli d a iv s
  | .lui d h => Sys2Proof.Machine.execLui d h s
  | .bfeN32 d a p l => Sys2Proof.Machine.execBfeN32 d a p l s
  | .bfeS32 d a p l => Sys2Proof.Machine.execBfeS32 d a p l s
  | .bfi d a p l => Sys2Proof.Machine.execBfi d a p l s
  | .cmp c m a b t => Sys2Proof.Machine.execCmp c m a b t s
  | .cmpi c m a iv => Sys2Proof.Machine.execCmpi c m a iv s
  | .pelse => Sys2Proof.Machine.execPelse s
  | .pend => Sys2Proof.Machine.execPend s
  | .pget d => Sys2Proof.Machine.execPget d s
  | .ppush a => Sys2Proof.Machine.execPpush a s
  | .pdepth d => Sys2Proof.Machine.execPdepth d s
  | .bvotea a => Sys2Proof.Machine.execBvotea a s
  | .bvotey a => Sys2Proof.Machine.execBvotey a s
  | .ballot d a => Sys2Proof.Machine.execBallot d a s
  | .bsync => Sys2Proof.Machine.execBsync s
  | .aadd d a b => Sys2Proof.Machine.execAadd d a b s
  | .asub d a b => Sys2Proof.Machine.execAsub d a b s
  | .ashl d a n => Sys2Proof.Machine.execAshl d a n s
  | .amuli d a iv => Sys2Proof.Machine.execAmuli d a iv s
  | .amov d a => Sys2Proof.Machine.execAmov d a s
  | .asetb d v => Sys2Proof.Machine.execAsetb d v s
  | .asets d v => Sys2Proof.Machine.execAsets d v s
  | .aget a v => Sys2Proof.Machine.execAget a v s
  | .aaddi d a iv => Sys2Proof.Machine.execAaddi d a iv s
  | .movi d iv => Sys2Proof.Machine.execMovi d iv s
  | .mfs d sv => Sys2Proof.Machine.execMfs d sv s
  | .mts a sv => Sys2Proof.Machine.execMts a sv s
  | .xlgetIdx d a b => Sys2Proof.Machine.execXlgetIdx d a b s
  | .xlgetUp d a b => Sys2Proof.Machine.execXlgetUp d a b s
  | .xlgetDn d a b => Sys2Proof.Machine.execXlgetDn d a b s
  | .xlgetXor d a b => Sys2Proof.Machine.execXlgetXor d a b s
  | .rdlane d a b => Sys2Proof.Machine.execRdlane d a b s
  | .redadd d a => Sys2Proof.Machine.execRedadd d a s
  | .redmin d a => Sys2Proof.Machine.execRedmin d a s
  | .redmax d a => Sys2Proof.Machine.execRedmax d a s
  | .scanadd d a => Sys2Proof.Machine.execScanadd d a s
  | .cvtF32S32 d a r => Sys2Proof.Machine.execCvtF32S32 d a r s
  | .cvtF32N32 d a r => Sys2Proof.Machine.execCvtF32N32 d a r s
  | .cvtS32F32 d a r sv => Sys2Proof.Machine.execCvtS32F32 d a r sv s
  | .cvtN32F32 d a r sv => Sys2Proof.Machine.execCvtN32F32 d a r sv s
  | .cvtF64F32 d a => Sys2Proof.Machine.execCvtF64F32 d a s
  | .cvtF32F64 d a r sv => Sys2Proof.Machine.execCvtF32F64 d a r sv s
  | .cvtF16F32 d a r sv k => Sys2Proof.Machine.execCvtF16F32 d a r sv k s
  | .cvtF32F16 d a k => Sys2Proof.Machine.execCvtF32F16 d a k s
  | .cvtBf16F32 d a r sv k => Sys2Proof.Machine.execCvtBf16F32 d a r sv k s
  | .cvtF32Bf16 d a k => Sys2Proof.Machine.execCvtF32Bf16 d a k s
  | .cvtE4m3F32 d a r sv k => Sys2Proof.Machine.execCvtE4m3F32 d a r sv k s
  | .cvtE5m2F32 d a r sv k => Sys2Proof.Machine.execCvtE5m2F32 d a r sv k s
  | .cvtF32E4m3 d a k => Sys2Proof.Machine.execCvtF32E4m3 d a k s
  | .cvtF32E5m2 d a k => Sys2Proof.Machine.execCvtF32E5m2 d a k s
  | .cvtE2m1F32 d a r sv k => Sys2Proof.Machine.execCvtE2m1F32 d a r sv k s
  | .cvtF32E2m1 d a k => Sys2Proof.Machine.execCvtF32E2m1 d a k s
  | .cvtF64S64 d a r => Sys2Proof.Machine.execCvtF64S64 d a r s
  | .cvtS64F64 d a r sv => Sys2Proof.Machine.execCvtS64F64 d a r sv s
  | .cvtF64N64 d a r => Sys2Proof.Machine.execCvtF64N64 d a r s
  | .cvtN64F64 d a r sv => Sys2Proof.Machine.execCvtN64F64 d a r sv s
  | .cvtS8S32 d a sv k => Sys2Proof.Machine.execCvtS8S32 d a sv k s
  | .cvtN8S32 d a sv k => Sys2Proof.Machine.execCvtN8S32 d a sv k s
  | .frnd d a r => Sys2Proof.Machine.execFrnd d a r s
  | .frndd d a r => Sys2Proof.Machine.execFrndd d a r s
  | .bscale d a => Sys2Proof.Machine.execBscale d a s
  | .faddF32 d a b => Sys2Proof.Machine.execFaddF32 d a b s
  | .fsubF32 d a b => Sys2Proof.Machine.execFsubF32 d a b s
  | .fmulF32 d a b => Sys2Proof.Machine.execFmulF32 d a b s
  | .ffmaF32 d a b => Sys2Proof.Machine.execFfmaF32 d a b s
  | .ffmsF32 d a b => Sys2Proof.Machine.execFfmsF32 d a b s
  | .fnfmaF32 d a b => Sys2Proof.Machine.execFnfmaF32 d a b s
  | .fminF32 d a b => Sys2Proof.Machine.execFminF32 d a b s
  | .fmaxF32 d a b => Sys2Proof.Machine.execFmaxF32 d a b s
  | .fminmF32 d a b => Sys2Proof.Machine.execFminmF32 d a b s
  | .fmaxmF32 d a b => Sys2Proof.Machine.execFmaxmF32 d a b s
  | .fabsF32 d a => Sys2Proof.Machine.execFabsF32 d a s
  | .fnegF32 d a => Sys2Proof.Machine.execFnegF32 d a s
  | .fsgnjF32 d a b => Sys2Proof.Machine.execFsgnjF32 d a b s
  | .fclassF32 d a => Sys2Proof.Machine.execFclassF32 d a s
  | .faddF64 d a b => Sys2Proof.Machine.execFaddF64 d a b s
  | .fsubF64 d a b => Sys2Proof.Machine.execFsubF64 d a b s
  | .fmulF64 d a b => Sys2Proof.Machine.execFmulF64 d a b s
  | .ffmaF64 d a b => Sys2Proof.Machine.execFfmaF64 d a b s
  | .ffmsF64 d a b => Sys2Proof.Machine.execFfmsF64 d a b s
  | .fnfmaF64 d a b => Sys2Proof.Machine.execFnfmaF64 d a b s
  | .fminF64 d a b => Sys2Proof.Machine.execFminF64 d a b s
  | .fmaxF64 d a b => Sys2Proof.Machine.execFmaxF64 d a b s
  | .fminmF64 d a b => Sys2Proof.Machine.execFminmF64 d a b s
  | .fmaxmF64 d a b => Sys2Proof.Machine.execFmaxmF64 d a b s
  | .fabsF64 d a => Sys2Proof.Machine.execFabsF64 d a s
  | .fnegF64 d a => Sys2Proof.Machine.execFnegF64 d a s
  | .fsgnjF64 d a b => Sys2Proof.Machine.execFsgnjF64 d a b s
  | .fclassF64 d a => Sys2Proof.Machine.execFclassF64 d a s
  | .f2add d a b t => Sys2Proof.Machine.execF2add d a b t s
  | .f2sub d a b t => Sys2Proof.Machine.execF2sub d a b t s
  | .f2mul d a b t => Sys2Proof.Machine.execF2mul d a b t s
  | .f2fma d a b t => Sys2Proof.Machine.execF2fma d a b t s
  | .f2min d a b t => Sys2Proof.Machine.execF2min d a b t s
  | .f2max d a b t => Sys2Proof.Machine.execF2max d a b t s
  | .f2abs d a t => Sys2Proof.Machine.execF2abs d a t s
  | .f2neg d a t => Sys2Proof.Machine.execF2neg d a t s
  | .fsqrt d a l t => Sys2Proof.Machine.execFsqrt d a l t s
  | .frcp d a l t => Sys2Proof.Machine.execFrcp d a l t s
  | .frsq d a l => Sys2Proof.Machine.execFrsq d a l s
  | .fexp2 d a l => Sys2Proof.Machine.execFexp2 d a l s
  | .flog2 d a l => Sys2Proof.Machine.execFlog2 d a l s
  | .fsint d a l => Sys2Proof.Machine.execFsint d a l s
  | .fcost d a l => Sys2Proof.Machine.execFcost d a l s
  | .ftanh d a l => Sys2Proof.Machine.execFtanh d a l s
  | .fdiv d a b l t => Sys2Proof.Machine.execFdiv d a b l t s
  | .div d a b l t => Sys2Proof.Machine.execDiv d a b l t s
  | .rem d a b l t => Sys2Proof.Machine.execRem d a b l t s
  | .maddm d a b => Sys2Proof.Machine.execMaddm d a b s
  | .msubm d a b => Sys2Proof.Machine.execMsubm d a b s
  | .mmulm d a b => Sys2Proof.Machine.execMmulm d a b s
  | .mtom d a => Sys2Proof.Machine.execMtom d a s
  | .mfromm d a => Sys2Proof.Machine.execMfromm d a s
  | .mulw d a b => Sys2Proof.Machine.execMulw d a b s
  | .bflyc d a => Sys2Proof.Machine.execBflyc d a s
  | .bflyg d a => Sys2Proof.Machine.execBflyg d a s
  | .mredb d a => Sys2Proof.Machine.execMredb d a s
  | .mneg d a => Sys2Proof.Machine.execMneg d a s
  | .ldb d a o p l => Sys2Proof.Machine.execLdb d a o p l s
  | .ldbs d a o p l => Sys2Proof.Machine.execLdbs d a o p l s
  | .ldh d a o p l => Sys2Proof.Machine.execLdh d a o p l s
  | .ldhs d a o p l => Sys2Proof.Machine.execLdhs d a o p l s
  | .ldw d a o p l => Sys2Proof.Machine.execLdw d a o p l s
  | .ldd d a o p l => Sys2Proof.Machine.execLdd d a o p l s
  | .ldq d a o p l => Sys2Proof.Machine.execLdq d a o p l s
  | .stb d a o p => Sys2Proof.Machine.execStb d a o p s
  | .sth d a o p => Sys2Proof.Machine.execSth d a o p s
  | .stw d a o p => Sys2Proof.Machine.execStw d a o p s
  | .std d a o p => Sys2Proof.Machine.execStd d a o p s
  | .stq d a o p => Sys2Proof.Machine.execStq d a o p s
  | .atadd d a b l w => Sys2Proof.Machine.execAtadd d a b l w s
  | .atfadd d a b l w => Sys2Proof.Machine.execAtfadd d a b l w s
  | .atmin d a b l w => Sys2Proof.Machine.execAtmin d a b l w s
  | .atmax d a b l w => Sys2Proof.Machine.execAtmax d a b l w s
  | .atminn d a b l w => Sys2Proof.Machine.execAtminn d a b l w s
  | .atmaxn d a b l w => Sys2Proof.Machine.execAtmaxn d a b l w s
  | .atand d a b l w => Sys2Proof.Machine.execAtand d a b l w s
  | .ator d a b l w => Sys2Proof.Machine.execAtor d a b l w s
  | .atxor d a b l w => Sys2Proof.Machine.execAtxor d a b l w s
  | .atxch d a b l w => Sys2Proof.Machine.execAtxch d a b l w s
  | .atcas d a b l w => Sys2Proof.Machine.execAtcas d a b l w s
  | .feldw d a o l => Sys2Proof.Machine.execFeldw d a o l s
  | .feldwTry d a o => Sys2Proof.Machine.execFeldwTry d a o s
  | .feldc d a o l => Sys2Proof.Machine.execFeldc d a o l s
  | .feldcTry d a o => Sys2Proof.Machine.execFeldcTry d a o s
  | .festf d a o => Sys2Proof.Machine.execFestf d a o s
  | .festfTry d a o => Sys2Proof.Machine.execFestfTry d a o s
  | .fests d a o => Sys2Proof.Machine.execFests d a o s
  | .feqry d a => Sys2Proof.Machine.execFeqry d a s
  | .feset a b => Sys2Proof.Machine.execFeset a b s
  | .feclr a b => Sys2Proof.Machine.execFeclr a b s
  | .br k p o => Sys2Proof.Machine.execBr k p o s
  | .call k p o => Sys2Proof.Machine.execCall k p o s
  | .jr k c a => Sys2Proof.Machine.execJr k c a s
  | .mma a b => Sys2Proof.Machine.execMma a b s
  | .mloop a b => Sys2Proof.Machine.execMloop a b s
  | .mspa sv a b => Sys2Proof.Machine.execMspa sv a b s
  | .mmaq a b => Sys2Proof.Machine.execMmaq a b s
  | .mloopq a b => Sys2Proof.Machine.execMloopq a b s
  | .wbld a b => Sys2Proof.Machine.execWbld a b s
  | .mzero b => Sys2Proof.Machine.execMzero b s
  | .tld a b => Sys2Proof.Machine.execTld a b s
  | .tst a b => Sys2Proof.Machine.execTst a b s
  | .copy a b => Sys2Proof.Machine.execCopy a b s
  | .gather a b => Sys2Proof.Machine.execGather a b s
  | .scatter a b => Sys2Proof.Machine.execScatter a b s
  | .put a b => Sys2Proof.Machine.execPut a b s
  | .get a b => Sys2Proof.Machine.execGet a b s
  | .tsum a b => Sys2Proof.Machine.execTsum a b s
  | .tchk a b => Sys2Proof.Machine.execTchk a b s
  | .tfix a b => Sys2Proof.Machine.execTfix a b s
  | .fence k sv => Sys2Proof.Machine.execFence k sv s
  | .setscope sv => Sys2Proof.Machine.execSetscope sv s
  | .bar sv iv => Sys2Proof.Machine.execBar sv iv s
  | .waitc c n => Sys2Proof.Machine.execWaitc c n s
  | .arrive a b => Sys2Proof.Machine.execArrive a b s
  | .expect a b => Sys2Proof.Machine.execExpect a b s
  | .bwait d a => Sys2Proof.Machine.execBwait d a s
  | .bwaitt d a b => Sys2Proof.Machine.execBwaitt d a b s
  | .mwatch a => Sys2Proof.Machine.execMwatch a s
  | .mwait d b => Sys2Proof.Machine.execMwait d b s
  | .sleep b => Sys2Proof.Machine.execSleep b s
  | .yield => Sys2Proof.Machine.execYield s
  | .region => Sys2Proof.Machine.execRegion s
  | .qpush q b => Sys2Proof.Machine.execQpush q b s
  | .qpop d q => Sys2Proof.Machine.execQpop d q s
  | .qtrypush q b => Sys2Proof.Machine.execQtrypush q b s
  | .qtrypop d q => Sys2Proof.Machine.execQtrypop d q s
  | .acqr => Sys2Proof.Machine.execAcqr s
  | .relr => Sys2Proof.Machine.execRelr s
  | .spawn a b => Sys2Proof.Machine.execSpawn a b s
  | .exit => Sys2Proof.Machine.execExit s
  | .ret => Sys2Proof.Machine.execRet s
  | .ralloc a => Sys2Proof.Machine.execRalloc a s
  | .rfree a => Sys2Proof.Machine.execRfree a s
  | .wbase a => Sys2Proof.Machine.execWbase a s
  | .view a sv => Sys2Proof.Machine.execView a sv s
  | .binflush => Sys2Proof.Machine.execBinflush s
  | .trap h l => Sys2Proof.Machine.execTrap h l s
  | .tret => Sys2Proof.Machine.execTret s
  | .svc h l => Sys2Proof.Machine.execSvc h l s
  | .brk h l => Sys2Proof.Machine.execBrk h l s
  | .nop => Sys2Proof.Machine.execNop s
  | .rdcyc d => Sys2Proof.Machine.execRdcyc d s
  | .rngseed a => Sys2Proof.Machine.execRngseed a s
  | .fePresent t => Sys2Proof.Machine.execFePresent t s
  | .convergenceRound blk bun => Sys2Proof.Machine.execConvergenceRound blk bun s
  | .longLatencyResult t k => Sys2Proof.Machine.execLongLatencyResult t k s
  | .activeSetExchange core sub => Sys2Proof.Machine.execActiveSetExchange core sub s
  | .pendingBundleTimeout core sub => Sys2Proof.Machine.execPendingBundleTimeout core sub s
  | .yieldEnd t => Sys2Proof.Machine.execYieldEnd t s
  | .sleepExpire t => Sys2Proof.Machine.execSleepExpire t s
  | .monitorDisplacement t => Sys2Proof.Machine.execMonitorDisplacement t s
  | .mwaitLimitExpire t => Sys2Proof.Machine.execMwaitLimitExpire t s
  | .bwaittLimitExpire t => Sys2Proof.Machine.execBwaittLimitExpire t s
  | .binwaitExpire core bin => Sys2Proof.Machine.execBinwaitExpire core bin s
  | .binLaunch core => Sys2Proof.Machine.execBinLaunch core s
  | .rallocGrant core sub => Sys2Proof.Machine.execRallocGrant core sub s
  | .rfreeRelease blk bun => Sys2Proof.Machine.execRfreeRelease blk bun s
  | .engineCommandStart e => Sys2Proof.Machine.execEngineCommandStart e s
  | .engineUnitComplete cmd => Sys2Proof.Machine.execEngineUnitComplete cmd s
  | .engineCommandComplete cmd => Sys2Proof.Machine.execEngineCommandComplete cmd s
  | .engineFault cmd => Sys2Proof.Machine.execEngineFault cmd s
  | .engineCommandResume cmd => Sys2Proof.Machine.execEngineCommandResume cmd s
  | .shadowIssue core sub mismatch => Sys2Proof.Machine.execShadowIssue core sub mismatch s
  | .l1Eviction c vd line => Sys2Proof.Machine.execL1Eviction c vd line s
  | .groyneWindowRefill die => Sys2Proof.Machine.execGroyneWindowRefill die s
  | .groyneServe die slice => Sys2Proof.Machine.execGroyneServe die slice s
  | .notify vd q value tbit => Sys2Proof.Machine.execNotify vd q value tbit s
  | .queueEnable vd q value tbit => Sys2Proof.Machine.execQueueEnable vd q value tbit s
  | .queueDisable vd q value tbit => Sys2Proof.Machine.execQueueDisable vd q value tbit s
  | .qerrClear vd q value tbit => Sys2Proof.Machine.execQerrClear vd q value tbit s
  | .registerWrite r value tbit => Sys2Proof.Machine.execRegisterWrite r value tbit s
  | .packetPoll vd q => Sys2Proof.Machine.execPacketPoll vd q s
  | .packetAccept vd q => Sys2Proof.Machine.execPacketAccept vd q s
  | .dsigPoll vd q => Sys2Proof.Machine.execDsigPoll vd q s
  | .kernelPacket vd q => Sys2Proof.Machine.execKernelPacket vd q s
  | .copyPacket vd q => Sys2Proof.Machine.execCopyPacket vd q s
  | .waitPacket vd q => Sys2Proof.Machine.execWaitPacket vd q s
  | .setPacket vd q => Sys2Proof.Machine.execSetPacket vd q s
  | .gangPlacement die vd => Sys2Proof.Machine.execGangPlacement die vd s
  | .kernelCompletion kernel => Sys2Proof.Machine.execKernelCompletion kernel s
  | .turnEnd quad => Sys2Proof.Machine.execTurnEnd quad s
  | .idleTurnEnd quad => Sys2Proof.Machine.execIdleTurnEnd quad s
  | .turnStart quad => Sys2Proof.Machine.execTurnStart quad s
  | .blockResume blk => Sys2Proof.Machine.execBlockResume blk s
  | .crnotify ring value tbit => Sys2Proof.Machine.execCrnotify ring value tbit s
  | .callRingEnable ring value tbit => Sys2Proof.Machine.execCallRingEnable ring value tbit s
  | .faultQueueEnable ring value tbit => Sys2Proof.Machine.execFaultQueueEnable ring value tbit s
  | .fqheadWrite ring value tbit => Sys2Proof.Machine.execFqheadWrite ring value tbit s
  | .servicePeriod => Sys2Proof.Machine.execServicePeriod s
  | .createVd c => Sys2Proof.Machine.execCreateVd c s
  | .destroyVd c => Sys2Proof.Machine.execDestroyVd c s
  | .resetVd c => Sys2Proof.Machine.execResetVd c s
  | .setWeight c => Sys2Proof.Machine.execSetWeight c s
  | .setMeter c => Sys2Proof.Machine.execSetMeter c s
  | .setIrq c => Sys2Proof.Machine.execSetIrq c s
  | .setPart c => Sys2Proof.Machine.execSetPart c s
  | .moveBlock c => Sys2Proof.Machine.execMoveBlock c s
  | .blockAck c => Sys2Proof.Machine.execBlockAck c s
  | .moveDeadlineExpire blk => Sys2Proof.Machine.execMoveDeadlineExpire blk s
  | .query c => Sys2Proof.Machine.execQuery c s
  | .setRank c => Sys2Proof.Machine.execSetRank c s
  | .setRoot c => Sys2Proof.Machine.execSetRoot c s
  | .tlbInval c => Sys2Proof.Machine.execTlbInval c s
  | .pfResolve c => Sys2Proof.Machine.execPfResolve c s
  | .poolAdd c => Sys2Proof.Machine.execPoolAdd c s
  | .setBacking c => Sys2Proof.Machine.execSetBacking c s
  | .setAperture c => Sys2Proof.Machine.execSetAperture c s
  | .setShared c => Sys2Proof.Machine.execSetShared c s
  | .queryScrub c => Sys2Proof.Machine.execQueryScrub c s
  | .pageIn vd fid => Sys2Proof.Machine.execPageIn vd fid s
  | .invalidation u vd lo hi => Sys2Proof.Machine.execInvalidation u vd lo hi s
  | .hostRead fn off size tbit => Sys2Proof.Machine.execHostRead fn off size tbit s
  | .hostWrite fn off data tbit => Sys2Proof.Machine.execHostWrite fn off data tbit s
  | .hostFetchadd fn off size x tbit => Sys2Proof.Machine.execHostFetchadd fn off size x tbit s
  | .hostSwap fn off size x tbit => Sys2Proof.Machine.execHostSwap fn off size x tbit s
  | .hostCas fn off size cmp x tbit => Sys2Proof.Machine.execHostCas fn off size cmp x tbit s
  | .cxlMemAccess ep haddr size data tbit => Sys2Proof.Machine.execCxlMemAccess ep haddr size data tbit s
  | .hostCompletion tag c => Sys2Proof.Machine.execHostCompletion tag c s
  | .completionTimeout tag => Sys2Proof.Machine.execCompletionTimeout tag s
  | .atsTranslationCompletion tag haddr => Sys2Proof.Machine.execAtsTranslationCompletion tag haddr s
  | .atsInvalidationRequest port fn lo hi => Sys2Proof.Machine.execAtsInvalidationRequest port fn lo hi s
  | .functionLevelReset vfn => Sys2Proof.Machine.execFunctionLevelReset vfn s
  | .linkDown port => Sys2Proof.Machine.execLinkDown port s
  | .keyProg k => Sys2Proof.Machine.execKeyProg k s
  | .kSetGo stream set => Sys2Proof.Machine.execKSetGo stream set s
  | .kSetStop stream set => Sys2Proof.Machine.execKSetStop stream set s
  | .linkKm part key => Sys2Proof.Machine.execLinkKm part key s
  | .lockInterfaceRequest vd => Sys2Proof.Machine.execLockInterfaceRequest vd s
  | .startInterfaceRequest vd nonce => Sys2Proof.Machine.execStartInterfaceRequest vd nonce s
  | .stopInterfaceRequest vd => Sys2Proof.Machine.execStopInterfaceRequest vd s
  | .getDeviceInterfaceState vd => Sys2Proof.Machine.execGetDeviceInterfaceState vd s
  | .getVersion mb msg => Sys2Proof.Machine.execGetVersion mb msg s
  | .getCapabilities mb msg => Sys2Proof.Machine.execGetCapabilities mb msg s
  | .negotiateAlgorithms mb msg => Sys2Proof.Machine.execNegotiateAlgorithms mb msg s
  | .getDigests mb msg => Sys2Proof.Machine.execGetDigests mb msg s
  | .getCertificate mb msg => Sys2Proof.Machine.execGetCertificate mb msg s
  | .challenge mb msg => Sys2Proof.Machine.execChallenge mb msg s
  | .getMeasurements mb msg => Sys2Proof.Machine.execGetMeasurements mb msg s
  | .keyExchange mb msg => Sys2Proof.Machine.execKeyExchange mb msg s
  | .finish mb msg => Sys2Proof.Machine.execFinish mb msg s
  | .endSession mb msg => Sys2Proof.Machine.execEndSession mb msg s
  | .flitPutData f => Sys2Proof.Machine.execFlitPutData f s
  | .flitPutAck f => Sys2Proof.Machine.execFlitPutAck f s
  | .flitGetRequest f => Sys2Proof.Machine.execFlitGetRequest f s
  | .flitGetData f => Sys2Proof.Machine.execFlitGetData f s
  | .flitBarrierArrival f => Sys2Proof.Machine.execFlitBarrierArrival f s
  | .flitBarrierOpen f => Sys2Proof.Machine.execFlitBarrierOpen f s
  | .flitError f => Sys2Proof.Machine.execFlitError f s
  | .flitReplay port => Sys2Proof.Machine.execFlitReplay port s
  | .fabricResponseTimeout cmd => Sys2Proof.Machine.execFabricResponseTimeout cmd s
  | .scrubJobStart job => Sys2Proof.Machine.execScrubJobStart job s
  | .scrubUnit job => Sys2Proof.Machine.execScrubUnit job s
  | .scrubJobEnd job => Sys2Proof.Machine.execScrubJobEnd job s
  | .harbourWarmRestart => Sys2Proof.Machine.execHarbourWarmRestart s
  | .coldReset cfg => Sys2Proof.Machine.execColdReset cfg s
  | .backwashSweep a o => Sys2Proof.Machine.execBackwashSweep a o s
  | .arrayEccTargetWrite entry target => Sys2Proof.Machine.execArrayEccTargetWrite entry target s
  | .engineKill e all vd => Sys2Proof.Machine.execEngineKill e all vd s
  | .engineSlack e => Sys2Proof.Machine.execEngineSlack e s
  | .engineGo e => Sys2Proof.Machine.execEngineGo e s
  | .engineFenceTimeout e => Sys2Proof.Machine.execEngineFenceTimeout e s
  | .monitorUpdate tempA tempB power => Sys2Proof.Machine.execMonitorUpdate tempA tempB power s
  | .clockStepDown die => Sys2Proof.Machine.execClockStepDown die s
  | .clockStepUp die => Sys2Proof.Machine.execClockStepUp die s
  | .voltageDroop die => Sys2Proof.Machine.execVoltageDroop die s
  | .thermalShutdown => Sys2Proof.Machine.execThermalShutdown s
  | .illegalWord w => Sys2Proof.Machine.execIllegalWord w s
  | .linkUp port => Sys2Proof.Machine.execLinkUp port s
  | .voltageDroopClears die => Sys2Proof.Machine.execVoltageDroopClears die s

end Sys2Proof.Machine
end

