-- ==== Sys2Proof/Machine/Pick.lean ====
section
/-! DEFINITION. The picker of a sub-core (R278 to R280) and the issue of the group it forms: ages, the fetch, decoding, and
the groups of convergence rounds (R127). -/

namespace Sys2Proof.Machine

/-! ## What the words say -/

/-- The bundle-convergent instructions (R127, R289). -/
def convergent : Instr → Bool
  | .xlgetIdx _ _ _ | .xlgetUp _ _ _ | .xlgetDn _ _ _ | .xlgetXor _ _ _ | .rdlane _ _ _ => true
  | .redadd _ _ | .redmin _ _ | .redmax _ _ | .scanadd _ _ => true
  | .bvotea _ | .bvotey _ | .ballot _ _ | .bsync => true
  | .ralloc _ | .rfree _ | .wbase _ | .view _ _ => true
  | _ => false

/-- The feature of R437 that an instruction belongs to. -/
def featureOf : Instr → Option Nat
  | .feldw _ _ _ _ | .feldwTry _ _ _ | .feldc _ _ _ _ | .feldcTry _ _ _ | .festf _ _ _ | .festfTry _ _ _ => some 1
  | .fests _ _ _ | .feqry _ _ | .feset _ _ | .feclr _ _ => some 1
  | .tsum _ _ | .tchk _ _ | .tfix _ _ => some 2
  | .mmaq _ _ | .mloopq _ _ => some 3
  | .put _ _ | .get _ _ => some 6
  | .bar sc _ => if sc == 4 then some 6 else none
  | _ => none

/-- Whether the part has an instruction's feature. -/
def State.hasFeature (s : State) (i : Instr) : Bool :=
  match featureOf i with
  | some f => s.feature f
  | none => true

/-- The word at a thread's PC, where the fetch finds one. -/
def State.wordAt (s : State) (t : TRef) : Option Nat :=
  match (s.fetch t).2 with
  | .word w => some w
  | _ => none

/-- Whether a thread stands at a bundle-convergent instruction. A word that does not decode is none, whatever its fn, so that it traps
when it is picked and waits for no round (DESIGN CHOICE, log entry 58). -/
noncomputable def State.atConvergent (s : State) (t : TRef) : Bool :=
  match s.wordAt t with
  | some w => match decode w with
    | .ok i => convergent i
    | .error _ => false
  | none => false

/-- Whether a word is an ENG, SYNC or THREAD word, which issues for one bundle only (R280). -/
def oneBundle (w : Nat) : Bool := 0x3B ≤ bitsOf w 31 26 && bitsOf w 31 26 ≤ 0x3D

/-! ## Forming a group (R279) -/

/-- What a pick slot issues: the threads in lane order, their PC, and the ready threads whose ages the pick changes. A round
group names its bundle. -/
structure Pick where
  key : Nat
  pc : DWord
  refs : List TRef
  ready : List TRef := []
  round : Option (Nat × Nat) := none
  deriving DecidableEq, Repr

/-- The place of a sub-core in the order of a cycle. -/
def keyOf (core sub : Nat) : Nat := 4 * core + sub

/-- Whether a quad's halt is in progress, so that nothing new is picked (R311). -/
def State.halting (s : State) (core : Nat) : Bool := (s.quads.getD (quadOfCore core) {}).ending

/-- The participants of a bundle's round at an address. -/
def State.roundAt (s : State) (b : Bundle) (pc : DWord) : List TRef :=
  ((s.threadsOf b.blk b.idx).filter fun x =>
    x.pc == pc && x.park == .conv && b.roundMembers.contains x.ref.lane).map (·.ref)

/-- Whether a group of a bundle's round is still being compared (R426). -/
def State.comparing (s : State) (b : Bundle) (pc : DWord) : Bool :=
  (s.threadsOf b.blk b.idx).any fun x => x.pc == pc && x.park == .shadow

/-- The bundles of a sub-core with a round group due. -/
def State.roundsDue (s : State) (core sub : Nat) : List Bundle :=
  (s.bundlesOn core sub).filter fun b =>
    s.running b.blk && b.want.isNone && b.free.isNone && (match b.round with
      | pc :: _ => !s.comparing b pc
      | [] => false)

/-- The bundle of a list in the lowest slot. -/
def lowestSlot : List Bundle → Option Bundle
  | [] => none
  | b :: r => some (r.foldl (fun m c => if c.slot < m.slot then c else m) b)

/-- The ready threads of a sub-core's active set (R278). -/
noncomputable def State.readyOn (s : State) (core sub : Nat) : List Thread :=
  ((s.activeOn core sub).flatMap fun b => s.threadsOf b.blk b.idx).filter fun x => s.readyTh x && !s.atConvergent x.ref

/-- The slot of a thread's bundle. -/
def State.slotOf (s : State) (t : TRef) : Nat := (s.buOf t).slot

/-- Whether the word at a PC goes to one bundle, as a thread there fetches it. -/
def State.single (s : State) (ths : List Thread) (pc : DWord) : Bool :=
  match ths.find? fun x => x.pc == pc with
  | some x => match s.wordAt x.ref with
    | some w => oneBundle w
    | none => false
  | none => false

/-- The threads of T at a PC. -/
def atPc (ths : List Thread) (pc : DWord) : List Thread := ths.filter fun x => x.pc == pc

/-- The threads of each bundle among some threads. -/
def byBundle (ths : List Thread) : List (List Thread) :=
  ((ths.map fun x => (x.ref.blk, x.ref.bun)).eraseDups).map fun k => ths.filter fun x => (x.ref.blk, x.ref.bun) == k

/-- lanes(P). -/
def State.lanesAt (s : State) (ths : List Thread) (pc : DWord) : Nat :=
  let l := atPc ths pc
  if s.single ths pc then (byBundle l).foldl (fun n x => Nat.max n x.length) 0
  else (l.map (·.ref.lane)).eraseDups.length

/-- Whether thread `x` comes before `y` as t*: greater age, lower PC, lower slot, lower lane. -/
def State.starBefore (s : State) (x y : Thread) : Bool :=
  if x.age != y.age then x.age > y.age
  else if x.pc != y.pc then x.pc.toNat < y.pc.toNat
  else if s.slotOf x.ref != s.slotOf y.ref then s.slotOf x.ref < s.slotOf y.ref
  else x.ref.lane < y.ref.lane

/-- t*, when some age is 256 or more. -/
def State.star (s : State) (ths : List Thread) : Option Thread :=
  if ths.any fun x => x.age ≥ 256 then
    match ths with
    | [] => none
    | x :: r => some (r.foldl (fun m y => if s.starBefore y m then y else m) x)
  else none

/-- The PC chosen. -/
def State.chosenPc (s : State) (ths : List Thread) (star : Option Thread) : Option DWord :=
  match star with
  | some t => some t.pc
  | none =>
    (ths.map (·.pc)).eraseDups.foldl (fun (m : Option DWord) pc =>
      match m with
      | none => some pc
      | some q =>
        let a := s.lanesAt ths pc
        let b := s.lanesAt ths q
        if a > b || (a == b && pc.toNat < q.toNat) then some pc else some q) none

/-- The bundle that a one-bundle word issues for. -/
def State.chosenBundle (s : State) (l : List Thread) (star : Option Thread) : List Thread :=
  let of_ (x : Thread) : List Thread := l.filter fun y => y.ref.blk == x.ref.blk && y.ref.bun == x.ref.bun
  match star with
  | some t => of_ t
  | none =>
    (byBundle l).foldl (fun m x =>
      if x.length > m.length then x
      else if x.length == m.length && (match x, m with
        | y :: _, z :: _ => s.slotOf y.ref < s.slotOf z.ref
        | _, _ => false) then x
      else m) []

/-- One thread for each home lane: t* for its own, otherwise the greatest age, then the lower slot. -/
def State.oneEach (s : State) (l : List Thread) (star : Option Thread) : List Thread :=
  (List.range 32).filterMap fun lane =>
    match star with
    | some t => if t.ref.lane == lane then some t else best lane
    | none => best lane
where
  best (lane : Nat) : Option Thread :=
    (l.filter fun x => x.ref.lane == lane).foldl (fun (m : Option Thread) x =>
      match m with
      | none => some x
      | some y => if x.age > y.age || (x.age == y.age && s.slotOf x.ref < s.slotOf y.ref) then some x else some y) none

/-- What the picker of a sub-core issues in this cycle. -/
noncomputable def State.pickOn (s : State) (core sub : Nat) : Option Pick :=
  match lowestSlot (s.roundsDue core sub) with
  | some b =>
    match b.round with
    | pc :: _ => some { key := keyOf core sub, pc := pc, refs := s.roundAt b pc, round := some (b.blk, b.idx) }
    | [] => none
  | none =>
    if s.halting core then none
    else
      let ths := s.readyOn core sub
      let star := s.star ths
      match s.chosenPc ths star with
      | none => none
      | some pc =>
        let l := atPc ths pc
        let g := if s.single ths pc then (s.chosenBundle l star).inOrder fun a b => a.ref.lane ≤ b.ref.lane
          else s.oneEach l star
        some { key := keyOf core sub, pc := pc, refs := g.map (·.ref), ready := ths.map (·.ref) }

/-! ## Whose pick is next -/

/-- Whether a core's clock has a cycle in the current period (R22). -/
def State.going (s : State) (core : Nat) : Bool := if dieOfCore core == 0 then s.clk.goA else s.clk.goB

/-- The sub-cores that hold bundles of running blocks, from the cursor on, in ascending order; one whose slot a shadow has taken in
this cycle issues no leader (R426). -/
def State.subCores (s : State) : List Nat :=
  (((s.bundles.filter fun b => s.running b.blk && s.going (s.bk b.blk).core).map fun b =>
    keyOf (s.bk b.blk).core b.sub).filter fun k => s.cursor ≤ k && !s.compared.contains k).eraseDups.inOrder fun a b => a ≤ b

/-- The next pick of the current cycle; none when every sub-core has had its slot. -/
noncomputable def State.pick (s : State) : Option Pick := s.subCores.findSome? fun k => s.pickOn (k / 4) (k % 4)

/-! ## Issue -/

/-- The ages after a pick (R279), and the groups that yielding threads have seen pass (R282). -/
def State.aged (s : State) (p : Pick) : State :=
  { s with threads := s.threads.map fun x =>
      let x : Thread :=
        if p.round.isSome then x
        else if p.refs.contains x.ref then { x with age := 0 }
        else if p.ready.contains x.ref then { x with age := x.age + 1 }
        else x
      match x.park with
      | .yielding n =>
        if keyOf (s.coreOf x.ref) (s.buOf x.ref).sub == p.key then { x with park := .yielding (n - 1) } else x
      | _ => x }

/-- The pick made: the cursor moves on, the quad counts as busy, and the group is the one in issue. -/
def State.taken (s : State) (p : Pick) : State :=
  let s := s.aged p
  { s with
    cursor := p.key + 1
    issued := p.key :: s.issued
    quads := s.quads.modify (quadOfCore (p.key / 4)) fun x => { x with idle := 0 }
    group := { refs := p.refs, pc := p.pc, word := 0, round := p.round.isSome } }

/-- The word in issue noted. -/
def State.withWord (s : State) (w : Nat) : State := { s with group := { s.group with word := w } }

/-- A group's address leaves its round once it has been performed. -/
def State.roundOn (s : State) (p : Pick) : State :=
  match p.round with
  | none => s
  | some (blk, bun) =>
    let b := s.bu blk bun
    if s.comparing b p.pc then s else s.modBu blk bun fun b => { b with round := b.round.drop 1 }

/-- The instruction of a word performed: words that decode to none, or to one of an absent feature, raise ILLEGAL (R77,
R437). -/
noncomputable def State.run (s : State) (w : Nat) : Host.Outcome State Fault Refusal :=
  match decode w with
  | .ok i => if s.hasFeature i then exec i (s.withWord w) else execIllegalWord w (s.withWord w)
  | .error _ => execIllegalWord w (s.withWord w)

/-- A thread whose word lies on a host line that its core does not hold waits for the translation, or for the line (R50, R366). -/
def State.fetchLine (s : State) (t : TRef) (vd ap gpa : Nat) : State :=
  if !s.live t then s
  else
    let pc := (s.th t).pc
    State.perform {} t (if s.atsMiss vd ap gpa then s.askAts t vd ap gpa pc 4 else s.askLine t vd ap gpa 4 pc)

/-- A thread whose fetch fails traps at its PC (R50, R78 step 1), or waits. -/
def State.fetchFails (s : State) (f : Fetched) : State :=
  s.group.refs.foldl (fun s t =>
    match f with
    | .prot => s.trap t causeProt (s.th t).pc
    | .page level => s.pageFault t (s.th t).pc.toNat level 4
    | .poison => s.consume t (s.th t).pc.toNat
    | .host vd ap gpa => s.fetchLine t vd ap gpa
    | .word _ => s) s

/-- The group in issue presents its instruction: the word at the lead's PC is fetched and performed. -/
noncomputable def State.present (s : State) (lead : TRef) : Host.Outcome State Fault Refusal :=
  match s.fetch lead with
  | (s, .word w) => s.run w
  | (s, f) => .next (s.fetchFails f)

/-- A pick performed. -/
noncomputable def State.issuePick (s : State) (p : Pick) : Host.Outcome State Fault Refusal :=
  let s := s.taken p
  match p.refs with
  | [] => .next (s.roundOn p)
  | lead :: _ =>
    match s.present lead with
    | .next s => .next (s.roundOn p)
    | o => o

end Sys2Proof.Machine
end

