-- ==== Sys2Proof/Machine/Tick.lean ====
section
/-! DEFINITION. What time does: one period of the fastest clock (R22, R23). The counts that software can see advance, and the
steps that units are due to take enter the agenda, in a fixed order. -/

namespace Sys2Proof.Machine

/-- Some steps added to the agenda. -/
def State.due (s : State) (l : List Event) : State := { s with agenda := s.agenda ++ l }

/-! ## Clocks -/

/-- The frequency of a core clock at a step, in fifths of 1 GHz, and of the service clock (R22, R23, R440). -/
def coreRate : Nat → Nat
  | 0 => 15
  | 1 => 12
  | 2 => 9
  | _ => 6
def serviceRate : Nat → Nat
  | 0 => 10
  | 1 => 8
  | _ => 5

/-- One period of 3.0 GHz: each clock gains its rate, and has a cycle for each 15 that it has gained. -/
def State.tickClocks (s : State) : State :=
  let c := s.clk
  let a := c.remA + coreRate (s.mons.step 0)
  let b := c.remB + coreRate (s.mons.step 1)
  let v := c.rem + serviceRate s.mons.sstep
  { s with
    cursor := 0
    clk := { goA := a ≥ 15, goB := b ≥ 15, a := c.a + a / 15, b := c.b + b / 15, svc := c.svc + v / 15
             rem := v % 15, remA := a % 15, remB := b % 15 } }

/-- Whether a die's clock has a cycle in this period. -/
def State.dieGoes (s : State) (die : Nat) : Bool := if die == 0 then s.clk.goA else s.clk.goB

/-- The dies whose clocks have a cycle in this period. -/
def State.diesGoing (s : State) : List Nat := [0, 1].filter s.dieGoes

/-! ## Threads -/

/-- A cycle of a wait. -/
def Park.count : Park → Park
  | .sleep n => .sleep (n - 1)
  | .mwait (some n) d => .mwait (some (n - 1)) d
  | .bwait b o ph (some n) d => .bwait b o ph (some (n - 1)) d
  | p => p

/-- The waits of running threads on the dies that have a cycle (R234, R262, R283). -/
def State.countWaits (s : State) : State :=
  { s with threads := s.threads.map fun x =>
      if s.running x.ref.blk && s.going (s.coreOf x.ref) then { x with park := x.park.count } else x }

/-- Threads whose monitor has latched leave MWAIT (R234). -/
def State.wakeAll (s : State) : State :=
  s.threads.foldl (fun (s : State) x => if s.running x.ref.blk then s.wakeMwait x.ref else s) s

/-- The results of a thread that are written in this cycle: those whose window is over, those that the thread waits for before a
word that closes its windows (R56), and those that the device chooses to write early (R55). Each is named by its place once those
before it are gone. -/
def State.dueResults (s : State) (x : Thread) (moment : Nat) : List Nat :=
  let due (k : Nat) : Bool := match x.pending[k]? with
    | some p => p.arrived && (p.window == 0 || s.waitsResult x || Config.resultNow (moment + k))
    | none => false
  ((List.range x.pending.length).filter due).zipIdx.map fun k => k.1 - k.2

/-- The steps that a thread is due (R55, R234, R262, R282, R283). -/
def State.threadEvents (s : State) (x : Thread) (moment : Nat) : List Event :=
  let on := s.running x.ref.blk && s.going (s.coreOf x.ref)
  ((s.dueResults x moment).map fun k => Event.longLatencyResult x.ref k) ++
  match x.park with
  | .sleep 0 => if on then [.sleepExpire x.ref] else []
  | .mwait (some 0) _ => if on then [.mwaitLimitExpire x.ref] else []
  | .bwait _ _ _ (some 0) _ => if on then [.bwaittLimitExpire x.ref] else []
  | .yielding n =>
    if on && (n == 0 || !(s.activeOn (s.coreOf x.ref) (s.buOf x.ref).sub).any s.readyBu) then [.yieldEnd x.ref] else []
  | _ => []

/-- Threads that wait in an SVC or for a trap's entry try again, and refused host loads trap their threads when these can issue
(R405, R401, R367). -/
def State.retryThreads (s : State) : State :=
  s.threads.foldl (fun (s : State) x =>
    if s.running x.ref.blk && s.going (s.coreOf x.ref) then ((s.svcRetry x.ref).trapRetry x.ref).lateTrap x.ref else s) s

/-- A stalled group looks again at what it waits for (R151): its threads present their instruction as the group that stalled. While
the instruction stalls again, what it has brought about on its way is kept (the reads of a release, a translation asked for);
otherwise nothing of it is performed here, and the threads are ready for an issue slot. -/
noncomputable def State.retryStall (s : State) (stamp : Nat) : State :=
  let ths := s.threads.filter fun x => x.park.stalled == some stamp && s.running x.ref.blk && s.going (s.coreOf x.ref)
  match ths with
  | [] => s
  | lead :: _ =>
    let refs := ths.map (·.ref)
    let free : State := { s with threads := s.threads.map fun x => if refs.contains x.ref then { x with park := .running } else x }
    match ({ free with group := { refs := refs, pc := lead.pc } } : State).present lead.ref with
    | .next s' =>
      if refs.all fun t => (s'.th t).park.stalled.isSome then { s' with group := s.group } else free
    | _ => free

/-- The stalled groups, in the order of their first attempts (R151). -/
noncomputable def State.retryStalls (s : State) : State :=
  (((s.threads.filterMap fun x => x.park.stalled).eraseDups).inOrder fun a b => a ≤ b).foldl State.retryStall s

/-- The steps of all threads; each asks its own free values. -/
noncomputable def State.tickThreads (s : State) : State :=
  let s := s.countWaits.wakeAll.retryThreads.retryStalls
  let l := s.threads.zipIdx.flatMap fun x => s.threadEvents x.1 (s.seq + 64 * x.2)
  { s with agenda := s.agenda ++ l, seq := s.seq + 64 * s.threads.length }

/-- Ready threads that have reached a bundle-convergent instruction park there (R127). -/
noncomputable def State.parkConvergent (s : State) : State :=
  { s with threads := s.threads.map fun x =>
      if s.readyTh x && s.going (s.coreOf x.ref) && !s.halting (s.coreOf x.ref) && s.atConvergent x.ref then
        { x.closeWindows with park := .conv }
      else x }

/-! ## Sub-cores and cores -/

/-- How long pending bundles have had a ready thread (R281). -/
def State.tickPending (s : State) : State :=
  { s with bundles := s.bundles.map fun b =>
      let core := (s.bk b.blk).core
      if b.active || !s.running b.blk || !s.readyBu b then { b with readySince := none }
      else { b with readySince := orElse b.readySince (some (s.cycles (dieOfCore core))) } }

/-- Whether the shadow takes a sub-core's slot of this cycle from the leaders (R426): by the age of the oldest entry, and at once when
the queue is full. `before` are the sub-cores that issued a leader group in the previous cycle. -/
noncomputable def State.shadowTakes (s : State) (before : List Nat) (core sub : Nat) : Bool :=
  match s.shadowHead core sub with
  | none => false
  | some e =>
    let age := s.cycles (dieOfCore core) - e.since
    age ≥ 64 || (s.shadows.countP fun x => x.core == core && x.sub == sub) ≥ 512 ||
      (age ≥ 4 && ((s.pickOn core sub).isNone || before.contains (keyOf core sub)))

/-- The shadows of a cycle: each sub-core compares at most one entry, in the slot of its picker. -/
noncomputable def State.tickShadows (s : State) : State :=
  let keys := ((s.shadows.filter fun e => s.going e.core).map fun e => keyOf e.core e.sub).eraseDups
  let now := (keys.inOrder fun a b => a ≤ b).filter fun k => s.shadowTakes s.issued (k / 4) (k % 4)
  ({ s with issued := [], compared := now } : State).due (now.map fun k => .shadowIssue (k / 4) (k % 4) false)

/-- The steps that a sub-core is due (R127, R281, R291). -/
def State.subEvents (s : State) (core sub : Nat) : List Event :=
  let now := s.cycles (dieOfCore core)
  let rounds := if s.halting core then [] else
    ((s.bundlesOn core sub).filter s.converged).map fun b => Event.convergenceRound b.blk b.idx
  let waiting := s.readyPending core sub
  let places := (8 - (s.activeOn core sub).length) + ((s.activeOn core sub).filter s.allWait).length
  let late := (waiting.drop places).filter fun b => b.readySince.getD now + 1024 ≤ now
  let active := List.replicate (Nat.min waiting.length places) (Event.activeSetExchange core sub) ++
    late.map fun _ => Event.pendingBundleTimeout core sub
  let rows := if (s.wanting core sub).isEmpty then [] else [Event.rallocGrant core sub]
  rounds ++ active ++ rows

/-- Every sub-core with bundles, and the bundles whose RFREE waits. -/
def State.tickSubs (s : State) : State :=
  let keys := ((s.bundles.filter fun b => s.going (s.bk b.blk).core).map fun b => keyOf (s.bk b.blk).core b.sub).eraseDups
  let keys := keys.inOrder fun a b => a ≤ b
  s.due (keys.flatMap (fun k => s.subEvents (k / 4) (k % 4)) ++
    (s.bundles.filter fun b => b.free.isSome && s.running b.blk && s.going (s.bk b.blk).core).map fun b =>
      .rfreeRelease b.blk b.idx)

/-- Whether a thread of a block is ready (R278). -/
def State.blockReady (s : State) (blk : Nat) : Bool := s.threads.any fun x =>
  x.ref.blk == blk && (s.buOf x.ref).active && s.readyTh x

def State.tickBins (s : State) (core : Nat) : State :=
  if (s.co core).bins.isEmpty then s
  else
    let open_ (s : State) (b : Bin) : Bool := s.running b.blk && b.due.isNone
    let s := s.modCo core fun c => { c with bins := c.bins.map fun b => if open_ s b then { b with left := b.left - 1 } else b }
    let idle := (((s.co core).bins.filter (open_ s)).map (·.blk)).eraseDups.filter fun b => !s.blockReady b
    let s := idle.foldl State.flushBins s
    let elapsed := (s.co core).bins.zipIdx.filter fun b => open_ s b.1 && b.1.left == 0
    let ready := (s.co core).bins.any fun b => s.running b.blk && (b.due.isSome || b.left == 0)
    s.due (elapsed.map (fun b => .binwaitExpire core b.2) ++ if ready then [.binLaunch core] else [])

/-- The bins of every core that has a cycle. -/
def State.tickCores (s : State) : State :=
  ((List.range s.cores.length).filter s.going).foldl State.tickBins s

/-- Woken full/empty operations of running blocks (R244). -/
def State.tickFe (s : State) : State :=
  let s := s.serveDue
  s.due ((s.feq.filter fun e => s.running e.ref.blk && (match e.place with
    | .woken _ => true
    | _ => false)).map fun e => .fePresent e.ref)

/-! ## Engines -/

/-- Whether an engine's clock has a cycle in this period. -/
def State.engGoes (s : State) (e : EngId) : Bool :=
  match e with
  | .quay die => s.dieGoes die
  | .scrub => true
  | e => match engCore e with
    | some c => s.going c
    | none => true

/-- The core cycles of a command's next unit (R169): a K-group of a matrix step, after 32 cycles before the first, and one
128-byte line in each cycle otherwise. A WBLD pays for its whole image before its first band (log entry 22). -/
def Cmd.unitCycles (c : Cmd) : Nat :=
  if c.isStep then
    (if c.done == 0 then 32 else 0) +
      (if c.fn == fnMspa then 8 else if c.fn == fnMmaq || c.fn == fnMloopq || c.afmt == 9 then 256 else 16)
  else if c.fn == fnWbld && c.done == 0 then Nat.max 1 (c.len / 128)
  else 1

/-- A core cycle of a command at work (R169). -/
def Cmd.count (c : Cmd) : Cmd :=
  { c with left := some (match c.left with
    | some n => n - 1
    | none => c.unitCycles - 1) }

/-- Whether the turn on a command's quad is ending, so that it begins no further unit (R164, R311). -/
def State.stopping (s : State) (e : EngId) : Bool :=
  match engCore e with
  | some c => s.halting c
  | none => false

/-- Whether a command's unit goes on, or its next one begins. -/
def State.working (s : State) (c : Cmd) : Bool :=
  s.engGoes c.eng && s.cmdRuns c && c.st == .running && c.fault.isNone && !c.held && (c.left.isSome || !s.stopping c.eng)

/-- The step that a command is due (R158, R164, R166, R398). -/
def State.cmdEvents (s : State) (c : Cmd) : List Event :=
  if !s.engGoes c.eng || !s.cmdRuns c then []
  else match c.st with
    | .running =>
      if c.fault.isSome then [.engineFault c.id]
      else if c.held then [.engineCommandComplete c.id]
      else if c.left == some 0 then [.engineUnitComplete c.id]
      else []
    | .setAside _ => if s.cmdListed c then [] else [.engineCommandResume c.id]
    | .waitFlit => if c.since + fabricLimit ≤ s.cycles (dieOfCore (s.cmdCore c)) then [.fabricResponseTimeout c.id] else []
    | _ => []

/-- The step that a draining engine is due (R428, R429). -/
def State.drainEvents (s : State) (x : EngCtl) : List Event :=
  if x.state != 1 then []
  else if !s.holdsTarget x.eng then (if x.reset then [] else [.engineSlack x.eng])
  else if x.since + drainLimit ≤ s.engNow x.eng then [.engineFenceTimeout x.eng]
  else []

/-- The resets whose engines have drained go on (R430). -/
def State.tickResets (s : State) : State := ((s.vds.filter (·.draining)).map (·.id)).foldl State.resetOn s

/-- The engines: commands, starts, drains. -/
def State.tickEngines (s : State) : State :=
  let s : State := { s with cmds := s.cmds.map fun c => if s.working c then c.count else c }
  let waiting := ((s.cmds.filter fun c => c.st == .queued).map (·.eng)).eraseDups
  s.due (s.cmds.flatMap s.cmdEvents ++
    (waiting.filter fun e => s.engGoes e && !s.stopping e && (s.nextCmd e).isSome).map .engineCommandStart ++ s.engs.flatMap s.drainEvents)

/-- A service cycle of the scrub engine's jobs (R381, R383). -/
def State.tickScrub (s : State) : State :=
  let s := ((List.range 4).filter fun j => (s.job j).run && (s.job j).tidemark < 1024).foldl State.countScrub s
  s.due ((List.range 4).flatMap fun j =>
    let x := s.job j
    if x.run then (if x.tidemark ≥ 1024 then [.scrubJobEnd j] else if x.left == 0 then [.scrubUnit j] else [])
    else if s.scrubRuns && (x.halt || s.scrubWaiting.isSome) then [.scrubJobStart j]
    else [])

/-! ## Quay -/

/-- The reads that a queue is due (R301, R302). -/
def State.queueEvents (s : State) (vd q : Nat) : List Event :=
  let u := s.queue vd q
  (match s.accepting vd q with
    | some t => if s.dieGoes t.die then [.packetAccept vd q] else []
    | none => []) ++
  if !s.dieGoes (qHome u) then []
  else
    (if s.fetching vd q && s.pollDue vd q u.pktPoll then [.packetPoll vd q] else []) ++
      match u.nextStart with
      | some a => if !a.met && s.vdActive vd && s.pollDue vd q u.sigPoll then [.dsigPoll vd q] else []
      | none => []

/-- The packet that a die's Quay starts for a VD (R303). -/
def State.startEvents (s : State) (die vd : Nat) : List Event :=
  match s.chosenQueue die vd with
  | none => []
  | some q =>
    match s.startable vd q with
    | none => []
    | some a =>
      match a.pkt.typ with
      | 0 => [.kernelPacket vd q]
      | 1 => [.copyPacket vd q]
      | 2 => [.waitPacket vd q]
      | 3 => [.setPacket vd q]
      | _ => []

/-- Whether a die's Quay has a gang of a VD to place or bring back (R308, R314). -/
def State.hasGang (s : State) (die vd : Nat) : Bool :=
  !(s.waitingGangs die vd).isEmpty || (s.kernels.any fun k => k.vd == vd && k.home == die && k.suspended) ||
    (s.blocks.any fun b => b.vd == vd && (s.ke b.kernel).home == die && s.homeless b)

/-- What Quay is due for one VD. -/
def State.quayEvents (s : State) (vd : Vd) : List Event :=
  (vd.queues.flatMap fun q => s.queueEvents vd.id q.1) ++
    s.diesGoing.flatMap fun d =>
      if !s.vdActive vd.id then []
      else if !s.quayRuns d then []
      else s.startEvents d vd.id ++ if s.hasGang d vd.id then [.gangPlacement d vd.id] else []

/-- Quay: polls, starts, placements, completions (R301 to R309). -/
def State.tickQuay (s : State) : State :=
  s.due (s.vds.flatMap s.quayEvents ++
    (s.kernels.filter fun k => s.dieGoes k.home && s.workOver k && !s.signalling k.id).map fun k => .kernelCompletion k.id)

/-! ## The quads (R310) -/

/-- Whether an engine command of a VD is at work on a quad. -/
def State.quadWorks (s : State) (quad vd : Nat) : Bool :=
  s.cmds.any fun c => c.vd == vd && c.busy && (match engCore c.eng with
    | some core => quadOfCore core == quad
    | none => false)

/-- A cycle of a turn: D of a VD in the ring falls by one, and the idle count goes on or starts again. -/
def State.countTurn (s : State) (quad : Nat) : State :=
  match s.quadVd quad with
  | none => s
  | some v =>
    let busy := s.quadWorks quad v
    s.modQuad quad fun x =>
      { x with
        deficit := if x.ring.contains v then assocSet v (x.credit v - 1) x.deficit else x.deficit
        idle := if busy then 0 else x.idle + 1 }

/-- The step that a quad is due. -/
def State.quadEvents (s : State) (quad : Nat) : List Event :=
  let x := s.quad quad
  match x.vd with
  | none => if x.ring.isEmpty || x.hold then [] else [.turnStart quad]
  | some v =>
    if x.ending then [.turnEnd quad]
    else if x.ring.isEmpty then []
    else if x.credit v ≤ 0 then [.turnEnd quad]
    else if x.idle > 4096 then [.idleTurnEnd quad]
    else (s.toResume quad v).map .blockResume

/-- One quad's cycle: it is charged to the VD that held a place in the ring before (R310). -/
def State.tickQuad (s : State) (quad : Nat) : State :=
  if !(s.rmap quad).assigned && (s.quad quad).vd.isNone then s
  else
    let s := (s.countTurn quad).updateRing quad
    s.due (s.quadEvents quad)

/-- The quads of the dies that have a cycle. -/
def State.tickQuads (s : State) : State := ((List.range 32).filter fun q => s.dieGoes (q / 16)).foldl State.tickQuad s

/-- The departures of quads that have waited for halts (R318, R319). -/
def State.tickLeaves (s : State) : State :=
  let s := s.retiring.foldl State.retireOn s
  let s := s.parting.foldl (fun s c => s.holdQuads (s.leavers c.a0.toNat c.a1.toNat)) s
  s.due ((s.parting.filter fun c => s.standing (s.leavers c.a0.toNat c.a1.toNat) && !s.agenda.contains (.setPart c)).map
    fun c => .setPart c)

/-! ## Host writes -/

/-- A waiting posted write sent, when its translation is there; else a Translation Request is sent for it, unless one is on its way
(R366, R367). The answer says whether it has left. -/
def State.postStep (s : State) (x : PostWait) : State × Bool :=
  if s.streamFailed x.stream then (s, false)
  else if !s.postBlocked x then (({ s with posts := s.posts.erase x } : State).emitPosted x, true)
  else if s.atsHeld x.port (s.vd x.vd).vfn x.haddr || !s.portFree x.port || s.atsPending x.vd x.ap x.haddr then (s, false)
  else
    let (tag, s) := s.askPost x
    ({ s with posts := s.posts.map fun y => if y == x then { y with tag := some tag } else y }, false)

/-- The waiting posted writes, in order on each port for each VD. -/
def State.tickPosts (s : State) : State :=
  (s.posts.foldl (fun (a : State × List (Nat × Nat)) x =>
    if a.2.contains (x.vd, x.port) then a
    else match a.1.postStep x with
      | (s, true) => (s, a.2)
      | (s, false) => (s, (x.vd, x.port) :: a.2)) (s, [])).1

/-- The zero-length reads behind the host writes of kernels whose blocks have ended, and of copies, on the ports that can take them
(R195, R214). -/
def State.tickFlush (s : State) : State :=
  s.kernels.foldl (fun (s : State) k => k.posted.foldl (fun (s : State) p =>
    if !s.flushFree p then s
    else
      let (tag, s) := s.sendFlush k.vd p none
      s.modKe k.id fun x => { x with posted := setDel p x.posted, flush := x.flush ++ [tag] }) s) s

/-! ## Meters, Harbour, links -/

/-- The home slices (R334). -/
def State.tickSlices (s : State) : State :=
  s.due ((s.diesGoing.filter fun d => s.cycles d % 1024 == 0).map .groyneWindowRefill ++
    (s.slices.filter fun x => s.dieGoes x.die && !x.waiting.isEmpty).map fun x => .groyneServe x.die x.slice)

/-- A service cycle of the moves in progress; a deadline stands still while the owner is reset (R337). -/
def State.countMoves (s : State) : State :=
  { s with moves := s.moves.map fun m =>
      if m.unmapped || (s.vd m.owner).vstate == 3 then m else { m with left := m.left - 1 } }

/-- The service cycles of a budget period (R330). -/
def servicePeriodCycles : Nat := 1048576

/-- What the monitors sense, free values of the moment (log entry 35). -/
def sensed (n : Nat) : Event :=
  .monitorUpdate (Config.sensorA n).toNat (Config.sensorB n).toNat (Config.sensorPower n).toNat

/-- What a service cycle brings: deadlines, the budget period, timeouts, monitor updates, clock steps (R330, R337, R389, R439, R440). -/
def State.serviceEvents (s : State) : List Event :=
  ((s.moves.filter fun m => !m.unmapped && m.left == 0 && (s.vd m.owner).vstate != 3).map fun m => .moveDeadlineExpire m.blk) ++
    (if s.clk.svc % servicePeriodCycles == 0 then [.servicePeriod] else []) ++
    (if s.mons.seen < s.monitorIndex then [sensed s.monitorIndex] else []) ++
    ((s.reqs.filter fun r => r.since + completionLimit ≤ s.clk.svc).map fun r => .completionTimeout r.tag) ++
    (([0, 1].filter fun d =>
      s.mons.low d != 0 && s.mons.target d < s.mons.base d && s.mons.low d - 1 + stepUpDelay ≤ s.clk.svc).map .clockStepUp)

/-- The call rings: what waits for the end of a call in host memory, and the calls that Harbour takes (R327, R330). -/
def State.tickRings (s : State) : State :=
  let ids := s.vds.map (·.id)
  let s := ids.foldl (fun (s : State) v => ((s.finishCall v).finishFq v).shotDone v) s
  (ids.foldl State.apertureDone s).serveRings

/-- A service cycle. -/
def State.tickService (s : State) (before : Nat) : State :=
  if s.clk.svc == before then s
  else
    let s := s.countMoves.tickScrub
    (s.due s.serviceEvents).tickRings

/-- Streams whose counters ran out are Insecure, and what has been given to a failed one is aborted (R379, R380). -/
def State.tickStreams (s : State) : State :=
  let s := ((s.streams.filter (·.spent)).map (·.id)).foldl State.insecure s
  ((s.streams.filter (·.failed)).map (·.id)).foldl State.abortStream s

/-- The transmit count at which a key refresh is asked for (R379). -/
def refreshCount : Nat := 2 ^ 62

/-- One KEYREFRESH entry for each key set that nears its end (R379, R418). -/
def State.tickRefresh (s : State) : State :=
  let near (x : Stream) : Bool := !x.noticed && x.secure && x.counters.any fun c => !c.2.1 && c.2.2 ≥ refreshCount
  (s.streams.filter near).foldl (fun (s : State) x =>
    (s.modStream x.id fun y => { y with noticed := true }).post 0
      { kind := 0x0D, aux := x.id % 64 + 2 ^ 8 * (x.id / 64) }) s

/-- Arrays whose check bits are being rewritten go on by one word in each cycle of their die (R425). -/
def State.tickEcc (s : State) : State :=
  ((List.range s.ecc.length).filter fun i => (s.ecc.getD i {}).busy && s.dieGoes (eccDie i)).foldl State.reencode s

/-! ## The tick -/

/-- One period of the fastest clock. -/
noncomputable def State.tick (s : State) : State :=
  let before := s.clk.svc
  let s := s.tickClocks.tickThreads.parkConvergent.tickPending.tickShadows.tickSubs.tickCores.tickFe
  let s := s.tickEngines.tickResets.tickQuay.tickQuads.tickLeaves.tickSlices.tickPosts.tickFlush
  (s.tickService before).tickStreams.tickRefresh.tickEcc.retryFlits

/-- One step: the oldest entry of the agenda, the next pick of the current cycle, or a period of time. After a thermal
shutdown only a cold reset has an effect, and the run ends when none is there (R440). -/
noncomputable def State.advance (s : State) : Host.Outcome State Fault Refusal :=
  match s.agenda with
  | e :: r =>
    let s : State := { s with agenda := r }
    if !s.mons.stopped then exec e.toInstr s
    else match e with
      | .coldReset _ => exec e.toInstr s
      | _ => .next s
  | [] =>
    if s.mons.stopped then .fault .clocksStopped
    else match s.pick with
      | some p => s.issuePick p
      | none => .next s.tick

end Sys2Proof.Machine
end

