-- ==== Sys2Proof/Machine/Load.lean ====
section
/-! DEFINITION. A program in place: the state in which one thread of one VD stands at a given word. It stands for what the
host does from outside (boot, CREATE_VD, page tables, a kernel packet) before a program's first instruction runs (log
entry 1). -/

namespace Sys2Proof.Machine

/-- Where the word stands: an address that the tables map to itself. -/
def codeAddr : Nat := 0x50000

/-- Where its trap handler stands. -/
def handlerAddr : Nat := 0x50100

/-- The entry of a table that lies at an address, and of a 64 KiB page with every permission, ACC and DIRTY (R342). -/
def tableEntry (gpa : Nat) : Nat := gpa + 1
def leafEntry (gpa : Nat) : Nat := gpa + 0xDF

/-- The four tables that map `codeAddr`, one at each level (R341), and the word. -/
def loadedMem (m : List Host.Cell) (w : Nat) : List Host.Cell :=
  let m := writeCells m 0x10000 8 (tableEntry 0x20000)
  let m := writeCells m 0x20000 8 (tableEntry 0x30000)
  let m := writeCells m 0x30000 8 (tableEntry 0x40000)
  let m := writeCells m (0x40000 + 8 * 5) 8 (leafEntry codeAddr)
  writeCells m codeAddr 4 w

/-- An ACTIVE VD whose first GPA block is machine block 0. -/
def loadedVd : Vd :=
  { id := 1, vstate := 2, svcw := 1, root := 0x10000, s2 := [(0, 0)], irqs := List.replicate 12 {}, bud := 4096 }

/-- The thread, at the word; it waits in its round when the word is bundle-convergent. -/
def loadedThread (blk : Nat) (conv : Bool) : Thread :=
  { freshThread { blk := blk, bun := 0, lane := 0 } (dw codeAddr) 0 0 (dw handlerAddr) with park := if conv then .conv else .running }

/-- Its bundle, active on sub-core 0 of core 0. -/
def loadedBundle (blk : Nat) (conv : Bool) : Bundle :=
  let b := { freshBundle blk 0 0 0 128 with active := true }
  if conv then { b with round := [dw codeAddr], roundMembers := [0] } else b

/-- Whether a word is a bundle-convergent instruction. -/
noncomputable def wordConvergent (w : Nat) : Bool :=
  match decode w with
  | .ok i => convergent i
  | .error _ => false

/-- A word in place, to be issued by the very next step. -/
noncomputable def State.withWordAt (s : State) (w : Nat) : State :=
  let k := s.seq
  let conv := wordConvergent w
  { s with
    agenda := [], cursor := 0, seq := s.seq + 3
    clk := { s.clk with goA := true, goB := true }
    mem := loadedMem s.mem w
    poison := s.poison.filter fun p => 0x60000 ≤ p
    l2bad := s.l2bad.filter fun p => 0x60000 ≤ p
    owner := s.owner.set 0 { kind := 3, part := 0, vd := 1 }
    parts := s.parts.modify 0 fun p => { p with pstate := 1, nvd := 1, nquad := 1, nblk := 1 }
    remap := s.remap.set 0 { assigned := true, part := 0, lquad := 0 }
    quads := s.quads.set 0 { ring := [1], deficit := [(1, 8192)], vd := some 1, last := 1 }
    cores := s.cores.modify 0 fun c => { c with vd := 1, tlb := [], walks := [], lanes := [] }
    vds := s.vds.filter (fun v => v.id != 1) ++ [loadedVd]
    kernels := [{ id := k, vd := 1, q := 0, pkt := 0, home := 0, desc := { bundles := 1 }, next := 1 }]
    gangs := [{ id := k + 1, kernel := k, ticket := 1, quad := 0, size := 1, started := true }]
    blocks := [{ id := k + 2, kernel := k, n := 0, gang := k + 1, gangIdx := 0, vd := 1, core := 0, quad := 0 }]
    bundles := [loadedBundle (k + 2) conv]
    threads := [loadedThread (k + 2) conv]
    shadows := []
    boot := { s.boot with booted := true, caps := [1, 2, 3, 4, 5, 6, 7, 8] }
    mons := { s.mons with stopped := false } }

end Sys2Proof.Machine
end

