-- ==== Sys2Proof/Machine/Step.lean ====
section
/-! DEFINITION. The step of the machine, and a state that holds a given instruction where the next step fetches. -/

namespace Sys2Proof.Machine

/-- One step of the package. -/
noncomputable def step (s : State) : Host.Outcome State Fault Refusal := s.advance

/-- The state with an instruction's word, its bits numbered as the opcode table numbers them, placed where the next step
fetches it. -/
noncomputable def State.withFetchWord (s : State) (nbits w : Nat) : State := s.withWordAt (w % 2 ^ nbits)

end Sys2Proof.Machine
end

