-- ==== Sys2Proof/Safety.lean ====
section
/-! DEFINITION. What counts as a safe run: no step is refused, and the run stops only where the spec stops the package's
clocks. -/

namespace Sys2Proof.Safety

open Sys2Proof.Machine

/-- An outcome that goes on. -/
def goesOn (o : Host.Outcome State Fault Refusal) : Prop := ∃ t, o = .next t

/-- A safe outcome: the machine goes on, or a thermal shutdown has stopped it (R440). -/
def safe (o : Host.Outcome State Fault Refusal) : Prop := goesOn o ∨ o = .fault .clocksStopped

/-- A run whose every step is safe. -/
def safeRun (k : Nat) (s : State) : Prop := safe (Sys2Proof.core.run k s)

/-! ## The terms that claims use -/

/-- A group of one live thread, of a VD that Undertow does not shadow. -/
structure Sole (s : State) (t : TRef) : Prop where
  group : s.group.refs = [t]
  live : s.live t = true
  plain : s.shadowed = false

/-- Such a group whose thread is active (R37). -/
structure Alone (s : State) (t : TRef) : Prop extends Sole s t where
  active : (s.th t).active = true

/-- The registers that an instruction names lie in the thread's window (R28), and none that it reads holds a poisoned word
(R423). -/
structure Readable (s : State) (t : TRef) (regs reads : List (Nat × Nat)) : Prop where
  window : windowTrap (s.buOf t) regs = none
  sound : (s.buOf t).badRegs t.lane reads = false

/-- The thread is live in `s` once its region has closed, and its operands are readable then: what an instruction that
closes the region needs (R407, R410). -/
structure Closes (s : State) (t : TRef) (regs reads : List (Nat × Nat)) : Prop where
  window : windowTrap (s.buOf t) regs = none
  live : (s.closeRegion t).live t = true
  sound : ((s.closeRegion t).buOf t).badRegs t.lane reads = false

/-- A group of one bundle's threads, in lane order, in a convergence round (R127), in a VD that Undertow does not shadow, with
no stores in their buffers; the bundle's rows stand as R27 lays them out, with no poison and no sidecar. -/
structure InRound (s : State) (blk bun : Nat) (l : List TRef) : Prop where
  group : s.group.refs = l
  round : s.group.round = true
  ordered : (l.map (·.lane)).Pairwise (· < ·)
  mates : ∀ t ∈ l, t.blk = blk ∧ t.bun = bun ∧ t.lane < 32
  live : ∀ t ∈ l, s.live t = true
  stores : ∀ t ∈ l, (s.th t).stores = []
  plain : s.shadowed = false
  bundle : ∃ b ∈ s.bundles, b.blk = blk ∧ b.idx = bun
  rows : (s.bu blk bun).rf.length = 32 ∧ ∀ r ∈ (s.bu blk bun).rf, r.length = (s.bu blk bun).alloc
  sound : (s.bu blk bun).poison = []
  bare : attached (s.bu blk bun).viewCk (s.bu blk bun).viewAcc = false

/-- The state after a thread's instruction that closes no region: the thread steps past it. -/
def past (s : State) (t : TRef) : State := s.modTh t Thread.step

/-- The state after a thread's region-closing instruction: the next region begins behind it. -/
def pastRegion (s : State) (t : TRef) : State := s.modTh t Thread.stepRegion

/-- The bytes of device memory and of every scratchpad are listed in canonical form. -/
def MemoryWf (s : State) : Prop := Memory.wf s.mem = true ∧ ∀ b ∈ s.blocks, Memory.wf b.mem = true

end Sys2Proof.Safety
end

