-- ==== Sys2Proof/Certificates/Slice0/Obligations.lean ====
section
/-! DEFINITION. The statements about the Ostar model. Each docstring names the rule of the spec that it formalises. -/

namespace Sys2Proof.Claims

open Sys2Proof.Machine Sys2Proof.Safety

/-! ## Integer instructions: constructor and result, as the tables of R113 to R117 give them -/

/-- The ALU instructions of two sources (R113). -/
noncomputable def alu : List ((Nat → Nat → Nat → Instr) × (Word → Word → Word)) := [
  (.add, fun x y => BitVec.ofNat 32 (x.toNat + y.toNat)),
  (.sub, fun x y => BitVec.ofInt 32 ((x.toNat : Int) - y.toNat)),
  (.carry, fun x y => if 2 ^ 32 ≤ x.toNat + y.toNat then 1 else 0),
  (.borrow, fun x y => if x.toNat < y.toNat then 1 else 0),
  (.mul, fun x y => BitVec.ofNat 32 (x.toNat * y.toNat)),
  (.mulh, fun x y => BitVec.ofInt 32 (x.toInt * y.toInt / 2 ^ 32)),
  (.mulhn, fun x y => BitVec.ofNat 32 (x.toNat * y.toNat / 2 ^ 32)),
  (.and, fun x y => x &&& y),
  (.or, fun x y => x ||| y),
  (.xor, fun x y => x ^^^ y),
  (.andn, fun x y => x &&& ~~~ y),
  (.shl, fun x y => if y.toNat < 32 then BitVec.ofNat 32 (x.toNat * 2 ^ y.toNat) else 0),
  (.shr, fun x y => if y.toNat < 32 then BitVec.ofNat 32 (x.toNat / 2 ^ y.toNat) else 0),
  (.sra, fun x y => BitVec.ofInt 32 (x.toInt / 2 ^ Nat.min y.toNat 31)),
  (.rol, fun x y => x.rotateLeft (y.toNat % 32)),
  (.ror, fun x y => x.rotateRight (y.toNat % 32)),
  (.min, fun x y => if x.toInt ≤ y.toInt then x else y),
  (.max, fun x y => if x.toInt ≤ y.toInt then y else x),
  (.minn, fun x y => if x.toNat ≤ y.toNat then x else y),
  (.maxn, fun x y => if x.toNat ≤ y.toNat then y else x),
  (.sel, fun x y => if x ≠ 0 then x else y),
  (.absdiff, fun x y => BitVec.ofNat 32 (x.toInt - y.toInt).natAbs),
  (.mulhsn, fun x y => BitVec.ofInt 32 (x.toInt * (y.toNat : Int) / 2 ^ 32))]

/-- One byte of BSEL, as the pseudocode of R113 builds it. -/
def bselByte (x c : Word) (i : Nat) : Byte :=
  let s := (c.toNat / 2 ^ (2 * i)) % 4
  let b : Byte := BitVec.ofNat 8 (x.toNat / 2 ^ (8 * s))
  if c.getLsbD (8 + i) then 0 else if c.getLsbD (12 + i) then (if b.getLsbD 7 then 255 else 0) else b

/-- The ALU instructions that write a pair (R114); the last three take their amount from a single register. -/
noncomputable def alu64 : List ((Nat → Nat → Nat → Instr) × (DWord → DWord → DWord)) := [
  (.addd, fun x y => BitVec.ofNat 64 (x.toNat + y.toNat)),
  (.subd, fun x y => BitVec.ofInt 64 ((x.toNat : Int) - y.toNat)),
  (.muld, fun x y => BitVec.ofNat 64 (x.toNat * y.toNat))]

noncomputable def shift64 : List ((Nat → Nat → Nat → Instr) × (DWord → Nat → DWord)) := [
  (.shld, fun x n => if n < 64 then BitVec.ofNat 64 (x.toNat * 2 ^ n) else 0),
  (.shrd, fun x n => if n < 64 then BitVec.ofNat 64 (x.toNat / 2 ^ n) else 0),
  (.srad, fun x n => BitVec.ofInt 64 (x.toInt / 2 ^ Nat.min n 63))]

/-- The number of leading zero bits of a `w`-bit value: the place, counted from the top, of the first bit that is set. -/
def leadingZeros {w : Nat} (x : BitVec w) : Nat := ((List.range w).find? fun i => x.getLsbD (w - 1 - i)).getD w

/-- The number of trailing zero bits. -/
def trailingZeros {w : Nat} (x : BitVec w) : Nat := ((List.range w).find? fun i => x.getLsbD i).getD w

/-- The number of bits set. -/
def onesOf {w : Nat} (x : BitVec w) : Nat := (List.range w).countP fun i => x.getLsbD i

/-- UNARY with a 32-bit source and result (R115). -/
noncomputable def unary : List ((Nat → Nat → Instr) × (Word → Word)) := [
  (.mov, fun x => x),
  (.not, fun x => ~~~ x),
  (.neg, fun x => BitVec.ofInt 32 (-x.toInt)),
  (.abs, fun x => BitVec.ofNat 32 x.toInt.natAbs),
  (.clz, fun x => BitVec.ofNat 32 (leadingZeros x)),
  (.ctz, fun x => BitVec.ofNat 32 (trailingZeros x)),
  (.popc, fun x => BitVec.ofNat 32 (onesOf x)),
  (.brev, fun x => x.reverse),
  (.bswap, fun x => x.extractLsb' 0 8 ++ x.extractLsb' 8 8 ++ x.extractLsb' 16 8 ++ x.extractLsb' 24 8),
  (.sextb, fun x => (x.setWidth 8).signExtend 32),
  (.sexth, fun x => (x.setWidth 16).signExtend 32),
  (.zextb, fun x => (x.setWidth 8).setWidth 32),
  (.zexth, fun x => (x.setWidth 16).setWidth 32)]

/-- UNARY with a pair as its source (R115): the first two write a pair, the others a register. -/
noncomputable def unary64 : List ((Nat → Nat → Instr) × (DWord → DWord)) := [
  (.movd, fun x => x),
  (.negd, fun x => BitVec.ofInt 64 (-x.toInt))]

noncomputable def count64 : List ((Nat → Nat → Instr) × (DWord → Word)) := [
  (.clzd, fun x => BitVec.ofNat 32 (leadingZeros x)),
  (.popcd, fun x => BitVec.ofNat 32 (onesOf x))]

/-- The immediate forms (R116) with the field as encoded: a 12-bit immediate, or a 5-bit amount. -/
noncomputable def immediate : List ((Nat → Nat → Nat → Instr) × Nat × (Word → Nat → Word)) := [
  (.addi, 12, fun x i => BitVec.ofInt 32 (x.toNat + signExt 12 i)),
  (.andi, 12, fun x i => x &&& BitVec.ofNat 32 i),
  (.ori, 12, fun x i => x ||| BitVec.ofNat 32 i),
  (.xori, 12, fun x i => x ^^^ BitVec.ofNat 32 i),
  (.shli, 5, fun x n => BitVec.ofNat 32 (x.toNat * 2 ^ n)),
  (.shri, 5, fun x n => BitVec.ofNat 32 (x.toNat / 2 ^ n)),
  (.srai, 5, fun x n => BitVec.ofInt 32 (x.toInt / 2 ^ n)),
  (.rori, 5, fun x n => x.rotateRight n),
  (.muli, 12, fun x i => BitVec.ofInt 32 (x.toNat * signExt 12 i))]

/-- Bit `i` of a field insertion (R117). -/
def insertedBit (old x : Word) (pos len i : Nat) : Bool :=
  if pos ≤ i ∧ i < pos + len then x.getLsbD (i - pos) else old.getLsbD i

end Sys2Proof.Claims

open Sys2Proof Sys2Proof.Machine Sys2Proof.Safety

/-! ## Encoding and the step -/

/-- R51, R60 to R76: every well-formed instruction's word decodes to it, with every operand. -/
def Obligations.DecodeEncode : Prop :=
  ∀ i : Instr, i.isWord = true → i.wellFormed = true → decode (encode i) = .ok i

/-- R77: a word decodes to well-formed instructions only, and the instruction's encoding is the word: no assigned bit is
ignored, so that two words never decode to one instruction. -/
def Obligations.EncodeDecode : Prop :=
  ∀ (w : Nat) (i : Instr), w < 2 ^ 32 → decode w = .ok i → i.isWord = true ∧ i.wellFormed = true ∧ encode i = w

/-! ## Integer instructions -/

/-- R113: what the 32-bit ALU instructions write, and that nothing else happens but the step to the next word. -/
def Obligations.AluResults : Prop :=
  ∀ (s : State) (t : TRef) (d a b : Nat), Alone s t →
    (Readable s t [(d, 1), (a, 1), (b, 1)] [(a, 1), (b, 1)] →
      (∀ p ∈ Claims.alu, exec (p.1 d a b) s = .next (past (s.setReg t d (p.2 (s.reg t a) (s.reg t b))) t)) ∧
      exec (.bsel d a b) s = .next (past (s.setReg t d
        (Claims.bselByte (s.reg t a) (s.reg t b) 3 ++ Claims.bselByte (s.reg t a) (s.reg t b) 2 ++
          Claims.bselByte (s.reg t a) (s.reg t b) 1 ++ Claims.bselByte (s.reg t a) (s.reg t b) 0)) t)) ∧
    (Readable s t [(d, 1), (a, 1), (b, 1), (d, 1)] [(a, 1), (b, 1), (d, 1)] →
      exec (.mad d a b) s = .next (past (s.setReg t d
        (BitVec.ofNat 32 ((s.reg t a).toNat * (s.reg t b).toNat + (s.reg t d).toNat))) t))

/-- R114, R115: what the 64-bit ALU instructions and the UNARY instructions write. -/
def Sys2Proof.Claims.PairAndUnaryResults : Prop :=
  ∀ (s : State) (t : TRef) (d a b : Nat), Alone s t →
    (Readable s t [(d, 2), (a, 2), (b, 2)] [(a, 2), (b, 2)] → ∀ p ∈ Claims.alu64,
      exec (p.1 d a b) s = .next (past (s.setPair t d (p.2 (s.pair t a) (s.pair t b))) t)) ∧
    (Readable s t [(d, 2), (a, 2), (b, 1)] [(a, 2), (b, 1)] → ∀ p ∈ Claims.shift64,
      exec (p.1 d a b) s = .next (past (s.setPair t d (p.2 (s.pair t a) (s.reg t b).toNat)) t)) ∧
    (Readable s t [(d, 1), (a, 1)] [(a, 1)] → ∀ p ∈ Claims.unary,
      exec (p.1 d a) s = .next (past (s.setReg t d (p.2 (s.reg t a))) t)) ∧
    (Readable s t [(d, 2), (a, 2)] [(a, 2)] → ∀ p ∈ Claims.unary64,
      exec (p.1 d a) s = .next (past (s.setPair t d (p.2 (s.pair t a))) t)) ∧
    (Readable s t [(d, 1), (a, 2)] [(a, 2)] → ∀ p ∈ Claims.count64,
      exec (p.1 d a) s = .next (past (s.setReg t d (p.2 (s.pair t a))) t))

/-- R116, R117: what the immediate forms, LUI, MOVI and the bit-field instructions write. -/
def Sys2Proof.Claims.ImmediateResults : Prop :=
  ∀ (s : State) (t : TRef) (d a : Nat), Alone s t →
    (Readable s t [(d, 1), (a, 1)] [(a, 1)] →
      (∀ p ∈ Claims.immediate, ∀ i < 2 ^ p.2.1,
        exec (p.1 d a i) s = .next (past (s.setReg t d (p.2.2 (s.reg t a) i)) t)) ∧
      (∀ pos l, pos + (l + 1) ≤ 32 →
        exec (.bfeN32 d a pos l) s = .next (past (s.setReg t d
          (BitVec.ofNat 32 ((s.reg t a).toNat / 2 ^ pos % 2 ^ (l + 1)))) t) ∧
        exec (.bfeS32 d a pos l) s = .next (past (s.setReg t d
          (((s.reg t a).extractLsb' pos (l + 1)).signExtend 32)) t))) ∧
    (Readable s t [(d, 1)] [] →
      (∀ h < 2 ^ 19, exec (.lui d h) s = .next (past (s.setReg t d (BitVec.ofNat 32 (h * 2 ^ 13))) t)) ∧
      (∀ i < 2 ^ 19, exec (.movi d i) s = .next (past (s.setReg t d ((BitVec.ofNat 19 i).signExtend 32)) t))) ∧
    (Readable s t [(d, 1), (a, 1), (d, 1)] [(a, 1), (d, 1)] → ∀ pos l, pos + (l + 1) ≤ 32 →
      ∃ v : Word, exec (.bfi d a pos l) s = .next (past (s.setReg t d v) t) ∧
        ∀ i < 32, v.getLsbD i = Claims.insertedBit (s.reg t d) (s.reg t a) pos (l + 1) i)

/-! ## Compares and the predicate stack -/

namespace Sys2Proof.Claims

/-- The integer conditions of cc4 (R118) on two patterns. -/
def intHolds {w : Nat} (c : Nat) (x y : BitVec w) : Bool :=
  match c with
  | 0 => x == y
  | 1 => x != y
  | 2 => decide (x.toInt < y.toInt)
  | 3 => decide (x.toInt ≤ y.toInt)
  | 4 => decide (y.toInt < x.toInt)
  | 5 => decide (y.toInt ≤ x.toInt)
  | 6 => decide (x.toNat < y.toNat)
  | 7 => decide (x.toNat ≤ y.toNat)
  | 8 => decide (y.toNat < x.toNat)
  | 9 => decide (y.toNat ≤ x.toNat)
  | _ => x &&& y != 0

/-- A compare's result and flags (R118, R120): integers by `intHolds`; floats by `fcompare` on the operands' values, an f32 or
f16 subnormal read as zero under FTZ. -/
def compared (s : State) (t : TRef) (c a b ty : Nat) : Bool × FFlags :=
  let ftz := (s.th t).ftz
  match ty with
  | 0 => (intHolds c (s.reg t a) (s.reg t b), noFlag)
  | 1 => (intHolds c (s.pair t a) (s.pair t b), noFlag)
  | 2 => fcompare c (unpack .f32 (flushIn .f32 ftz (s.reg t a).toNat)) (unpack .f32 (flushIn .f32 ftz (s.reg t b).toNat))
  | 3 => fcompare c (unpack .f64 (s.pair t a).toNat) (unpack .f64 (s.pair t b).toNat)
  | 4 => fcompare c (unpack .f16 (flushIn .f16 ftz ((s.reg t a).toNat % 65536)))
      (unpack .f16 (flushIn .f16 ftz ((s.reg t b).toNat % 65536)))
  | _ => fcompare c (unpack .bf16 ((s.reg t a).toNat % 65536)) (unpack .bf16 ((s.reg t b).toNat % 65536))

/-- A thread's stack after a combining compare (R119), AND for pm 1 and OR for pm 2: changed only where every entry below the
top is 1. -/
def combined (m : Nat) (c : Bool) : List Bool → List Bool
  | [] => []
  | top :: r => if r.all id then (if m = 1 then top && c else top || c) :: r else top :: r

/-- A stack with its top entry inverted. -/
def inverted : List Bool → List Bool
  | [] => []
  | top :: r => (!top) :: r

end Sys2Proof.Claims

/-- R118, R119, R120: CMP and CMPI push the condition on an active thread; in AND and OR mode they combine it into the top of
an enclosed thread, active or not, and leave a thread that is not enclosed as it was. Only an active thread sets flags. A pushing
compare pushes 0 on an inactive thread (R37). With 16 entries it raises PRED_OVERFLOW, and a combining one without any PRED_UNDERFLOW
(R78 step 5). -/
def Obligations.CompareResults : Prop :=
  ∀ (s : State) (t : TRef) (c m a b ty i : Nat), Sole s t → ty < 6 → i < 2 ^ 12 →
    let rs := [(a, cmpWidth ty), (b, cmpWidth ty)]
    let r := Claims.compared s t c a b ty
    let ri := Claims.intHolds c (s.reg t a) (BitVec.ofInt 32 (signExt 12 i))
    (cmpAllowed c 0 ty = true → (s.th t).active = true → (s.th t).stack.length < 16 →
      (Readable s t rs rs → exec (.cmp c 0 a b ty) s =
        .next (past (s.modTh t fun x => { x.raise r.2 with stack := r.1 :: x.stack }) t)) ∧
      (ty = 0 → Readable s t [(a, 1)] [(a, 1)] → exec (.cmpi c 0 a i) s =
        .next (past (s.modTh t fun x => { x with stack := ri :: x.stack }) t))) ∧
    (m = 1 ∨ m = 2 → cmpAllowed c m ty = true → (s.th t).stack ≠ [] → ((s.th t).stack.drop 1).all id = true →
      (Readable s t rs rs → exec (.cmp c m a b ty) s = .next (past (s.modTh t fun x =>
        { (if x.active then x.raise r.2 else x) with stack := Claims.combined m r.1 x.stack }) t)) ∧
      (ty = 0 → Readable s t [(a, 1)] [(a, 1)] → exec (.cmpi c m a i) s =
        .next (past (s.modTh t fun x => { x with stack := Claims.combined m ri x.stack }) t))) ∧
    (m = 1 ∨ m = 2 → cmpAllowed c m ty = true → ((s.th t).stack.drop 1).all id = false → (s.th t).stack ≠ [] →
      (windowTrap (s.buOf t) rs = none → exec (.cmp c m a b ty) s = .next (past s t)) ∧
      (ty = 0 → windowTrap (s.buOf t) [(a, 1)] = none → exec (.cmpi c m a i) s = .next (past s t))) ∧
    (let zero := past (s.modTh t fun x => { x with stack := false :: x.stack }) t
      let full := s.trap t causePredOverflow 0
      let none_ := s.trap t causePredUnderflow 0
      (windowTrap (s.buOf t) rs = none →
        (cmpAllowed c 0 ty = true → (s.th t).active = false → (s.th t).stack.length < 16 → exec (.cmp c 0 a b ty) s = .next zero) ∧
        (cmpAllowed c 0 ty = true → 16 ≤ (s.th t).stack.length → exec (.cmp c 0 a b ty) s = .next full) ∧
        (m = 1 ∨ m = 2 → cmpAllowed c m ty = true → (s.th t).stack = [] → exec (.cmp c m a b ty) s = .next none_)) ∧
      (ty = 0 → windowTrap (s.buOf t) [(a, 1)] = none →
        (cmpAllowed c 0 ty = true → (s.th t).active = false → (s.th t).stack.length < 16 → exec (.cmpi c 0 a i) s = .next zero) ∧
        (cmpAllowed c 0 ty = true → 16 ≤ (s.th t).stack.length → exec (.cmpi c 0 a i) s = .next full) ∧
        (m = 1 ∨ m = 2 → cmpAllowed c m ty = true → (s.th t).stack = [] → exec (.cmpi c m a i) s = .next none_)))

/-- R121: PELSE, PEND, PGET, PPUSH and PDEPTH on one thread's predicate stack. -/
def Obligations.PredicateStack : Prop :=
  ∀ (s : State) (t : TRef) (d a : Nat), Sole s t →
    ((s.th t).stack ≠ [] →
      exec .pelse s = .next (past (s.modTh t fun x => { x with stack := Claims.inverted x.stack }) t) ∧
      exec .pend s = .next (past (s.modTh t fun x => { x with stack := x.stack.drop 1 }) t)) ∧
    ((s.th t).active = true → Readable s t [(d, 1)] [] →
      exec (.pget d) s = .next (past (s.setReg t d (1#32 <<< t.lane)) t) ∧
      exec (.pdepth d) s = .next (past (s.setReg t d (BitVec.ofNat 32 (s.th t).stack.length)) t)) ∧
    ((s.th t).stack.length < 16 → Readable s t [(a, 1)] [(a, 1)] →
      exec (.ppush a) s = .next (past (s.modTh t fun x =>
        { x with stack := ((s.th t).active && s.reg t a != 0) :: x.stack }) t))

/-! ## Affine and special registers -/

namespace Sys2Proof.Claims

/-- The affine writes (R123): the pair written from the two source pairs, and for ASETB and ASETS from the register value. -/
noncomputable def affine2 : List ((Nat → Nat → Nat → Instr) × (DWord × Word → DWord × Word → DWord × Word)) := [
  (.aadd, fun x y => (x.1 + y.1, x.2 + y.2)),
  (.asub, fun x y => (x.1 - y.1, x.2 - y.2))]

noncomputable def affineImm : List ((Nat → Nat → Nat → Instr) × Nat × (DWord × Word → Nat → DWord × Word)) := [
  (.ashl, 6, fun x n => (BitVec.ofNat 64 (x.1.toNat * 2 ^ n), if n < 32 then BitVec.ofNat 32 (x.2.toNat * 2 ^ n) else 0)),
  (.amuli, 10, fun x i => (BitVec.ofInt 64 (x.1.toNat * signExt 10 i), BitVec.ofInt 32 (x.2.toNat * signExt 10 i))),
  (.aaddi, 10, fun x i => (BitVec.ofInt 64 (x.1.toNat + signExt 10 i), x.2))]

/-- The special registers of R39 with 32 bits, and those with 64. -/
def special32 : List (Nat × (State → TRef → Nat)) := [
  (0x000, fun _ t => t.lane),
  (0x001, fun _ t => t.bun),
  (0x002, fun s t => (s.bkOf t).n % (s.keOf t).x),
  (0x003, fun s t => (s.bkOf t).n / (s.keOf t).x % (s.keOf t).y),
  (0x004, fun s t => (s.bkOf t).n / ((s.keOf t).x * (s.keOf t).y)),
  (0x005, fun s t => (s.bkOf t).gangIdx),
  (0x006, fun s t => (s.keOf t).x),
  (0x007, fun s t => (s.keOf t).y),
  (0x008, fun s t => (s.keOf t).z),
  (0x009, fun s t => 4 * (s.bkOf t).quad + (s.bkOf t).core % 4),
  (0x00A, fun s t => (s.bkOf t).quad),
  (0x00B, fun s t => (s.bkOf t).core / 64),
  (0x00C, fun s t => (s.pkgRank (s.bkOf t).vd).toNat),
  (0x00D, fun _ t => t.bun * 32 + t.lane),
  (0x012, fun s t => (s.buOf t).wbase),
  (0x013, fun s t => (s.buOf t).alloc),
  (0x014, fun s t => (s.th t).scope.toNat),
  (0x015, fun s t => (s.th t).stack.length),
  (0x018, fun s t => (s.th t).fpcsr.toNat + (if (s.buOf t).spm then 512 else 0) + (if (s.buOf t).spmt then 1024 else 0)),
  (0x019, fun s t => (s.th t).rngs.toNat),
  (0x01C, fun s t => (s.th t).feBudget.toNat),
  (0x031, fun s t => (s.th t).trapCause.toNat),
  (0x040, fun s t => (s.buOf t).viewT0.toNat),
  (0x041, fun s t => (s.buOf t).viewT1.toNat),
  (0x042, fun s t => (s.buOf t).viewAcc.toNat),
  (0x043, fun s t => (s.buOf t).viewCk.toNat),
  (0x050, fun s t => s.counter t.blk t.bun 0 + 2 ^ 6 * s.counter t.blk t.bun 1 + 2 ^ 12 * s.counter t.blk t.bun 2 +
    2 ^ 18 * s.counter t.blk t.bun 3),
  (0x060, fun s t => (s.tidemarkWord t.blk t.bun).toNat)]

def special64 : List (Nat × (State → TRef → DWord)) := [
  (0x010, fun s t => (s.th t).pc),
  (0x011, fun s t => (s.th t).sp),
  (0x016, fun s t => (s.th t).regionPc),
  (0x01A, fun s t => (s.buOf t).modq),
  (0x01B, fun s t => (s.buOf t).modqi),
  (0x020, fun s t => BitVec.ofNat 64 (if (s.bkOf t).core / 64 = 0 then s.clk.a else s.clk.b)),
  (0x021, fun s t => (s.keOf t).karg),
  (0x030, fun s t => (s.th t).trapVec),
  (0x032, fun s t => (s.th t).trapPc),
  (0x033, fun s t => (s.th t).trapVal)]

/-- What MTS stores in a thread's own register (R39, R40): 32-bit values, then 64-bit ones. -/
def mts32 : List (Nat × (Word → Bool) × (Word → Thread → Thread)) := [
  (0x014, fun v => decide (v.toNat % 8 < 6), fun v x => { x with scope := v.setWidth 3 }),
  (0x019, fun _ => true, fun v x => { x with rngs := if v = 0 then 1 else v }),
  (0x01C, fun _ => true, fun v x => { x with feBudget := v.setWidth 16 }),
  (0x031, fun _ => true, fun v x => { x with trapCause := v.setWidth 8 })]

def mts64 : List (Nat × (DWord → Thread → Thread)) := [
  (0x011, fun v x => { x with sp := v &&& 0xFFFFFFFFFFFFFFF8 }),
  (0x030, fun v x => { x with trapVec := v &&& 0xFFFFFFFFFFFFFFC0 }),
  (0x032, fun v x => { x with trapPc := v }),
  (0x033, fun v x => { x with trapVal := v })]

end Sys2Proof.Claims

/-- R122, R123, R35: the affine writes change the bundle's copy, a write to a0 is discarded, the region closes; AGET gives
each thread base + stride × LANE. -/
def Obligations.AffineResults : Prop :=
  ∀ (s : State) (t : TRef) (d a b : Nat), Alone s t →
    let s' := s.closeRegion t
    let put (f : Bundle → DWord × Word) : State := pastRegion (s'.modBu t.blk t.bun fun bu => bu.setAffine d (f bu)) t
    (Closes s t [] [] →
      (∀ p ∈ Claims.affine2, exec (p.1 d a b) s = .next (put fun bu => p.2 (bu.affine a) (bu.affine b))) ∧
      (∀ p ∈ Claims.affineImm, ∀ n < 2 ^ p.2.1, exec (p.1 d a n) s = .next (put fun bu => p.2.2 (bu.affine a) n)) ∧
      exec (.amov d a) s = .next (put fun bu => bu.affine a)) ∧
    (Closes s t [(b, 2)] [(b, 2)] →
      exec (.asetb d b) s = .next (put fun bu => (s'.pair t b, (bu.affine d).2))) ∧
    (Closes s t [(b, 1)] [(b, 1)] →
      exec (.asets d b) s = .next (put fun bu => ((bu.affine d).1, s'.reg t b))) ∧
    (Readable s t [(b, 2)] [] → exec (.aget a b) s = .next (past (s.setPair t b
      (((s.buOf t).affine a).1 + BitVec.ofInt 64 (((s.buOf t).affine a).2.toInt * t.lane))) t)) ∧
    (s.buOf t).affine 0 = (0, 1) ∧ (s.buOf t).setAffine 0 = fun _ => s.buOf t

/-- R39, R124, R406: MFS reads each listed special register, low bits first for a pair; RDCYC reads the die's CYCLE. -/
def Obligations.SpecialReads : Prop :=
  ∀ (s : State) (t : TRef) (d : Nat), Alone s t →
    (Readable s t [(d, 1)] [] → ∀ p ∈ Claims.special32,
      exec (.mfs d p.1) s = .next (past (s.setReg t d (BitVec.ofNat 32 (p.2 s t))) t)) ∧
    (Readable s t [(d, 2)] [] →
      (∀ p ∈ Claims.special64, exec (.mfs d p.1) s = .next (past (s.setPair t d (p.2 s t)) t)) ∧
      exec (.rdcyc d) s = .next (past (s.setPair t d
        (BitVec.ofNat 64 (if (s.bkOf t).core / 64 = 0 then s.clk.a else s.clk.b))) t))

/-- R40, R125, R126, R406: what MTS and RNGSEED store. A thread's own register takes the value under its mask; MODQ sets MODQI
to −q⁻¹ modulo 2⁶⁴ for an odd q and to 0 otherwise; FPCSR's bits 9 and 10 go to the bundle. -/
def Sys2Proof.Claims.SpecialWrites : Prop :=
  ∀ (s : State) (t : TRef) (a : Nat), Alone s t →
    let s' := s.closeRegion t
    (Closes s t [(a, 1)] [(a, 1)] →
      (∀ p ∈ Claims.mts32, p.2.1 (s'.reg t a) = true →
        exec (.mts a p.1) s = .next (pastRegion (s'.modTh t (p.2.2 (s'.reg t a))) t)) ∧
      ((s'.reg t a).toNat % 8 < 6 → exec (.mts a 0x018) s = .next (pastRegion
        ((s'.modTh t fun x => { x with fpcsr := (s'.reg t a).setWidth 9 }).modBu t.blk t.bun fun b =>
          { b with spm := (s'.reg t a).getLsbD 9, spmt := (s'.reg t a).getLsbD 10 }) t))) ∧
    (Closes s t [(a, 2)] [(a, 2)] →
      (∀ p ∈ Claims.mts64, exec (.mts a p.1) s = .next (pastRegion (s'.modTh t (p.2 (s'.pair t a))) t)) ∧
      ∃ qi : DWord, exec (.mts a 0x01A) s = .next (pastRegion (s'.modBu t.blk t.bun fun b =>
          { b with modq := s'.pair t a, modqi := qi }) t) ∧
        ((s'.pair t a).getLsbD 0 = true → s'.pair t a * qi = -1) ∧ ((s'.pair t a).getLsbD 0 = false → qi = 0)) ∧
    (Readable s t [(a, 1)] [(a, 1)] →
      let v := s.reg t a ^^^ BitVec.ofNat 32 ((t.bun * 32 + t.lane) * 0x9E3779B9)
      exec (.rngseed a) s = .next (past (s.modTh t fun x => { x with rngs := if v = 0 then 1 else v }) t))

/-- R40: a special register numbered 0x100 to 0x1FF raises PRIV, with the number as TRAPVAL, and changes no register; an MTS of
6 or 7 to SCOPE or to RM raises ILLEGAL with the value written. -/
def Sys2Proof.Claims.SpecialTraps : Prop :=
  ∀ (s : State) (t : TRef) (a n : Nat), Alone s t →
    (0x100 ≤ n → n < 0x200 →
      exec (.mfs a n) s = .next (s.trap t causePriv (BitVec.ofNat 64 n)) ∧
      exec (.mts a n) s = .next (s.trap t causePriv (BitVec.ofNat 64 n))) ∧
    (n = 0x014 ∨ n = 0x018 → Closes s t [(a, 1)] [(a, 1)] → 6 ≤ ((s.closeRegion t).reg t a).toNat % 8 →
      exec (.mts a n) s =
        .next ((s.closeRegion t).trap t causeIllegal (((s.closeRegion t).reg t a).setWidth 64)))

/-! ## Across the lanes -/

namespace Sys2Proof.Claims

/-- The values of `va` over some threads. -/
def valuesOf (s : State) (l : List TRef) (a : Nat) : List Word := l.map fun t => s.reg t a

/-- The least lane of a list of threads. -/
def firstOf (l : List TRef) : TRef := l.headD { blk := 0, bun := 0, lane := 0 }

/-- The exchanges of R129: constructor, and the lane read for a thread, from `d = vb` and the lowest active participant. -/
noncomputable def exchanges : List ((Nat → Nat → Nat → Instr) × (State → List TRef → TRef → Nat → Nat)) := [
  (.xlgetIdx, fun s _ t b => (s.reg t b).toNat % 32),
  (.xlgetUp, fun s _ t b => if (s.reg t b).toNat ≤ t.lane then t.lane - (s.reg t b).toNat else t.lane),
  (.xlgetDn, fun s _ t b => if t.lane + (s.reg t b).toNat ≤ 31 then t.lane + (s.reg t b).toNat else t.lane),
  (.xlgetXor, fun s _ t b => t.lane ^^^ ((s.reg t b).toNat % 32)),
  (.rdlane, fun s act _ b => (s.reg (firstOf act) b).toNat % 32)]

/-- The reductions of R129 as a relation between the active values, those up to the thread's lane, and the result. -/
noncomputable def reductions : List ((Nat → Nat → Instr) × (List Word → List Word → Word → Prop)) := [
  (.redadd, fun all _ r => r = BitVec.ofNat 32 (all.map (·.toNat)).sum),
  (.redmin, fun all _ r => r ∈ all ∧ ∀ v ∈ all, r.toInt ≤ v.toInt),
  (.redmax, fun all _ r => r ∈ all ∧ ∀ v ∈ all, v.toInt ≤ r.toInt),
  (.scanadd, fun _ upto r => r = BitVec.ofNat 32 (upto.map (·.toNat)).sum)]

end Sys2Proof.Claims

/-- R128, R129, R130: in a round, each active participant receives the exchanged, reduced, scanned or balloted value, computed
from the registers as the group found them; an inactive one keeps its registers; every participant steps to the next word. -/
def Sys2Proof.Claims.RoundResults : Prop :=
  ∀ (s : State) (blk bun d a b : Nat) (l : List TRef), InRound s blk bun l →
    let act := l.filter fun t => (s.th t).active
    let gives (i : Instr) (v : TRef → Word → Prop) : Prop :=
      ∃ s', exec i s = .next s' ∧ ∀ t ∈ l, (s'.th t).pc = (s.th t).pc + 4 ∧
        ((s.th t).active = true → v t (s'.reg t d)) ∧
        ((s.th t).active = false → ∀ n, s'.reg t n = s.reg t n)
    (windowTrap (s.bu blk bun) [(d, 1), (a, 1), (b, 1)] = none →
      ∀ p ∈ Claims.exchanges, gives (p.1 d a b) fun t r => r = s.reg { t with lane := p.2 s act t b } a) ∧
    (windowTrap (s.bu blk bun) [(d, 1), (a, 1)] = none →
      (∀ p ∈ Claims.reductions, gives (p.1 d a) fun t r =>
        p.2 (Claims.valuesOf s act a) (Claims.valuesOf s (act.filter fun u => u.lane ≤ t.lane) a) r) ∧
      gives (.ballot d a) fun _ r => ∀ k < 32, r.getLsbD k = act.any fun u => u.lane == k && s.reg u a != 0)

/-- R130: the votes push one value on every active participant and 0 on an inactive one; BSYNC does nothing beyond the
round. -/
def Sys2Proof.Claims.Votes : Prop :=
  ∀ (s : State) (blk bun a : Nat) (l : List TRef), InRound s blk bun l →
    let act := l.filter fun t => (s.th t).active
    let votes (i : Instr) (v : Bool) : Prop :=
      ∃ s', exec i s = .next s' ∧ ∀ t ∈ l, (s'.th t).pc = (s.th t).pc + 4 ∧
        (s'.th t).stack = ((s.th t).active && v) :: (s.th t).stack
    (windowTrap (s.bu blk bun) [(a, 1)] = none → (∀ t ∈ l, (s.th t).stack.length < 16) →
      votes (.bvotea a) ((Claims.valuesOf s act a).all (· != 0)) ∧
      votes (.bvotey a) ((Claims.valuesOf s act a).any (· != 0))) ∧
    (∃ s', exec .bsync s = .next s' ∧ ∀ t ∈ l, (s'.th t).pc = (s.th t).pc + 4 ∧ (s'.th t).stack = (s.th t).stack)

/-- R127: outside a round, a thread that issues a bundle-convergent instruction closes its open windows and parks at it. -/
def Sys2Proof.Claims.ConvergentParks : Prop :=
  ∀ (s : State) (t : TRef) (i : Instr), s.group.refs = [t] → s.group.round = false → convergent i = true →
    exec i s = .next (s.modTh t fun x =>
      { x with pending := x.pending.map fun p => { p with window := 0 }, park := .conv })

/-! ## Floating point -/

namespace Sys2Proof.Claims

/-- The state after a floating-point instruction (R107, R132): one draw where the mode is SR (R100), the flags ORed into
FPCSR, and the result's `w` words from `vd` on. -/
def floated (s : State) (t : TRef) (d w : Nat) (rm : Option Nat) (r : Mode → FRes) : State :=
  let md := match rm with
    | none => (modeRne, s)
    | some m => s.draw t m
  past ((md.2.modTh t fun x => x.raise (r md.1).2).setWords t d (natWords w (r md.1).1)) t

/-- FTZ as R106 applies it to a format's operands and results in vector arithmetic. -/
def ftzOf (s : State) (t : TRef) (f : Fmt) : Bool := f == .f32 && (s.th t).ftz

/-- The bits of an operand of f32 or f64. -/
def bitsAt (s : State) (t : TRef) (f : Fmt) (n : Nat) : Nat := if f == .f64 then (s.pair t n).toNat else (s.reg t n).toNat

/-- Its value, an f32 subnormal read as zero under FTZ. -/
def valueAt (s : State) (t : TRef) (f : Fmt) (n : Nat) : FVal := unpack f (flushIn f (ftzOf s t f) (bitsAt s t f n))

def width (f : Fmt) : Nat := if f == .f64 then 2 else 1

/-- The rounded operations of R137 with two sources, and the fused ones: the f32 and f64 constructors and the operation. -/
noncomputable def rounded2 : List ((Fmt → Nat → Nat → Nat → Instr) × (Fmt → Mode → Bool → FVal → FVal → FRes)) := [
  (fun f => if f = .f64 then .faddF64 else .faddF32, fun f md z x y => addV f md z x y),
  (fun f => if f = .f64 then .fsubF64 else .fsubF32, fun f md z x y => addV f md z x (fvNeg y)),
  (fun f => if f = .f64 then .fmulF64 else .fmulF32, fun f md z x y => mulV f md z x y)]

noncomputable def fused : List ((Fmt → Nat → Nat → Nat → Instr) × (Fmt → Mode → Bool → FVal → FVal → FVal → FRes)) := [
  (fun f => if f = .f64 then .ffmaF64 else .ffmaF32, fun f md z x y w => fmaV f md z x y w),
  (fun f => if f = .f64 then .ffmsF64 else .ffmsF32, fun f md z x y w => fmaV f md z x y (fvNeg w)),
  (fun f => if f = .f64 then .fnfmaF64 else .fnfmaF32, fun f md z x y w => fmaV f md z (fvNeg x) y w)]

/-- FMIN, FMAX, FMINM and FMAXM (R138): whether for the greater, and whether a NaN propagates. -/
noncomputable def picks : List ((Fmt → Nat → Nat → Nat → Instr) × Bool × Bool) := [
  (fun f => if f = .f64 then .fminF64 else .fminF32, false, false),
  (fun f => if f = .f64 then .fmaxF64 else .fmaxF32, true, false),
  (fun f => if f = .f64 then .fminmF64 else .fminmF32, false, true),
  (fun f => if f = .f64 then .fmaxmF64 else .fmaxmF32, true, true)]

/-- The sign forms of R139 on the pattern: the sign bit of the result from those of va and vb. -/
noncomputable def signs1 : List ((Fmt → Nat → Nat → Instr) × (Nat → Nat → Nat)) := [
  (fun f => if f = .f64 then .fabsF64 else .fabsF32, fun x sb => x % sb),
  (fun f => if f = .f64 then .fnegF64 else .fnegF32, fun x sb => if x / sb % 2 = 1 then x % sb else x % sb + sb)]

/-- The class mask of R139: the bit of −∞, a negative normal, a negative subnormal, −0, +0, and so on up to a quiet NaN. -/
def classMask (f : Fmt) (x : Nat) : Nat :=
  match unpack f x with
  | .inf true => 2 ^ 0
  | .inf false => 2 ^ 7
  | .nan _ _ _ true => 2 ^ 8
  | .nan _ _ _ false => 2 ^ 9
  | .fin neg m _ =>
    if m = 0 then (if neg then 2 ^ 3 else 2 ^ 4)
    else if m < 2 ^ fmtM f then (if neg then 2 ^ 2 else 2 ^ 5)
    else (if neg then 2 ^ 1 else 2 ^ 6)

end Sys2Proof.Claims

/-- R137, R138, R139, R107: what the f32 and f64 instructions write, in the thread's rounding mode, and the flags they raise. -/
def Obligations.FloatResults : Prop :=
  ∀ (s : State) (t : TRef) (d a b : Nat) (f : Fmt), Alone s t → f = .f32 ∨ f = .f64 →
    let w := Claims.width f
    let va := Claims.valueAt s t f a
    let vb := Claims.valueAt s t f b
    let z := Claims.ftzOf s t f
    (Readable s t [(d, w), (a, w), (b, w)] [(a, w), (b, w)] →
      (∀ p ∈ Claims.rounded2, exec (p.1 f d a b) s =
        .next (Claims.floated s t d w (some (s.th t).rm) fun md => p.2 f md z va vb)) ∧
      (∀ p ∈ Claims.picks, exec (p.1 f d a b) s = .next (Claims.floated s t d w none fun _ =>
        minMaxV f p.2.1 p.2.2 (flushIn f z (Claims.bitsAt s t f a)) (flushIn f z (Claims.bitsAt s t f b)))) ∧
      exec ((if f = .f64 then .fsgnjF64 else .fsgnjF32 : Nat → Nat → Nat → Instr) d a b) s =
        .next (Claims.floated s t d w none fun _ => (Claims.bitsAt s t f a % signBit f +
          (if Claims.bitsAt s t f b / signBit f % 2 = 1 then signBit f else 0), noFlag))) ∧
    (Readable s t [(d, w), (a, w), (b, w), (d, w)] [(a, w), (b, w), (d, w)] → ∀ p ∈ Claims.fused,
      exec (p.1 f d a b) s = .next (Claims.floated s t d w (some (s.th t).rm) fun md =>
        p.2 f md z va vb (Claims.valueAt s t f d))) ∧
    (Readable s t [(d, w), (a, w)] [(a, w)] → ∀ p ∈ Claims.signs1,
      exec (p.1 f d a) s = .next (Claims.floated s t d w none fun _ =>
        (p.2 (Claims.bitsAt s t f a) (signBit f), noFlag))) ∧
    (Readable s t [(d, 1), (a, w)] [(a, w)] →
      exec ((if f = .f64 then .fclassF64 else .fclassF32 : Nat → Nat → Instr) d a) s =
        .next (Claims.floated s t d 1 none fun _ => (Claims.classMask f (Claims.bitsAt s t f a), noFlag)))

namespace Sys2Proof.Claims

/-- The mode that a conversion's rm field gives: 6 is DYN, FPCSR.RM (R99). -/
def modeOf (s : State) (t : TRef) (r : Nat) : Nat := if r = 6 then (s.th t).rm else r

/-- An integer as an exact value. -/
def exactly (x : Int) : FVal := .fin (decide (x < 0)) x.natAbs 0

/-- Narrow results placed under R133, for a format of `w` bits. -/
def placed (k w : Nat) (old : Word) (n : Nat) : Nat := if k = 0 then n else (old.toNat / 2 ^ w) ||| (n * 2 ^ (32 - w))

/-- A narrow source taken under R133. -/
def sourceOf (k w : Nat) (x : Word) : Nat := if k = 0 then x.toNat % 2 ^ w else x.toNat / 2 ^ (32 - w)

/-- Integer to float (R134): constructor, source registers, target registers and format, and the integer read. -/
noncomputable def fromInts : List ((Nat → Nat → Nat → Instr) × Nat × Fmt × (State → TRef → Nat → Int)) := [
  (.cvtF32S32, 1, .f32, fun s t a => (s.reg t a).toInt),
  (.cvtF32N32, 1, .f32, fun s t a => (s.reg t a).toNat),
  (.cvtF64S64, 2, .f64, fun s t a => (s.pair t a).toInt),
  (.cvtF64N64, 2, .f64, fun s t a => (s.pair t a).toNat)]

/-- Float to integer (R134, R104): constructor, source format, width, signed. -/
noncomputable def toInts : List ((Nat → Nat → Nat → Nat → Instr) × Fmt × Nat × Bool) := [
  (.cvtS32F32, .f32, 32, true),
  (.cvtN32F32, .f32, 32, false),
  (.cvtS64F64, .f64, 64, true),
  (.cvtN64F64, .f64, 64, false)]

/-- f32 to a narrower format, and back (R133, R134). -/
noncomputable def narrowings : List ((Nat → Nat → Nat → Nat → Nat → Instr) × Fmt) := [
  (.cvtF16F32, .f16), (.cvtBf16F32, .bf16), (.cvtE4m3F32, .e4m3), (.cvtE5m2F32, .e5m2), (.cvtE2m1F32, .e2m1)]

noncomputable def widenings : List ((Nat → Nat → Nat → Instr) × Fmt) := [
  (.cvtF32F16, .f16), (.cvtF32Bf16, .bf16), (.cvtF32E4m3, .e4m3), (.cvtF32E5m2, .e5m2), (.cvtF32E2m1, .e2m1)]

/-- s32 to 8 bits (R134): the low byte, or the value clamped under .sat. -/
noncomputable def bytings : List ((Nat → Nat → Nat → Nat → Instr) × Int × Int) := [
  (.cvtS8S32, -128, 127), (.cvtN8S32, 0, 255)]

def byteOf (lo hi : Int) (sat : Nat) (x : Int) : Nat :=
  ((if sat = 1 then max lo (min x hi) else x) % 256).toNat

end Sys2Proof.Claims

/-- R133 to R136: what the conversions, FRND, FRNDD and BSCALE write, and the flags they raise. FTZ applies to none. -/
def Obligations.ConversionResults : Prop :=
  ∀ (s : State) (t : TRef) (d a r sat k : Nat), Alone s t → k < 2 →
    let m := some (Claims.modeOf s t r)
    let narrow : List (Nat × Nat) := if k = 0 then [(a, 1)] else [(a, 1), (d, 1)]
    (∀ p ∈ Claims.fromInts, Readable s t [(d, p.2.1), (a, p.2.1)] [(a, p.2.1)] →
      exec (p.1 d a r) s = .next (Claims.floated s t d p.2.1 m fun md =>
        roundTo p.2.2.1 md false (Claims.exactly (p.2.2.2 s t a)))) ∧
    (∀ p ∈ Claims.toInts, Readable s t [(d, Claims.width p.2.1), (a, Claims.width p.2.1)] [(a, Claims.width p.2.1)] →
      exec (p.1 d a r sat) s = .next (Claims.floated s t d (Claims.width p.2.1) m fun md =>
        toInteger p.2.2.1 p.2.2.2 md (sat == 1) (unpack p.2.1 (Claims.bitsAt s t p.2.1 a)))) ∧
    (∀ p ∈ Claims.narrowings, Readable s t ((d, 1) :: narrow) narrow →
      exec (p.1 d a r sat k) s = .next (Claims.floated s t d 1 m fun md =>
        let v := roundTo p.2 md (sat == 1) (unpack .f32 (s.reg t a).toNat)
        (Claims.placed k (fmtW p.2) (s.reg t d) v.1, v.2))) ∧
    (∀ p ∈ Claims.widenings, Readable s t ((d, 1) :: narrow) narrow →
      exec (p.1 d a k) s = .next (Claims.floated s t d 1 none fun md =>
        roundTo .f32 md false (unpack p.2 (Claims.sourceOf k (fmtW p.2) (s.reg t a))))) ∧
    (∀ p ∈ Claims.bytings, Readable s t ((d, 1) :: narrow) narrow →
      exec (p.1 d a sat k) s = .next (Claims.floated s t d 1 none fun _ =>
        (Claims.placed k 8 (s.reg t d) (Claims.byteOf p.2.1 p.2.2 sat (s.reg t a).toInt), noFlag))) ∧
    (Readable s t [(d, 2), (a, 1)] [(a, 1)] → exec (.cvtF64F32 d a) s =
      .next (Claims.floated s t d 2 none fun md => roundTo .f64 md false (unpack .f32 (s.reg t a).toNat))) ∧
    (Readable s t [(d, 1), (a, 2)] [(a, 2)] → exec (.cvtF32F64 d a r sat) s =
      .next (Claims.floated s t d 1 m fun md => roundTo .f32 md (sat == 1) (unpack .f64 (s.pair t a).toNat))) ∧
    (Readable s t [(d, 1), (a, 1)] [(a, 1)] →
      exec (.frnd d a r) s = .next (Claims.floated s t d 1 m fun md => roundIntegral .f32 md (s.reg t a).toNat) ∧
      exec (.bscale d a) s = .next (Claims.floated s t d 1 none fun _ => blockScale (s.reg t a).toNat)) ∧
    (Readable s t [(d, 2), (a, 2)] [(a, 2)] →
      exec (.frndd d a r) s = .next (Claims.floated s t d 2 m fun md => roundIntegral .f64 md (s.pair t a).toNat))

namespace Sys2Proof.Claims

/-- The element format of an H2 instruction (R140). -/
def halfOf (ty : Nat) : Fmt := if ty = 0 then .f16 else .bf16

/-- Element `i` of a register as H2 reads it: an f16 subnormal is zero under FTZ. -/
def halfAt (s : State) (t : TRef) (ty n i : Nat) : Nat :=
  flushIn (halfOf ty) (ty == 0 && (s.th t).ftz) ((s.reg t n).toNat / 2 ^ (16 * i) % 65536)

/-- The state after an H2 instruction: for a rounding form the draws of the low and then the high element (R101), both
elements' flags, and the two results. -/
def halved (s : State) (t : TRef) (d : Nat) (rounds : Bool) (r : Mode → Nat → FRes) : State :=
  let d0 := if rounds then s.draw t (s.th t).rm else (modeRne, s)
  let d1 := if rounds then d0.2.draw t (s.th t).rm else (modeRne, d0.2)
  past ((d1.2.modTh t fun x => x.raise ((r d0.1 0).2 ||| (r d1.1 1).2)).setReg t d
    (BitVec.ofNat 32 ((r d0.1 0).1 + (r d1.1 1).1 * 65536))) t

end Sys2Proof.Claims

/-- R140: what the packed half-precision instructions write in both halves, and their flags. -/
def Obligations.PackedHalves : Prop :=
  ∀ (s : State) (t : TRef) (d a b ty : Nat), Alone s t → ty < 2 →
    let f := Claims.halfOf ty
    let z := ty == 0 && (s.th t).ftz
    let v (n i : Nat) : FVal := unpack f (Claims.halfAt s t ty n i)
    let raw (n i : Nat) : Nat := (s.reg t n).toNat / 2 ^ (16 * i) % 65536
    (Readable s t [(d, 1), (a, 1), (b, 1)] [(a, 1), (b, 1)] →
      exec (.f2add d a b ty) s = .next (Claims.halved s t d true fun md i => addV f md z (v a i) (v b i)) ∧
      exec (.f2sub d a b ty) s = .next (Claims.halved s t d true fun md i => addV f md z (v a i) (fvNeg (v b i))) ∧
      exec (.f2mul d a b ty) s = .next (Claims.halved s t d true fun md i => mulV f md z (v a i) (v b i)) ∧
      exec (.f2min d a b ty) s = .next (Claims.halved s t d false fun _ i =>
        minMaxV f false false (Claims.halfAt s t ty a i) (Claims.halfAt s t ty b i)) ∧
      exec (.f2max d a b ty) s = .next (Claims.halved s t d false fun _ i =>
        minMaxV f true false (Claims.halfAt s t ty a i) (Claims.halfAt s t ty b i))) ∧
    (Readable s t [(d, 1), (a, 1), (b, 1), (d, 1)] [(a, 1), (b, 1), (d, 1)] →
      exec (.f2fma d a b ty) s = .next (Claims.halved s t d true fun md i => fmaV f md z (v a i) (v b i) (v d i))) ∧
    (Readable s t [(d, 1), (a, 1)] [(a, 1)] →
      exec (.f2abs d a ty) s = .next (Claims.halved s t d false fun _ i => (raw a i % 32768, noFlag)) ∧
      exec (.f2neg d a ty) s = .next (Claims.halved s t d false fun _ i => ((raw a i + 32768) % 65536, noFlag)))

/-- R99: a value that the format holds is delivered as it is, with no flag, in every mode: rounding what a finite pattern of a
format stands for gives that pattern. -/
def Obligations.RoundingKeepsFormatValues : Prop :=
  ∀ (f : Fmt) (md : Mode) (sat : Bool) (x : Nat), x < 2 ^ fmtW f → md.rbits < 65536 → x % signBit f ≤ maxPattern f →
    roundTo f md sat (unpack f x) = (x, noFlag)

namespace Sys2Proof.Claims

/-- The magnitude of a finite pattern in units of the format's smallest positive value. -/
def magnitude (f : Fmt) (x : Nat) : Nat :=
  let e := x / 2 ^ fmtM f % 2 ^ fmtE f
  let q := x % 2 ^ fmtM f
  if e = 0 then q else (2 ^ fmtM f + q) * 2 ^ (e - 1)

end Sys2Proof.Claims

/-- R99: truncation keeps the magnitude at or below the exact one and leaves no pattern between: for a positive value, given in
units of the smallest positive value of the format divided by 2^k, RTZ delivers the greatest pattern whose value does not
exceed it, up to the largest finite one. -/
def Obligations.TruncationIsTight : Prop :=
  ∀ (f : Fmt) (m k : Nat), 0 < m →
    let e : Int := 1 - (fmtB f : Int) - fmtM f - k
    let p := (roundFin f { rm := 1 } false false false m e).1
    p ≤ maxPattern f ∧ Claims.magnitude f p * 2 ^ k ≤ m ∧
      ∀ p' ≤ maxPattern f, Claims.magnitude f p' * 2 ^ k ≤ m → p' ≤ p

/-! ## Long-latency results -/

namespace Sys2Proof.Claims

/-- The state after a long-latency instruction (R55, R141): one draw where it rounds in SR, and a pending result for each physical
register of the destination, due within its window; the first brings the flags. -/
def issued (s : State) (t : TRef) (d w la : Nat) (rounds : Bool) (r : Mode → FRes) : State :=
  let md := if rounds then s.draw t (s.th t).rm else (modeRne, s)
  past (md.2.modTh t fun x => { x with pending := x.pending ++ (natWords w (r md.1).1).zipIdx.map fun v =>
    { dst := (s.buOf t).base + d + v.2, vals := [v.1], flags := if v.2 = 0 then (r md.1).2 else 0, window := la + 1 } }) t

/-- The FLL functions of one f32 operand that round to nearest (R142). -/
noncomputable def llUnary : List ((Nat → Nat → Nat → Instr) × (Bool → FVal → FRes)) := [
  (.frsq, fun z x => rsqrtV .f32 z x),
  (.fexp2, fun z x => exp2V z x),
  (.flog2, fun z x => log2V z x),
  (.fsint, fun z x => turnV z false x),
  (.fcost, fun z x => turnV z true x),
  (.ftanh, fun z x => tanhV z x)]

def llFormat (t1 : Nat) : Fmt := if t1 = 0 then .f32 else .f64

/-- Quotient and remainder of R144's pseudocode. -/
def quotient (t1 : Nat) (a b : Word) : Word :=
  if b = 0 then 0xFFFFFFFF
  else if t1 = 0 ∧ a = 0x80000000 ∧ b = 0xFFFFFFFF then 0x80000000
  else if t1 = 0 then BitVec.ofInt 32 (a.toInt.tdiv b.toInt) else BitVec.ofNat 32 (a.toNat / b.toNat)

def remainder (t1 : Nat) (a b : Word) : Word :=
  if b = 0 then a
  else if t1 = 0 ∧ a = 0x80000000 ∧ b = 0xFFFFFFFF then 0
  else if t1 = 0 then BitVec.ofInt 32 (a.toInt - a.toInt.tdiv b.toInt * b.toInt)
  else BitVec.ofNat 32 (a.toNat - a.toNat / b.toNat * b.toNat)

end Sys2Proof.Claims

/-- R141 to R144: the long-latency instructions read their operands and mode at issue and leave a pending result with its
flags; nothing is written yet. -/
def Sys2Proof.Claims.LongLatencyIssue : Prop :=
  ∀ (s : State) (t : TRef) (d a b la t1 : Nat), Alone s t → t1 < 2 →
    let f := Claims.llFormat t1
    let z := Claims.ftzOf s t f
    (Readable s t [(d, t1 + 1), (a, t1 + 1)] [(a, t1 + 1)] →
      exec (.fsqrt d a la t1) s = .next (Claims.issued s t d (t1 + 1) la true fun md =>
        sqrtV f md z (Claims.valueAt s t f a)) ∧
      exec (.frcp d a la t1) s = .next (Claims.issued s t d (t1 + 1) la true fun md =>
        divV f md z (.fin false 1 0) (Claims.valueAt s t f a))) ∧
    (Readable s t [(d, 1), (a, 1)] [(a, 1)] → ∀ p ∈ Claims.llUnary,
      exec (p.1 d a la) s = .next (Claims.issued s t d 1 la false fun _ =>
        p.2 (Claims.ftzOf s t .f32) (Claims.valueAt s t .f32 a))) ∧
    (Readable s t [(d, t1 + 1), (a, t1 + 1), (b, t1 + 1)] [(a, t1 + 1), (b, t1 + 1)] →
      exec (.fdiv d a b la t1) s = .next (Claims.issued s t d (t1 + 1) la true fun md =>
        divV f md z (Claims.valueAt s t f a) (Claims.valueAt s t f b))) ∧
    (Readable s t [(d, 1), (a, 1), (b, 1)] [(a, 1), (b, 1)] →
      exec (.div d a b la t1) s = .next (Claims.issued s t d 1 la false fun _ =>
        ((Claims.quotient t1 (s.reg t a) (s.reg t b)).toNat, noFlag)) ∧
      exec (.rem d a b la t1) s = .next (Claims.issued s t d 1 la false fun _ =>
        ((Claims.remainder t1 (s.reg t a) (s.reg t b)).toNat, noFlag)))

/-- R55, R141: LONG_LATENCY_RESULT writes a result that has arrived to the physical registers named at issue, ORs its flags
into FPCSR and removes it from the pending ones. -/
def Sys2Proof.Claims.LongLatencyWrite : Prop :=
  ∀ (s : State) (t : TRef) (k : Nat) (p : PendingResult), (s.th t).pending[k]? = some p → p.arrived = true →
    exec (.longLatencyResult t k) s = .next
      ((s.modBu t.blk t.bun fun b => b.writes t.lane p.dst p.vals).modTh t fun x =>
        { x with fpcsr := x.fpcsr ||| (p.flags.setWidth 9 <<< 4), pending := x.pending.eraseIdx k })

/-! ## Modular arithmetic -/

namespace Sys2Proof.Claims

/-- The modular instructions of R146 with two pair sources: the result as a relation between q, the operands and the value
written. -/
noncomputable def modular2 : List ((Nat → Nat → Nat → Instr) × (Nat → Nat → Nat → Nat → Prop)) := [
  (.maddm, fun q x y r => r = (x + y) % q),
  (.msubm, fun q x y r => r < q ∧ (r + y) % q = x % q),
  (.mmulm, fun q x y r => r < q ∧ r * 2 ^ 64 % q = x * y % q)]

noncomputable def modular1 : List ((Nat → Nat → Instr) × (Nat → Nat → Nat → Prop)) := [
  (.mtom, fun q x r => r = x * 2 ^ 64 % q),
  (.mfromm, fun q x r => r < q ∧ r * 2 ^ 64 % q = x % q),
  (.mneg, fun q x r => r < q ∧ (r + x) % q = 0)]

end Sys2Proof.Claims

/-- R145, R146, R147: with an odd modulus in [3, 2⁶²), the modular instructions write the residue that the rule names, for
operands of any size; MMULM's and MFROMM's results are the ones whose product with 2⁶⁴ is congruent to the operands'
product; MULW writes the exact 128-bit product and reads no modulus. -/
def Sys2Proof.Claims.ModularResults : Prop :=
  ∀ (s : State) (t : TRef) (d a b : Nat), Alone s t →
    let q := (s.buOf t).modq.toNat
    let x := (s.pair t a).toNat
    let y := (s.pair t b).toNat
    let out (w : Nat) (v : Nat) : State := past (s.setWords t d (natWords w v)) t
    (q % 2 = 1 → 3 ≤ q → q < 2 ^ 62 →
      (Readable s t [(d, 2), (a, 2), (b, 2)] [(a, 2), (b, 2)] → ∀ p ∈ Claims.modular2,
        ∃ r, p.2 q x y r ∧ exec (p.1 d a b) s = .next (out 2 r)) ∧
      (Readable s t [(d, 2), (a, 2)] [(a, 2)] → ∀ p ∈ Claims.modular1,
        ∃ r, p.2 q x r ∧ exec (p.1 d a) s = .next (out 2 r)) ∧
      (Readable s t [(d, 2), (a, 4)] [(a, 4)] →
        exec (.mredb d a) s = .next (out 2 ((x + 2 ^ 64 * (s.pair t (a + 2)).toNat) % q))) ∧
      (Readable s t [(d, 4), (d, 4), (a, 2)] [(d, 4), (a, 2)] →
        let u := (s.pair t d).toNat
        let v := (s.pair t (d + 2)).toNat
        (∃ p r0 r1, p < q ∧ p * 2 ^ 64 % q = v * x % q ∧ r0 = (u + p) % q ∧ r1 < q ∧ (r1 + p) % q = u % q ∧
          exec (.bflyc d a) s = .next (out 4 (r0 + 2 ^ 64 * r1))) ∧
        ∃ m r1, m < q ∧ (m + v) % q = u % q ∧ r1 < q ∧ r1 * 2 ^ 64 % q = m * x % q ∧
          exec (.bflyg d a) s = .next (out 4 ((u + v) % q + 2 ^ 64 * r1)))) ∧
    (Readable s t [(d, 4), (a, 2), (b, 2)] [(a, 2), (b, 2)] →
      exec (.mulw d a b) s = .next (out 4 (x * y)))

/-- R145: with any other modulus each modular instruction raises ILLEGAL, with MODQ as TRAPVAL. -/
def Sys2Proof.Claims.ModularTraps : Prop :=
  ∀ (s : State) (t : TRef) (d a b : Nat), Alone s t →
    (s.buOf t).modq.toNat % 2 = 0 ∨ (s.buOf t).modq.toNat < 3 ∨ 2 ^ 62 ≤ (s.buOf t).modq.toNat →
    let trapped := Host.Outcome.next (s.trap t causeIllegal (s.buOf t).modq)
    (Readable s t [(d, 2), (a, 2), (b, 2)] [(a, 2), (b, 2)] → ∀ p ∈ Claims.modular2, exec (p.1 d a b) s = trapped) ∧
    (Readable s t [(d, 2), (a, 2)] [(a, 2)] → ∀ p ∈ Claims.modular1, exec (p.1 d a) s = trapped) ∧
    (Readable s t [(d, 2), (a, 4)] [(a, 4)] → exec (.mredb d a) s = trapped) ∧
    (Readable s t [(d, 4), (d, 4), (a, 2)] [(d, 4), (a, 2)] →
      exec (.bflyc d a) s = trapped ∧ exec (.bflyg d a) s = trapped)

/-! ## Loads, stores and atomics -/

namespace Sys2Proof.Claims

/-- The loads of R221: constructor, bytes, sign extension; the registers written are one, two or four. -/
noncomputable def loads : List ((Nat → Nat → Nat → Nat → Nat → Instr) × Nat × Bool) := [
  (.ldb, 1, false), (.ldbs, 1, true), (.ldh, 2, false), (.ldhs, 2, true), (.ldw, 4, false), (.ldd, 8, false),
  (.ldq, 16, false)]

/-- The stores of R222: constructor and bytes. -/
noncomputable def stores : List ((Nat → Nat → Nat → Nat → Instr) × Nat) := [
  (.stb, 1), (.sth, 2), (.stw, 4), (.std, 8), (.stq, 16)]

/-- Registers of an `n`-byte value. -/
def regsOf (n : Nat) : Nat := (n + 3) / 4

/-- The effective address of the M format (R53): the pair plus the sign-extended offset times the access size. -/
def addressOf (s : State) (t : TRef) (a o n : Nat) : DWord := s.pair t a + BitVec.ofInt 64 (signExt 5 o * n)

/-- The words of a loaded value (R221): extended to 32 bits below a word, split little-endian above. -/
def loadedWords (n : Nat) (sext : Bool) (v : Nat) : List Word :=
  if n ≤ 4 then [if sext then BitVec.ofInt 32 (signExt (8 * n) v) else BitVec.ofNat 32 v] else natWords (n / 4) v

/-- The point of a policy (R188, R219): 0 default and 5 .cs at the L1, 1 .cg at the die L2 point, 2 .far and 3 .vol at the home,
4 .acq or .rel by SCOPE. -/
def pointOf (p scope : Nat) : Point :=
  match p with
  | 1 => .l2
  | 2 => .home
  | 3 => .home
  | 4 => if scope = 0 then .l1 else if scope < 3 then .l2 else .home
  | _ => .l1

/-- Policies that close the region before the access (R408). -/
def closing (p : Nat) : Bool := p == 3 || p == 4

/-- The state in which a thread's access begins: its region closed for the closing policies. -/
def opened (s : State) (t : TRef) (p : Nat) : State := if closing p then s.closeRegion t else s

/-- The state after the instruction. -/
def after (s : State) (t : TRef) (p : Nat) : State := if closing p then pastRegion s t else past s t

/-- What an access with a policy needs of its thread and operands. -/
def Access (s : State) (t : TRef) (p : Nat) (regs reads : List (Nat × Nat)) : Prop :=
  if closing p then Closes s t regs reads else Readable s t regs reads

/-- A load's pending result, with the acquire steps of .acq (R195, R221). -/
def delivered (s : State) (t : TRef) (d la : Nat) (acq : Option Nat) (ws : List Word) : State :=
  match acq with
  | some sc => (s.later t d la ws).acquire t sc
  | none => s.later t d la ws

end Sys2Proof.Claims

/-- R221, R190, R219: a load whose checks pass answers with the value at its policy's point, the thread's own buffered stores
laid over it byte by byte; the words are due under its window. A load covered whole by own stores reads no memory. -/
def Obligations.LoadResults : Prop :=
  ∀ (s : State) (t : TRef) (d a o p la : Nat), Alone s t → p < 6 → ∀ ld ∈ Claims.loads,
    let n := ld.2.1
    let s1 := Claims.opened s t p
    let ea := Claims.addressOf s1 t a o n
    Claims.Access s t p [(d, Claims.regsOf n), (a, 2)] [(a, 2)] →
    ∀ (s2 : State) (loc : Loc), s1.reach t ea n n .read = .at_ s2 loc →
      let own := bufView (s2.th t).stores loc n
      let acq := if p = 4 then some (s2.th t).scope.toNat else none
      (own.1 = 2 ^ n - 1 → exec (ld.1 d a o p la) s =
        .next (Claims.after (Claims.delivered s2 t d la acq (Claims.loadedWords n ld.2.2 own.2)) t p)) ∧
      (own.1 ≠ 2 ^ n - 1 → (∀ vd ap g, loc ≠ .host vd ap g) → ∀ (s3 : State) (v : Nat),
        s2.locRead (s2.coreOf t) loc n (Claims.pointOf p (s2.th t).scope.toNat) (p == 5) = (s3, v, false) →
        exec (ld.1 d a o p la) s = .next (Claims.after
          (Claims.delivered s3 t d la acq (Claims.loadedWords n ld.2.2 (mergeBytes n own.1 own.2 v))) t p))

/-- R205, R190: a load from host memory that no own store covers whole and no L1 line answers is sent as a request on its port; its
registers wait for the completion under the load's window. At the L1 the whole line is asked for, and the line notes the request. A
load at the L1 whose line holds its bytes is answered there, with the thread's own stores laid over them. -/
def Obligations.HostLoads : Prop :=
  ∀ (s : State) (t : TRef) (d a o p la : Nat), Alone s t → p < 6 → ∀ ld ∈ Claims.loads,
    let n := ld.2.1
    let s1 := Claims.opened s t p
    let ea := Claims.addressOf s1 t a o n
    Claims.Access s t p [(d, Claims.regsOf n), (a, 2)] [(a, 2)] →
    ∀ (s2 : State) (vd ap g : Nat), s1.reach t ea n n .read = .at_ s2 (.host vd ap g) →
      let own := bufView (s2.th t).stores (.host vd ap g) n
      let pt := Claims.pointOf p (s2.th t).scope.toNat
      let acq := if p = 4 then some (s2.th t).scope.toNat else none
      (∀ c, own.1 ≠ 2 ^ n - 1 → pt = .l1 → s2.l1Line (s2.coreOf t) vd (g / 128) = some c → c.bad (g % 128) n = false →
        c.has (g % 128) n = true → exec (ld.1 d a o p la) s = .next (Claims.after (Claims.delivered s2 t d la acq
          (Claims.loadedWords n ld.2.2 (mergeBytes n own.1 own.2 (lineGet c.data (g % 128) n)))) t p)) ∧
      (own.1 ≠ 2 ^ n - 1 → s2.l1Line (s2.coreOf t) vd (g / 128) = none →
      s2.hostFree vd ap g = true →
      let what := if pt = .l1 then ReqFor.load t true (g / 128) (g % 128) n ld.2.2 own.1 own.2 acq
        else ReqFor.load t false (g / 128) 0 n ld.2.2 own.1 own.2 acq
      let size := if pt = .l1 then 128 else n
      let asked := s2.ask vd ap (if pt = .l1 then g / 128 * 128 else g) ea size what
        fun tag port h => .request tag port h size (s2.tOut vd)
      let noted := if pt = .l1 then asked.awaitLine (s2.coreOf t) vd ap (g / 128) s2.seq (p == 5) else asked
      exec (ld.1 d a o p la) s = .next (Claims.after
        (noted.later t d la (List.replicate ((n + 3) / 4) 0) noFlag s2.seq) t p))

/-- R222, R409, R446: a store of policy default, .cs, .cg or .far that finds room waits in the thread's region store buffer with
its data and its place; memory is unchanged. -/
def Obligations.StoreBuffered : Prop :=
  ∀ (s : State) (t : TRef) (d a o p : Nat), Alone s t → p < 6 → Claims.closing p = false → ∀ st ∈ Claims.stores,
    let n := st.2
    let ea := Claims.addressOf s t a o n
    Readable s t [(d, Claims.regsOf n), (a, 2)] [(d, Claims.regsOf n), (a, 2)] →
    ∀ (s2 : State) (loc : Loc), s.reach t ea n n .write = .at_ s2 loc →
      (s2.th t).stores.length < 16 * (s2.bkOf t).rbuf →
      ∃ page : Nat × Nat, exec (st.1 d a o p) s = .next (past (s2.modTh t fun x => { x with stores := x.stores ++
        [{ loc := loc, size := n, pol := p, vpage := ea.toNat / 65536, pageVa := page.1, pageSize := page.2
           pc := (s2.th t).pc, data := BitVec.ofNat 128 ((s.quadNat t d) % 2 ^ (8 * n)) }] }) t)

/-- R222, R219, R195: a .vol store is performed at the home at once; a .rel store is performed at its SCOPE's point once the
release steps are complete. -/
def Obligations.StorePerformed : Prop :=
  ∀ (s : State) (t : TRef) (d a o p : Nat), Alone s t → p = 3 ∨ p = 4 → ∀ st ∈ Claims.stores,
    let n := st.2
    let s1 := s.closeRegion t
    let ea := Claims.addressOf s1 t a o n
    Closes s t [(d, Claims.regsOf n), (a, 2)] [(d, Claims.regsOf n), (a, 2)] →
    ∀ (s2 : State) (loc : Loc), s1.reach t ea n n .write = .at_ s2 loc →
      ∀ s3, (if p = 4 then s2.releaseStep t (s2.th t).scope.toNat = (s3, true) else s3 = s2) →
      ∀ s4, s3.performStore (s3.coreOf t) loc n ((s1.quadNat t d) % 2 ^ (8 * n)) (Claims.pointOf p (s2.th t).scope.toNat)
          { src := 1, va := ea.toNat, thread := some (t, (s3.th t).pc) } = (s4, false) →
        exec (st.1 d a o p) s = .next (pastRegion s4 t)

namespace Sys2Proof.Claims

/-- The stores of a list performed one after another at their points; none when one meets poison. -/
def performAll (t : TRef) : List BufStore → State → Option State
  | [], s => some s
  | b :: r, s =>
    match s.performStore (s.coreOf t) b.loc b.size b.data.toNat (pointOf b.pol 0)
        { src := 1, va := b.vpage * 65536 + b.loc.addr % 65536, thread := some (t, b.pc) } (b.pol == 5) with
    | (s', false) => performAll t r s'
    | (_, true) => none

/-- Flag `i` of FPCSR[8:4] behind a thread's instruction: as it stands, with the flags of the results whose window ends there
(R107, R141). -/
def flagBehind (x : Thread) (i : Nat) : Bool :=
  x.fpcsr.getLsbD (4 + i) || x.pending.any fun p => p.window ≤ 1 && p.flags.getLsbD i

/-- No unit of memory, of a cache or of a scratchpad is poisoned (R423). -/
structure Sound (s : State) : Prop where
  sectors : s.poison = []
  words : s.l2bad = []
  far : ∀ x ∈ s.far, x.2.poison = 0
  l1 : ∀ c ∈ s.cores, ∀ l ∈ c.l1, l.poison = 0
  arrays : ∀ b ∈ s.blocks, b.poison = []

end Sys2Proof.Claims

/-- R410, R407: REGION closes the thread's region: its buffered stores are performed in program order, the buffer empties, and
the next region begins behind the instruction with the thread's stack, SP, RNGS and flags (FPCSR[8:4]) as its snapshot. Where nothing
is poisoned REGION completes whatever is buffered. -/
def Obligations.RegionCommits : Prop :=
  (∀ (s : State) (t : TRef), Alone s t → Claims.Sound s → ∃ s', exec .region s = .next s' ∧ s'.live t = true ∧
    (s'.th t).pc = (s.th t).pc + 4 ∧ (s'.th t).stores = [] ∧ (s'.th t).regionPc = (s.th t).pc + 4 ∧
    (s'.th t).snap.pc = (s.th t).pc + 4 ∧ (s'.th t).snap.stack = (s.th t).stack ∧ (s'.th t).snap.sp = (s.th t).sp ∧
    (s'.th t).snap.rngs = (s.th t).rngs ∧ ∀ i < 5, (s'.th t).snap.flags.getLsbD i = Claims.flagBehind (s.th t) i) ∧
  ∀ (s : State) (t : TRef) (s' : State), Alone s t →
    Claims.performAll t (s.th t).stores (s.modTh t fun x => ({ x with stores := [] } : Thread).beginRegion) = some s' →
    s'.live t = true →
    s.closeRegion t = s' ∧ exec .region s = .next (pastRegion s' t) ∧
    (∀ x : Thread, x.stepRegion.regionPc = x.pc + 4 ∧ x.stepRegion.snap.pc = x.pc + 4 ∧ x.stepRegion.snap.stack = x.stack ∧
      x.stepRegion.snap.sp = x.sp ∧ x.stepRegion.snap.rngs = x.rngs ∧
      ∀ i < 5, x.stepRegion.snap.flags.getLsbD i = Claims.flagBehind x i)

namespace Sys2Proof.Claims

/-- The atomics of R224: what is written from the old value, vb and, for ATCAS, the new value; `w` the width in bits. -/
noncomputable def atomics : List ((Nat → Nat → Nat → Nat → Nat → Instr) × (Nat → Nat → Nat → Option Nat)) := [
  (.atadd, fun w old x => some ((old + x) % 2 ^ w)),
  (.atfadd, fun w old x => some (if w = 32 then (addV .f32 modeRne false (unpack .f32 old) (unpack .f32 x)).1
    else (addV .f64 modeRne false (unpack .f64 old) (unpack .f64 x)).1)),
  (.atmin, fun w old x => some (if signExt w x < signExt w old then x else old)),
  (.atmax, fun w old x => some (if signExt w x < signExt w old then old else x)),
  (.atminn, fun _ old x => some (if x < old then x else old)),
  (.atmaxn, fun _ old x => some (if x < old then old else x)),
  (.atand, fun _ old x => some (old &&& x)),
  (.ator, fun _ old x => some (old ||| x)),
  (.atxor, fun _ old x => some (old ^^^ x)),
  (.atxch, fun _ _ x => some x)]

/-- A register or a pair, for an atomic of 32 or 64 bits. -/
def operandOf (s : State) (t : TRef) (w n : Nat) : Nat := if w = 0 then (s.reg t n).toNat else (s.pair t n).toNat

end Sys2Proof.Claims

/-- R224, R225, R228: an atomic on device memory or the scratchpad reads the old value and writes the new one in one step at
its point; the old value is due in vd, and a reduction (vd = va) writes no register. ATCAS writes only where the old value
equals vb. -/
def Sys2Proof.Claims.AtomicResults : Prop :=
  ∀ (s : State) (t : TRef) (d a b la w : Nat), Alone s t → w < 2 →
    let n := 4 * (w + 1)
    let s1 := s.closeRegion t
    let ea := s1.pair t a
    let dst : List (Nat × Nat) := if d = a then [(a, 2)] else [(d, w + 1), (a, 2)]
    ∀ (s2 : State) (loc : Loc), s1.reach t ea n n .write = .at_ s2 loc → (∀ vd ap g, loc ≠ .host vd ap g) →
      let ends (s3 : State) (old : Nat) : Host.Outcome State Fault Refusal :=
        .next (pastRegion (if d = a then s3 else s3.later t d la (natWords (w + 1) old)) t)
      (Closes s t (dst ++ [(b, w + 1)]) [(a, 2), (b, w + 1)] → ∀ at_ ∈ Claims.atomics, ∀ s3 old,
        s2.rmw t loc n (fun old => at_.2 (8 * n) old (Claims.operandOf s1 t w b)) = (s3, old, false) →
        exec (at_.1 d a b la w) s = ends s3 old) ∧
      (Closes s t (dst ++ [(b, (w + 1) * 2)]) [(a, 2), (b, (w + 1) * 2)] → ∀ s3 old,
        s2.rmw t loc n (fun old => if old = Claims.operandOf s1 t w b then some (Claims.operandOf s1 t w (b + w + 1))
          else none) = (s3, old, false) →
        exec (.atcas d a b la w) s = ends s3 old)

/-- R205, R216: an atomic on host memory travels as an AtomicOp, FetchAdd for ATADD, Swap for ATXCH and CAS for ATCAS, with the line
dropped from the L1, and its thread waits for the answer. Any other atomic, and each of these in an aperture without AOP, raises
HOST_ATOMIC with the address. -/
def Sys2Proof.Claims.HostAtomics : Prop :=
  ∀ (s : State) (t : TRef) (d a b la w : Nat), Alone s t → w < 2 →
    let n := 4 * (w + 1)
    let s1 := s.closeRegion t
    let ea := s1.pair t a
    let dst : List (Nat × Nat) := if d = a then [(a, 2)] else [(d, w + 1), (a, 2)]
    let rd (k : Nat) : Nat := Claims.operandOf s1 t w k
    ∀ (s2 : State) (vd ap g : Nat), s1.reach t ea n n .write = .at_ s2 (.host vd ap g) →
      let aop := ((assocGet ap (s2.vd vd).aps).getD {}).aop
      let refused : Host.Outcome State Fault Refusal := .next (s2.trap t causeHostAtomic ea)
      let sent (kind x cmp : Nat) : Host.Outcome State Fault Refusal :=
        let s3 := (s2.l1WriteBack (s2.coreOf t) vd (g / 128)).l1Drop (s2.coreOf t) vd (g / 128)
        .next ((s3.ask vd ap g ea n (.atomic t (if d = a then none else some (d, w + 1)) la) fun tag port h =>
          .hostAtomic tag port h n kind x cmp (s3.tOut vd)).modTh t fun x => { x with park := .host s3.seq })
      (Closes s t (dst ++ [(b, w + 1)]) [(a, 2), (b, w + 1)] →
        (∀ i ∈ ([.atfadd, .atmin, .atmax, .atminn, .atmaxn, .atand, .ator, .atxor] : List (Nat → Nat → Nat → Nat → Nat → Instr)),
          exec (i d a b la w) s = refused) ∧
        (aop = false → exec (.atadd d a b la w) s = refused ∧ exec (.atxch d a b la w) s = refused) ∧
        (aop = true → s2.hostFree vd ap g = true →
          exec (.atadd d a b la w) s = sent 0 (rd b) 0 ∧ exec (.atxch d a b la w) s = sent 1 (rd b) 0)) ∧
      (Closes s t (dst ++ [(b, (w + 1) * 2)]) [(a, 2), (b, (w + 1) * 2)] →
        (aop = false → exec (.atcas d a b la w) s = refused) ∧
        (aop = true → s2.hostFree vd ap g = true → exec (.atcas d a b la w) s = sent 2 (rd (b + w + 1)) (rd b)))

/-- R224, R203: at an array and at a home slice, an atomic's old value is what memory held, and memory then holds the new one;
poison stops it with nothing written. -/
def Sys2Proof.Claims.AtomicPerformed : Prop :=
  ∀ (s : State) (t : TRef) (n : Nat) (f : Nat → Option Nat) (v : Nat),
    (∀ blk off r, s.scrPoisoned blk off n = false → f (s.scrRead blk off n) = some v →
      s.rmw t (.scr blk off r) n f = (s.scrWrite blk off n v, s.scrRead blk off n, false)) ∧
    (∀ blk off r, s.scrPoisoned blk off n = false → f (s.scrRead blk off n) = none →
      s.rmw t (.scr blk off r) n f = (s, s.scrRead blk off n, false)) ∧
    (∀ blk off r, s.scrPoisoned blk off n = true → s.rmw t (.scr blk off r) n f = (s, 0, true)) ∧
    (∀ vd gpa ma, let s1 := (s.beyond (s.coreOf t) vd (gpa / 128) true).charge vd ma
      Memory.wf s1.mem = true → s1.devPoisoned ma n = false → f (readCells s1.mem ma n) = some v →
      ∃ s2, s.rmw t (.dev vd gpa ma) n f = (s2, readCells s1.mem ma n, false) ∧
        readCells s2.mem ma n = v % 256 ^ n)

/-- R216, R237: the first check of an access: an address that is no multiple of the size raises ALIGN_DATA with the address as
TRAPVAL, for loads, stores, atomics and the full/empty operations alike; FEQRY's 64 words begin at a multiple of 512. -/
def Obligations.MisalignedTraps : Prop :=
  ∀ (s : State) (t : TRef) (d a b o p la w : Nat), Alone s t → p < 6 → w < 2 →
    let s1 := Claims.opened s t p
    (∀ ld ∈ Claims.loads, (Claims.addressOf s1 t a o ld.2.1).toNat % ld.2.1 ≠ 0 →
      Claims.Access s t p [(d, Claims.regsOf ld.2.1), (a, 2)] [(a, 2)] →
      exec (ld.1 d a o p la) s = .next (s1.trap t causeAlignData (Claims.addressOf s1 t a o ld.2.1))) ∧
    (∀ st ∈ Claims.stores, (Claims.addressOf s1 t a o st.2).toNat % st.2 ≠ 0 →
      Claims.Access s t p [(d, Claims.regsOf st.2), (a, 2)] [(d, Claims.regsOf st.2), (a, 2)] →
      exec (st.1 d a o p) s = .next (s1.trap t causeAlignData (Claims.addressOf s1 t a o st.2))) ∧
    (∀ at_ ∈ Claims.atomics, ((s.closeRegion t).pair t a).toNat % (4 * (w + 1)) ≠ 0 →
      Closes s t ((if d = a then [(a, 2)] else [(d, w + 1), (a, 2)]) ++ [(b, w + 1)]) [(a, 2), (b, w + 1)] →
      exec (at_.1 d a b la w) s =
        .next ((s.closeRegion t).trap t causeAlignData ((s.closeRegion t).pair t a))) ∧
    (((s.closeRegion t).pair t a).toNat % (4 * (w + 1)) ≠ 0 →
      Closes s t ((if d = a then [(a, 2)] else [(d, w + 1), (a, 2)]) ++ [(b, (w + 1) * 2)]) [(a, 2), (b, (w + 1) * 2)] →
      exec (.atcas d a b la w) s =
        .next ((s.closeRegion t).trap t causeAlignData ((s.closeRegion t).pair t a))) ∧
    (let s0 := s.closeRegion t
      let at0 := Claims.addressOf s t a o 8
      let at1 := Claims.addressOf s0 t a o 8
      let bad0 : Host.Outcome State Fault Refusal := .next (s.trap t causeAlignData at0)
      let bad1 : Host.Outcome State Fault Refusal := .next (s0.trap t causeAlignData at1)
      let room := (s.th t).stack.length < 16
      (Readable s t [(d, 2), (a, 2)] [(a, 2)] → at0.toNat % 8 ≠ 0 →
        exec (.feldw d a o la) s = bad0 ∧ (room → exec (.feldwTry d a o) s = bad0)) ∧
      (Closes s t [(d, 2), (a, 2)] [(a, 2)] → at1.toNat % 8 ≠ 0 →
        exec (.feldc d a o la) s = bad1 ∧ (room → exec (.feldcTry d a o) s = bad1)) ∧
      (Closes s t [(d, 2), (a, 2)] [(d, 2), (a, 2)] → at1.toNat % 8 ≠ 0 →
        exec (.festf d a o) s = bad1 ∧ exec (.fests d a o) s = bad1 ∧ (room → exec (.festfTry d a o) s = bad1)) ∧
      (Closes s t [(d, 2), (a, 2)] [(a, 2)] → (s0.pair t a).toNat % 512 ≠ 0 →
        exec (.feqry d a) s = .next (s0.trap t causeAlignData (s0.pair t a))) ∧
      (Closes s t [(a, 2), (b, 1)] [(a, 2), (b, 1)] → (s0.pair t a).toNat % 8 ≠ 0 → 1 ≤ (s0.reg t b).toNat →
        (s0.reg t b).toNat ≤ 64 → exec (.feset a b) s = .next (s0.trap t causeAlignData (s0.pair t a)) ∧
          exec (.feclr a b) s = .next (s0.trap t causeAlignData (s0.pair t a))))

/-- R45 to R48: which region an address of a block belongs to. Above 52 bits, beyond the block's own scratchpad and between the
windows there is none: PROT. In the remote window the sibling's scratchpad answers, once the gang has started; a sibling that does not
exist, or a byte beyond SB, is PROT, and a gang or a sibling that has ended GANG_TICKET (R47, R372). -/
def Obligations.Regions : Prop :=
  ∀ (s : State) (blk va n : Nat), 0 < n →
    (va + n ≤ 0xF000000000000 → s.region blk va n = .global va) ∧
    (va < 0xF000000000000 → 0xF000000000000 < va + n → s.region blk va n = .prot) ∧
    (0xF000000000000 ≤ va → va < 0xF000000000000 + 2 ^ 20 → va - 0xF000000000000 + n ≤ (s.bk blk).sb →
      s.region blk va n = .array blk (va - 0xF000000000000) false) ∧
    (0xF000000000000 ≤ va → va < 0xF000000000000 + 2 ^ 20 → (s.bk blk).sb < va - 0xF000000000000 + n →
      s.region blk va n = .prot) ∧
    (0xF000000000000 + 2 ^ 20 ≤ va → va < 0xF000100000000 → s.region blk va n = .prot) ∧
    (0xF000100000000 + 2 ^ 24 ≤ va → s.region blk va n = .prot) ∧
    (0xF000100000000 ≤ va → va < 0xF000100000000 + 2 ^ 24 →
      let g := (va - 0xF000100000000) / 2 ^ 20
      let x := (va - 0xF000100000000) % 2 ^ 20
      let gang := s.ga (s.bk blk).gang
      let known := s.hasGa (s.bk blk).gang
      ((s.bk blk).sb < x + n → s.region blk va n = .prot) ∧
      (x + n ≤ (s.bk blk).sb → known = false → s.region blk va n = .ticket) ∧
      (x + n ≤ (s.bk blk).sb → known = true →
        (gang.size ≤ g → s.region blk va n = .prot) ∧
        (g < gang.size → gang.started = false → s.region blk va n = .gangWait) ∧
        (g < gang.size → gang.started = true → s.region blk va n =
          match s.blocks.find? fun y => y.gang == (s.bk blk).gang && y.gangIdx == g with
          | some y => .array y.id x true
          | none => .ticket)))

/-- R190: what a core writes at its L1 it reads back there, whatever the line held before. -/
def Sys2Proof.Claims.CacheReadsBack : Prop :=
  ∀ (s : State) (core vd gpa ma n v : Nat) (cs cs' : Bool), core < s.cores.length → gpa % 128 + n ≤ 128 →
    ((s.l1Write core vd gpa ma n v cs).l1Read core vd gpa ma n cs').2.1 = v % 2 ^ (8 * n)

/-- R6, R15: memory is bytes by address: reading after a write gives the bytes written, little-endian, and every other byte as
before; the canonical form makes equal memories equal lists. -/
def Sys2Proof.Claims.MemoryReadsBack : Prop :=
  ∀ (m m' : List Host.Cell) (a n v : Nat), Memory.wf m = true →
    readCells (writeCells m a n v) a n = v % 256 ^ n ∧
    (∀ b, b < a ∨ a + n ≤ b → cellGet (writeCells m a n v) b = cellGet m b) ∧
    (Memory.wf m' = true → (∀ b, cellGet m b = cellGet m' b) → m = m')

/-! ## Full/empty words -/

namespace Sys2Proof.Claims

/-- A place in device memory or in a scratchpad array. -/
def onDevice (l : Loc) : Prop := ∀ vd ap g, l ≠ .host vd ap g

noncomputable def feInstr (k : FeKind) (d a o la : Nat) : Instr :=
  match k with
  | .feldw => .feldw d a o la
  | .feldc => .feldc d a o la
  | .festf => .festf d a o

/-- FELDW closes no region; FELDC and FESTF, which write the word or its bit, do (R408). -/
def feOpened (k : FeKind) (s : State) (t : TRef) : State := if k = .feldw then s else s.closeRegion t

/-- The operands readable: vd's pair is a source of FESTF alone. -/
def FeAccess (k : FeKind) (s : State) (t : TRef) (d a : Nat) : Prop :=
  match k with
  | .feldw => Readable s t [(d, 2), (a, 2)] [(a, 2)]
  | .feldc => Closes s t [(d, 2), (a, 2)] [(a, 2)]
  | .festf => Closes s t [(d, 2), (a, 2)] [(d, 2), (a, 2)]

/-- FELDW needs read permission, the others write permission (R237). -/
def feNeed (k : FeKind) : Need := if k = .feldw then .read else .write

/-- The thread's release steps at its SCOPE are complete, with `s'` after them (R195). -/
def Released (s : State) (t : TRef) (s' : State) : Prop := s.releaseStep t (s.th t).scope.toNat = (s', true)

/-- FESTF completes the release steps first; the loads have none (R241). -/
def FeReleased (k : FeKind) (s : State) (t : TRef) (s' : State) : Prop := if k = .festf then Released s t s' else s' = s

/-- A pair due under a window of `la` instructions, each of its registers by itself (R55). -/
def due (dst la : Nat) (v : DWord) (x : Thread) : Thread :=
  { x with pending := x.pending ++
      [{ dst := dst, vals := [v.setWidth 32], window := la + 1 },
       { dst := dst + 1, vals := [(v >>> 32).setWidth 32], window := la + 1 }] }

end Sys2Proof.Claims

/-- R238, R241, R190: a FELDW that finds FULL delivers the word, the core's own dirty bytes written back first, poison with them (R423), and leaves it FULL;
a FELDC delivers it and leaves it EMPTY; a FESTF that finds EMPTY writes it and leaves it FULL. Loads perform the acquire steps at
SCOPE, FESTF the release steps. After a change of the bit the word's queues are served (R243). -/
def Sys2Proof.Claims.FullEmptyPerformed : Prop :=
  ∀ (s : State) (t : TRef) (k : FeKind) (d a o la : Nat), Alone s t → (k = .festf → la = 0) → Claims.FeAccess k s t d a →
    let s1 := Claims.feOpened k s t
    ∀ (s2 : State) (loc : Loc), s1.reach t (Claims.addressOf s1 t a o 8) 8 8 (Claims.feNeed k) = .at_ s2 loc →
      Claims.onDevice loc →
      ∀ s0, Claims.FeReleased k s2 t s0 →
      let s3 := s0.feBefore (s0.coreOf t) loc 8
      s3.fePoisoned loc 8 = false → s3.feBit loc = (match k with | .feldw => true | .feldc => true | .festf => false) →
      let dst := (s3.buOf t).base + d
      let s4 := s3.feLine (s3.coreOf t) loc
      let v : DWord := BitVec.ofNat 64 (s4.feData loc)
      exec (Claims.feInstr k d a o la) s = .next (match k with
        | .feldw => let s5 := (s4.modTh t (Claims.due dst la v)).modTh t Thread.step
          s5.acquire t (s5.th t).scope.toNat
        | .feldc => let s5 := ((s4.setFe loc false).modTh t (Claims.due dst la v)).modTh t Thread.stepRegion
          (s5.acquire t (s5.th t).scope.toNat).feServe loc
        | .festf => (pastRegion ((s4.feWrite loc (s3.pair t d).toNat).setFe loc true) t).feServe loc)

/-- R242, R244: otherwise the operation queues at its word, or is moored where the waiter table is full (256 entries at a home
slice, 64 at an array) or its block is not running; its thread parks, with FEBUDGET as the retry count. -/
def Sys2Proof.Claims.FullEmptyPends : Prop :=
  ∀ (s : State) (t : TRef) (k : FeKind) (d a o la : Nat), Alone s t → (k = .festf → la = 0) → Claims.FeAccess k s t d a →
    let s1 := Claims.feOpened k s t
    let ea := Claims.addressOf s1 t a o 8
    ∀ (s2 : State) (loc : Loc), s1.reach t ea 8 8 (Claims.feNeed k) = .at_ s2 loc → Claims.onDevice loc →
      ∀ s0, Claims.FeReleased k s2 t s0 →
      let s3 := s0.feBefore (s0.coreOf t) loc 8
      s3.fePoisoned loc 8 = false → s3.feBit loc = (match k with | .feldw => false | .feldc => false | .festf => true) →
      let s4 := s3.feLine (s3.coreOf t) loc
      let e : FeWait :=
        { ref := t, kind := k, loc := loc, va := ea, data := s3.pair t d, dst := (s3.buOf t).base + d, la := la
          count := (s3.th t).feBudget.toNat
          place := if s4.tableFull loc || !s4.running t.blk then .moored else .table }
      exec (Claims.feInstr k d a o la) s =
        .next (({ s4 with feq := (s4.feq.filter fun x => x.ref != t) ++ [e] } : State).modTh t fun x => { x with park := .fe })

/-- R239, R238: FELDW.try, FELDC.try and FESTF.try complete at once whatever the word's bit: each tests once, pushes the outcome, and
only a test that succeeds has the effect. FESTS completes whatever the word held: it writes the word and fills it. Whatever the
release steps need, FESTF.try and FESTS wait for. -/
def Obligations.FullEmptyAtOnce : Prop :=
  ∀ (s : State) (t : TRef) (k : FeKind) (d a o : Nat), Alone s t →
    let s1 := Claims.feOpened k s t
    let s1' := s.closeRegion t
    (Claims.FeAccess k s t d a → (s.th t).stack.length < 16 →
      ∀ (s2 : State) (loc : Loc), s1.reach t (Claims.addressOf s1 t a o 8) 8 8 (Claims.feNeed k) = .at_ s2 loc →
      Claims.onDevice loc →
      ∀ s0, Claims.FeReleased k s2 t s0 →
      let s3 := s0.feBefore (s0.coreOf t) loc 8
      s3.fePoisoned loc 8 = false →
      let full := s3.feBit loc
      let s4 (ok : Bool) := (s3.feLine (s3.coreOf t) loc).modTh t fun x => { x with stack := ok :: x.stack }
      let s5 := ((s4 true).setPair t d (BitVec.ofNat 64 ((s4 true).feData loc))).acquire t ((s4 true).th t).scope.toNat
      (k = .feldw → exec (.feldwTry d a o) s = .next (past (if full then s5 else s4 false) t)) ∧
      (k = .feldc → exec (.feldcTry d a o) s =
        .next (pastRegion (if full then (s5.setFe loc false).feServe loc else s4 false) t)) ∧
      (k = .festf → exec (.festfTry d a o) s = .next (pastRegion (if full then s4 false
        else (((s4 true).feWrite loc ((s4 true).pair t d).toNat).setFe loc true).feServe loc) t))) ∧
    (Closes s t [(d, 2), (a, 2)] [(d, 2), (a, 2)] →
      ∀ (s2 : State) (loc : Loc), s1'.reach t (Claims.addressOf s1' t a o 8) 8 8 .write = .at_ s2 loc →
      Claims.onDevice loc → ∀ s0, Claims.Released s2 t s0 →
      let s3 := s0.feBefore (s0.coreOf t) loc 8
      s3.fePoisoned loc 8 = false →
      let s4 := s3.feLine (s3.coreOf t) loc
      let s5 := (s4.feWrite loc (s4.pair t d).toNat).setFe loc true
      exec (.fests d a o) s = .next (pastRegion (if s3.feBit loc then s5 else s5.feServe loc) t))

namespace Sys2Proof.Claims

/-- The caches' part of an operation on the `n` lines from a place on (R190). -/
def lines (core : Nat) (l : Loc) (n : Nat) (s : State) : State :=
  (List.range n).foldl (fun s k => s.feLine core (l.plus (128 * k))) s

/-- The bits of the words `k, k+1, …` set one after another; a word whose bit changes has its queues served (R240, R243). -/
def setWords (full : Bool) (l : Loc) : List Nat → State → State
  | [], s => s
  | k :: r, s =>
    let w := l.plus (8 * k)
    setWords full l r (if s.feBit w = full then s.setFe w full else (s.setFe w full).feServe w)

end Sys2Proof.Claims

/-- R240: FEQRY reads the bits of 64 words as a mask, word k in bit k; FESET and FECLR set those of a run of 1 to 64 words
within one 512-byte block. A run of another length raises ILLEGAL, one that leaves the block ALIGN_DATA. -/
def Obligations.FullEmptyBlocks : Prop :=
  ∀ (s : State) (t : TRef) (d a b : Nat), Alone s t →
    let s1 := s.closeRegion t
    let ea := s1.pair t a
    let n := (s1.reg t b).toNat
    (Closes s t [(d, 2), (a, 2)] [(a, 2)] → ∀ s0 loc, s1.reach t ea 512 512 .read = .at_ s0 loc →
      Claims.onDevice loc →
      let s2 := s0.feBefore (s0.coreOf t) loc 512
      s2.fePoisoned loc 512 = false →
      ∀ m : DWord, (∀ k < 64, m.getLsbD k = s2.feBit (loc.plus (8 * k))) →
      let s3 := (List.range 4).foldl (fun s k => s.feLine (s.coreOf t) (loc.plus (128 * k))) s2
      exec (.feqry d a) s = .next (pastRegion ((s3.setPair t d m).acquire t (s3.th t).scope.toNat) t)) ∧
    (Closes s t [(a, 2), (b, 1)] [(a, 2), (b, 1)] → ∀ full : Bool,
      let i : Instr := if full then .feset a b else .feclr a b
      (n < 1 ∨ 64 < n → exec i s = .next (s1.trap t causeIllegal (BitVec.ofNat 64 n))) ∧
      (1 ≤ n → n ≤ 64 → 64 < ea.toNat / 8 % 64 + n → exec i s = .next (s1.trap t causeAlignData ea)) ∧
      (1 ≤ n → ea.toNat / 8 % 64 + n ≤ 64 → ∀ s2 loc, s1.reach t ea (8 * n) 8 .write = .at_ s2 loc →
        Claims.onDevice loc → ∀ s0, Claims.Released s2 t s0 →
        let s3 := s0.feBefore (s0.coreOf t) loc (8 * n)
        s3.fePoisoned loc (8 * n) = false →
        let s4 := (List.range ((loc.addr + 8 * n - 1) / 128 + 1 - loc.addr / 128)).foldl
          (fun s k => s.feLine (s.coreOf t) (loc.plus (128 * k))) s3
        exec i s = .next (pastRegion (Claims.setWords full loc (List.range n) s4) t)))

/-- R243, R244, R245: serving a word performs queued operations while one's condition holds, so that afterwards none that waits
in its table could be performed. A woken operation of a running block whose condition is still false waits again with
its count lowered by one, and with a count of 0 raises FE_STARVE. -/
def Obligations.FullEmptyServed : Prop :=
  (∀ (s : State) (l : Loc), ∀ e ∈ (s.feServe l).feq, e.place = .table → e.loc.sameWord l = true →
    e.kind.holds ((s.feServe l).feBit l) = false) ∧
  (∀ (s : State) (e : FeWait), s.feq.find? (fun x => x.ref == e.ref) = some e → e.place = .woken true →
    s.running e.ref.blk = true → ∀ s0 loc, s.reach e.ref e.va 8 8 (Claims.feNeed e.kind) = .at_ s0 loc →
    Claims.onDevice loc →
    let s2 := s0.feBefore (s0.coreOf e.ref) loc 8
    s2.fePoisoned loc 8 = false → e.kind.holds (s2.feBit loc) = false →
    let s3 := s2.feLine (s2.coreOf e.ref) loc
    let rest := s3.feq.filter fun x => x.ref != e.ref
    (e.count = 0 → exec (.fePresent e.ref) s =
      .next (({ s3 with feq := rest }).regionTrap e.ref causeFeStarve e.va)) ∧
    (0 < e.count → ∃ p, exec (.fePresent e.ref) s =
      .next { s3 with feq := rest ++ [{ e with loc := loc, count := e.count - 1, place := p }] })) ∧
  (∀ (s : State) (e : FeWait) (c : Bool), s.feq.find? (fun x => x.ref == e.ref) = some e → e.place = .woken c →
    s.running e.ref.blk = true → ∀ s0 loc, s.reach e.ref e.va 8 8 (Claims.feNeed e.kind) = .at_ s0 loc →
    Claims.onDevice loc →
    let s2 := s0.feBefore (s0.coreOf e.ref) loc 8
    s2.fePoisoned loc 8 = false → e.kind.holds (s2.feBit loc) = true →
    let s3 := ({ s2 with feq := s2.feq.filter fun x => x.ref != e.ref } : State).fePerform { e with loc := loc }
    exec (.fePresent e.ref) s = .next (if e.kind = .feldw then s3 else s3.feServe loc))

/-! ## Fences, the monitor, barriers, queues -/

/-- R229, R230, R195, R196, R207, R208: FENCE performs the acquire steps (kind 0), the release steps (1) or the release steps and then
the acquire steps (2, and 3 for .sc) at its scope; SETSCOPE writes SCOPE; ACQR has every core of the VD write back its L1 and each die
its far partition before an acquire at PKG, RELR has them drop the VD's lines after a release at PKG. -/
def Sys2Proof.Claims.FenceResults : Prop :=
  ∀ (s : State) (t : TRef), Alone s t → Closes s t [] [] →
    let s1 := s.closeRegion t
    let vd := s1.vdOf t
    (∀ sc, exec (.fence 0 sc) s = .next (pastRegion (s1.acquire t sc) t) ∧
      ∀ s2, s1.releaseStep t sc = (s2, true) →
        exec (.fence 1 sc) s = .next (pastRegion s2 t) ∧ exec (.fence 2 sc) s = .next (pastRegion (s2.acquire t sc) t) ∧
        exec (.fence 3 sc) s = .next (pastRegion (s2.acquire t sc) t)) ∧
    (∀ sc < 6, exec (.setscope sc) s = .next (pastRegion (s1.modTh t fun x => { x with scope := BitVec.ofNat 3 sc }) t)) ∧
    exec .acqr s = .next (pastRegion (((((s1.coresOf vd).foldl State.l1WriteBackAll s1).farWriteBackVd 0 vd).farWriteBackVd
      1 vd).acquire t 3) t) ∧
    (∀ s2, s2 = s1.release t 3 → exec .relr s = .next (pastRegion
      ((((s2.coresOf vd).foldl State.l1InvalidateAll s2).farInvalidateVd 0 vd).farInvalidateVd 1 vd) t))

/-- R195: the release steps leave no dirty byte in the core's L1, the acquire steps no line; from PKG on the die's far partition
holds no dirty byte, or no line, of the VD. The scope CORE (0) changes nothing. Below SYS the release is complete at once; at SYS a
thread that waits for its zero-length reads goes on once none of them is outstanding. -/
def Sys2Proof.Claims.ScopeSteps : Prop :=
  ∀ (s : State) (t : TRef) (sc : Nat),
    (sc = 0 → s.release t sc = s ∧ s.acquire t sc = s) ∧
    (1 ≤ sc → (∀ l ∈ ((s.release t sc).co (s.coreOf t)).l1, l.dirty = 0) ∧
      ((s.acquire t sc).co (s.coreOf t)).l1 = []) ∧
    (3 ≤ sc → (∀ x ∈ (s.release t sc).far, x.1 = dieOfCore (s.coreOf t) → x.2.vd = s.vdOf t → x.2.ma.isSome = true →
        x.2.dirty = 0) ∧
      ∀ x ∈ (s.acquire t sc).far, x.1 = dieOfCore (s.coreOf t) → x.2.vd ≠ s.vdOf t) ∧
    (sc < 5 → s.releaseStep t sc = (s.release t sc, true)) ∧
    (5 ≤ sc → ∀ s' tags, s.releaseStep t sc = (s', true) → (s.th t).relTags = some tags →
      s' = s ∧ ∀ r ∈ s.reqs, r.tag ∉ tags)

namespace Sys2Proof.Claims

/-- A status written to `vd` of a thread that steps on with its monitor disarmed (R234). -/
def mwaitDone (s : State) (t : TRef) (dst : Nat) (status : Word) : State :=
  (s.modBu t.blk t.bun fun b => b.write t.lane dst status).modTh t fun x => ({ x with monitor := none } : Thread).step

end Sys2Proof.Claims

/-- R233, R234: MWATCH arms the thread's monitor for the line, and for host memory with an event; MWAIT returns status 0 with an
event, 2 with no monitor armed, 1 with limit 0, and otherwise parks with its limit, 0xFFFF_FFFF for none. When the limit ends
the status is 1, or 0 with an event; the device may latch an event at any moment. -/
def Sys2Proof.Claims.MonitorResults : Prop :=
  ∀ (s : State) (t : TRef) (a d b : Nat), Alone s t →
    (Readable s t [(a, 2)] [(a, 2)] → ∀ s2 loc, s.reach t (s.pair t a) 1 1 .read = .at_ s2 loc →
      exec (.mwatch a) s = .next (past (s2.modTh t fun x => { x with monitor := some (match loc with
        | .dev vd gpa _ => { key := .dev vd (gpa / 128), event := false }
        | .scr blk off _ => { key := .scr blk (off / 128), event := false }
        | .host _ _ _ => { key := .host, event := true }) }) t)) ∧
    (Readable s t [(d, 1), (b, 1)] [(b, 1)] →
      let dst := (s.buOf t).base + d
      let n := s.reg t b
      let park (left : Option Nat) := s.modTh t fun x => { x with park := .mwait left dst }
      ((s.th t).monitor = none → exec (.mwait d b) s = .next (Claims.mwaitDone s t dst 2)) ∧
      (∀ m, (s.th t).monitor = some m →
        exec (.mwait d b) s = .next (if m.event then Claims.mwaitDone s t dst 0 else if n = 0 then Claims.mwaitDone s t dst 1
          else park (if n.toNat = 2 ^ 32 - 1 then none else some n.toNat)))) ∧
    (∀ dst m, (s.th t).park = .mwait (some 0) dst → (s.th t).monitor = some m →
      exec (.mwaitLimitExpire t) s = .next (Claims.mwaitDone s t dst (if m.event then 0 else 1))) ∧
    (∀ m, (s.th t).monitor = some m → ∃ s', exec (.monitorDisplacement t) s = .next s' ∧
      (s'.th t).monitor = some { m with event := true })

namespace Sys2Proof.Claims

/-- The fields of the barrier object as R259 places them. -/
structure BarObject where
  narr : Nat
  arr : Nat
  xbytes : Nat
  phase : Bool
  err : Bool
  expb : Nat
  ecode : Nat
  bcnt : Nat

/-- The object that 16 bytes hold. -/
def barObject (v : Nat) : BarObject :=
  { narr := v % 2 ^ 16, arr := v / 2 ^ 16 % 2 ^ 16, xbytes := v / 2 ^ 32 % 2 ^ 24, phase := v.testBit 56
    err := v.testBit 57, expb := v / 2 ^ 64 % 2 ^ 24, ecode := v / 2 ^ 88 % 2 ^ 8, bcnt := v / 2 ^ 96 % 2 ^ 24 }

/-- Complete (R260). -/
def BarObject.completed (o : BarObject) (err : Bool) (code : Nat) : BarObject :=
  { o with arr := 0, expb := 0, bcnt := 0, phase := !o.phase, err := err, ecode := code }

/-- What an update by `a` arrivals, `b` bytes and `e` expected bytes leaves (R260). -/
def BarObject.updated (o : BarObject) (a b e : Nat) : BarObject :=
  if o.narr < o.arr + a ∨ 2 ^ 24 ≤ o.bcnt + b ∨ 2 ^ 24 ≤ o.expb + e then o.completed true causeBarrier
  else
    let o' := { o with arr := o.arr + a, bcnt := o.bcnt + b, expb := o.expb + e }
    if o'.arr = o'.narr ∧ o'.bcnt = o'.xbytes + o'.expb then o'.completed false 0 else o'

end Sys2Proof.Claims

/-- R259, R260: an update of a well-formed barrier adds to its counts; a count that would pass its limit completes the phase in
error with BARRIER; the last arrival with the expected bytes completes it. Complete inverts PHASE and zeroes the counts. -/
def Obligations.BarrierUpdates : Prop :=
  ∀ (s : State) (blk off a b e : Nat), s.hasBk blk = true → Memory.wf (s.bk blk).mem = true →
    barBad (s.scrRead blk off 16) = false →
    Claims.barObject ((s.updateBar blk off a b e).scrRead blk off 16) =
      (Claims.barObject (s.scrRead blk off 16)).updated a b e

namespace Sys2Proof.Claims

/-- A waiter that its barrier releases: ERR and ECODE as its status, its mark cleared, an acquire at SCOPE (R262). -/
def released (s : State) (t : TRef) (dst v : Nat) : State :=
  let o := barObject v
  let s1 := (s.modBu t.blk t.bun fun b =>
    b.write t.lane dst (BitVec.ofNat 32 ((if o.err then 1 else 0) + 256 * o.ecode))).modTh t fun x =>
      ({ x with mark := none } : Thread).stepRegion
  s1.acquire t (s1.th t).scope.toNat

/-- The phase that a BWAIT waits on: the mark's for its barrier, otherwise the barrier's own (R262). -/
def waitsOn (x : Thread) (blk off v : Nat) : Bool :=
  match x.mark with
  | some (b, o, p) => if b = blk ∧ o = off then p else (barObject v).phase
  | none => (barObject v).phase

end Sys2Proof.Claims

/-- R260 to R263: ARRIVE adds vb arrivals for each active thread and EXPECT vb bytes, after the release steps at SCOPE, and set
the thread's mark to the phase. BWAIT and BWAITT return the status once the phase that they wait on has passed, park until
then, and BWAITT with limit 0, or at its limit's end, returns 2 and keeps the mark. A malformed barrier raises BARRIER. -/
def Obligations.BarrierInstructions : Prop :=
  ∀ (s : State) (t : TRef) (a b d : Nat), Alone s t →
    let s1 := s.closeRegion t
    let ea := s1.pair t a
    ∀ (s2 : State) (blk off : Nat) (r : Bool), (ea.toNat % 16 = 0 → 0xF000000000000 ≤ ea.toNat) →
      s1.reach t ea 16 16 .write = .at_ s2 (.scr blk off r) → s2.scrPoisoned blk off 16 = false →
      let v := s2.scrRead blk off 16
      let n := (s2.reg t b).toNat
      (Closes s t [(a, 2), (b, 1)] [(a, 2), (b, 1)] → barBad v = false → ∀ s3, Claims.Released s2 t s3 →
        let s4 := s3.modTh t fun x => { x with mark := some (blk, off, (Claims.barObject (s3.scrRead blk off 16)).phase) }
        exec (.arrive a b) s = .next (pastRegion (s4.updateBar blk off n 0 0) t) ∧
        exec (.expect a b) s = .next (pastRegion (s4.updateBar blk off 0 0 n) t)) ∧
      (Closes s t [(a, 2), (b, 1)] [(a, 2), (b, 1)] → barBad v = true →
        exec (.arrive a b) s = .next (s2.trap t causeBarrier ea) ∧
        exec (.expect a b) s = .next (s2.trap t causeBarrier ea)) ∧
      (let dst := (s2.buOf t).base + d
        let phase := Claims.waitsOn (s2.th t) blk off v
        let passed := phase != (Claims.barObject v).phase
        let marked := s2.modTh t fun x => { x with mark := some (blk, off, phase) }
        let parked (left : Option Nat) := marked.modTh t fun x => { x with park := .bwait blk off phase left dst }
        (Closes s t [(d, 1), (a, 2)] [(a, 2)] → barBad v = false →
          exec (.bwait d a) s = .next (if passed then Claims.released s2 t dst v else parked none)) ∧
        (Closes s t [(d, 1), (a, 2), (b, 1)] [(a, 2), (b, 1)] → barBad v = false →
          let n := (s1.reg t b).toNat
          exec (.bwaitt d a b) s = .next (if passed then Claims.released s2 t dst v
            else if n = 0 then pastRegion (marked.modBu t.blk t.bun fun b => b.write t.lane dst 2) t
            else parked (if n = 2 ^ 32 - 1 then none else some n)))) ∧
      (∀ dst phase, (s.th t).park = .bwait blk off phase (some 0) dst →
        let v := s.scrRead blk off 16
        exec (.bwaittLimitExpire t) s = .next (if phase = (Claims.barObject v).phase
          then pastRegion (s.modBu t.blk t.bun fun b => b.write t.lane dst 2) t else Claims.released s t dst v))

namespace Sys2Proof.Claims

/-- Byte `k` of a queue descriptor (R264). -/
def qByte (s : State) (blk off k : Nat) : Nat := s.scrRead blk (off + k) 1

/-- Where slot `k`'s handle and owner stand (R264). -/
def qHandleAt (slots off k : Nat) : Nat := off + 48 + (slots + 7) / 8 * 8 + 8 * k
def qOwnerAt (off k : Nat) : Nat := off + 48 + k

/-- What a queue instruction needs: the queue exists, its descriptor is well formed, and no byte of it is poisoned (R267). -/
structure Queue (s : State) (t : TRef) (q off : Nat) : Prop where
  place : (s.bk t.blk).queues[q]? = some off
  formed : s.queueBad t.blk off q = false
  sound : s.scrPoisoned t.blk off (48 + 9 * ((qByte s t.blk off 0 + 7) / 8 * 8)) = false

end Sys2Proof.Claims

/-- R264, R265: a push puts the handle and the pusher's bundle at the tail, raises COUNT and the bundle's occupancy, and fails
when the queue is full or the bundle's allowance is used; a pop takes the head, lowers COUNT and the occupancy of the bundle that
had pushed it, and fails when the queue is empty. -/
def Obligations.QueueOperations : Prop :=
  ∀ (s : State) (blk off bun : Nat) (h : DWord), s.hasBk blk = true → bun < 32 → Memory.wf (s.bk blk).mem = true →
    let q := Claims.qByte s blk off
    0 < q 0 → q 0 ≤ 128 → q 2 < q 0 → q 3 ≤ q 0 →
    (s.qPush blk off bun h = none ↔ q 0 ≤ q 3 ∨ s.allowance blk off ≤ q (16 + bun)) ∧
    (∀ s', s.qPush blk off bun h = some s' →
      let k := (q 2 + q 3) % q 0
      s'.scrRead blk (Claims.qHandleAt (q 0) off k) 8 = h.toNat ∧ s'.scrRead blk (Claims.qOwnerAt off k) 1 = bun ∧
      Claims.qByte s' blk off 3 = q 3 + 1 ∧ Claims.qByte s' blk off (16 + bun) = (q (16 + bun) + 1) % 256 ∧
      Claims.qByte s' blk off 2 = q 2) ∧
    (s.qPop blk off = none ↔ q 3 = 0) ∧
    (∀ s' v, s.qPop blk off = some (s', v) →
      v.toNat = s.scrRead blk (Claims.qHandleAt (q 0) off (q 2)) 8 ∧
      Claims.qByte s' blk off 3 = q 3 - 1 ∧ Claims.qByte s' blk off 2 = (q 2 + 1) % q 0 ∧
      (∀ own < 32, s.scrRead blk (Claims.qOwnerAt off (q 2)) 1 = own → 0 < q (16 + own) →
        Claims.qByte s' blk off (16 + own) = q (16 + own) - 1))

/-- R265, R266, R267: a queue number that the block does not have, and a malformed descriptor, raise QUEUE with 1 or 2 in TRAPVAL[15:8].
QPUSH and QTRYPUSH push vb after the release steps at SCOPE, QPOP and QTRYPOP pop to vd and perform the acquire
steps; an operation that succeeds is followed by the blocked ones that can now proceed. The try forms push the outcome; without
success the others block on the queue. -/
def Obligations.QueueInstructions : Prop :=
  (∀ (s : State) (t : TRef) (q d b : Nat) (val : Nat), Alone s t →
    let s1 := s.closeRegion t
    ((s1.bk t.blk).queues[q]? = none ∧ val = q + 2 ^ 8) ∨
      (∃ off, (s1.bk t.blk).queues[q]? = some off ∧ s1.queueBad t.blk off q = true ∧ val = q + 2 * 2 ^ 8) →
    let trapped : Host.Outcome State Fault Refusal := .next (s1.trap t causeQueue (BitVec.ofNat 64 val))
    let room := (s.th t).stack.length < 16
    (Closes s t [(b, 2)] [(b, 2)] → exec (.qpush q b) s = trapped ∧ (room → exec (.qtrypush q b) s = trapped)) ∧
    (Closes s t [(d, 2)] [] → exec (.qpop d q) s = trapped ∧ (room → exec (.qtrypop d q) s = trapped))) ∧
  ∀ (s : State) (t : TRef) (q d b off : Nat), Alone s t →
    let s1 := s.closeRegion t
    Claims.Queue s1 t q off →
    let told (ok : Bool) (s : State) : State := s.modTh t fun x => { x with stack := ok :: x.stack }
    let served (s : State) : State := s.serveQueue t.blk q off (s.bk t.blk).waiters.length
    let h := s1.pair t b
    (Closes s t [(b, 2)] [(b, 2)] → ∀ s2, Claims.Released s1 t s2 →
      (∀ s3, s2.qPush t.blk off t.bun h = some s3 →
        exec (.qpush q b) s = .next (pastRegion (served s3) t) ∧
        ((s.th t).stack.length < 16 → exec (.qtrypush q b) s = .next (pastRegion (served (told true s3)) t))) ∧
      (s2.qPush t.blk off t.bun h = none →
        (∃ s3, exec (.qpush q b) s = .next s3 ∧ (s3.th t).park = .queue q ∧ (s3.th t).pc = (s2.th t).pc ∧
          (s2.hasBk t.blk = true → ∃ w, (s3.bk t.blk).waiters = (s2.bk t.blk).waiters ++ [w] ∧ w.q = q ∧ w.bun = t.bun ∧
            w.push = some h ∧ w.lanes = [t.lane])) ∧
        ((s.th t).stack.length < 16 → exec (.qtrypush q b) s = .next (pastRegion (told false s2) t)))) ∧
    (Closes s t [(d, 2)] [] →
      (∀ s3 v, s1.qPop t.blk off = some (s3, v) →
        let s4 := (s3.modBu t.blk t.bun fun x => x.writes t.lane ((s1.buOf t).base + d) [loWord v, hiWord v]).acquire t
          (s3.th t).scope.toNat
        exec (.qpop d q) s = .next (pastRegion (served s4) t) ∧
        ((s.th t).stack.length < 16 → exec (.qtrypop d q) s = .next (pastRegion (served (told true s4)) t))) ∧
      (s1.qPop t.blk off = none →
        (∃ s3, exec (.qpop d q) s = .next s3 ∧ (s3.th t).park = .queue q ∧ (s3.th t).pc = (s1.th t).pc ∧
          (s1.hasBk t.blk = true → ∃ w, (s3.bk t.blk).waiters = (s1.bk t.blk).waiters ++ [w] ∧ w.q = q ∧ w.push = none ∧
            w.dst = (s1.buOf t).base + d ∧ w.lanes = [t.lane])) ∧
        ((s.th t).stack.length < 16 → exec (.qtrypop d q) s = .next (pastRegion (told false s1) t))))

/-- R269, R270: BAR takes the release steps at its scope, counts the thread as arrived, and parks it. When every other thread that
takes part has arrived or exited, the generation opens: the next one begins with no thread arrived, and all that had arrived
step on. Otherwise the generation stands, with the thread among those that wait. Without FLAGS.COOPERATIVE a scope from DIE on
raises BARRIER with the scope as TRAPVAL; at QUAD, a gang whose ticket is retired raises GANG_TICKET with the id as TRAPVAL. -/
def Obligations.HardwareBarriers : Prop :=
  ∀ (s : State) (t : TRef) (sc id : Nat), Alone s t → Closes s t [] [] →
    let s1 := s.closeRegion t
    let b := s1.bkOf t
    let s2 := s1.release t sc
    let k := s2.barKey t sc id
    let l := (s2.bar k).arrived ++ [t]
    (2 ≤ sc → (s1.ke b.kernel).desc.cooperative = false →
      exec (.bar sc id) s = .next (s1.trap t causeBarrier (BitVec.ofNat 64 sc))) ∧
    (sc = 1 → s1.hasGa b.gang = false →
      exec (.bar sc id) s = .next (s1.trap t causeGangTicket (BitVec.ofNat 64 id))) ∧
    ((2 ≤ sc → (s1.ke b.kernel).desc.cooperative = true) → (sc = 1 → (s1.ga b.gang).started = true) →
      (sc = 4 → ∀ c ∈ s1.cmds, c.blk = t.blk → c.bun = t.bun → c.cls = 2 → c.inFlight = false) →
      (∃ s', exec (.bar sc id) s = .next s') ∧
      (sc < 4 → (∀ x ∈ s2.threads, s2.partOf k x.ref = true → x.park = .exited ∨ x.ref ∈ l) → l.Nodup →
        (∀ u ∈ l, ∃ x ∈ s2.threads, x.ref = u) →
        ∀ s', exec (.bar sc id) s = .next s' →
          (s'.bar k).gen = (s2.bar k).gen + 1 ∧ (s'.bar k).arrived = [] ∧
          ∀ u ∈ l, (s'.th u).park = .running ∧ (s'.th u).pc = (s2.th u).pc + 4) ∧
      ((∃ x ∈ s2.threads, s2.partOf k x.ref = true ∧ x.park ≠ .exited ∧ x.ref ∉ l) →
        ∀ s', exec (.bar sc id) s = .next s' →
          (s'.bar k).gen = (s2.bar k).gen ∧ (s'.bar k).arrived = l ∧
          (s'.th t).park = .bar sc id (s2.bar k).gen ∧ (s'.th t).pc = (s2.th t).pc))

/-- R257, R258: WAITC waits until its class's counter is at most n. It then performs the acquire steps at SCOPE and steps on, or,
when the bundle holds a fault of the class, raises the oldest of them and clears it. -/
def Obligations.WaitForCounter : Prop :=
  ∀ (s : State) (t : TRef) (c n : Nat), Alone s t → Closes s t [] [] →
    let s1 := s.closeRegion t
    let s2 := s1.acquire t (s1.th t).scope.toNat
    let oldest := (s2.bu t.blk t.bun).held.find? fun h => h.cls == c
    (n < (s1.cmds.filter fun x => x.blk == t.blk && x.bun == t.bun && x.cls == c).length →
      ∃ k, exec (.waitc c n) s = .next (({ s1 with seq := s1.seq + 1 } : State).modTh t
        fun x => { x with park := .waitc c n k })) ∧
    ((s1.cmds.filter fun x => x.blk == t.blk && x.bun == t.bun && x.cls == c).length ≤ n →
      (oldest = none → exec (.waitc c n) s = .next (pastRegion s2 t)) ∧
      (∀ h, oldest = some h → s2.live t = true → exec (.waitc c n) s = .next
        ((s2.modBu t.blk t.bun fun b => { b with held := b.held.filter fun x => x.cmd != h.cmd }).trap t h.cause h.val)))

/-- R282, R283: YIELD steps past and leaves the thread unready until 64 groups of its sub-core have issued or the wait ends; SLEEP
steps past and leaves it unready for vb cycles. When the wait ends the thread is ready again. -/
def Sys2Proof.Claims.YieldAndSleep : Prop :=
  ∀ (s : State) (t : TRef) (b : Nat), Alone s t →
    (Readable s t [] [] → exec .yield s = .next ((past s t).modTh t fun x => { x with park := .yielding 64 })) ∧
    (Readable s t [(b, 1)] [(b, 1)] → exec (.sleep b) s = .next ((past s t).modTh t fun x =>
      { x with park := if (s.reg t b).toNat = 0 then .running else .sleep (s.reg t b).toNat })) ∧
    (∀ n, (s.th t).park = .yielding n →
      exec (.yieldEnd t) s = .next (s.modTh t fun x => { x with park := .running })) ∧
    ((s.th t).park = .sleep 0 → exec (.sleepExpire t) s = .next (s.modTh t fun x => { x with park := .running }))

/-! ## Control flow, threads, rows, traps -/

namespace Sys2Proof.Claims

/-- A thread that goes on at `pc`: its open windows close (R56). -/
def jumped (s : State) (t : TRef) (pc : DWord) : State :=
  s.modTh t fun x =>
    { x with pc := pc, park := .running, shadowOk := false, firstTry := none, waitEng := none
             pending := x.pending.map fun p => { p with window := 0 } }

/-- BR and CALL: the address of the fetch block plus 64 times the sign-extended offset (R59). -/
def target (pc : DWord) (o : Nat) : DWord := BitVec.ofNat 64 (pc.toNat / 64 * 64) + BitVec.ofInt 64 (64 * signExt 23 o)

/-- The condition k2 on the top predicate entry (R284). -/
def cond (k : Nat) (x : Thread) : Bool :=
  if k = 0 then true else if k = 1 then x.stack.headD false else !x.stack.headD false

/-- p1 pops the top entry. -/
def pop (p : Nat) (x : Thread) : Thread := if p = 1 then { x with stack := x.stack.tail } else x

/-- A call's effect: the return address, the next fetch block, waits in the store buffer below SP (R286). -/
def called (s : State) (t : TRef) (loc : Loc) (page : Nat × Nat) (p : Nat) (goal : DWord) : State :=
  let x := s.th t
  let s' := s.modTh t fun y => { y with stores := y.stores ++
    [{ loc := loc, size := 8, data := BitVec.ofNat 128 ((x.pc.toNat / 64 * 64 + 64) % 2 ^ 64), pol := 0
       vpage := (x.sp - 8).toNat / 65536, pageVa := page.1, pageSize := page.2, pc := x.pc }] }
  jumped (s'.modTh t fun y => { pop p y with sp := y.sp - 8 }) t goal

/-- A call's stack slot: SP within its limits, the slot writable, and room in the store buffer (R286). -/
structure CallSlot (s : State) (t : TRef) (s2 : State) (loc : Loc) : Prop where
  low : (s.th t).slo.toNat + 8 ≤ (s.th t).sp.toNat
  high : (s.th t).sp.toNat ≤ (s.th t).shi.toNat
  place : s.reach t ((s.th t).sp - 8) 8 8 .write = .at_ s2 loc
  same : s2.th t = s.th t
  room : (s2.th t).stores.length < 16 * (s2.bkOf t).rbuf

end Sys2Proof.Claims

/-- R59, R284 to R286: BR goes to its target when its condition on the top entry holds, for active and inactive threads alike,
and otherwise steps past; p1 pops. JR goes to its pair's address, which must be 64-byte aligned. A taken CALL or calling JR puts
the next fetch block's address at SP − 8 and lowers SP by 8; SP outside its limits raises CALLSTACK. -/
def Sys2Proof.Claims.BranchesAndCalls : Prop :=
  ∀ (s : State) (t : TRef) (k p o a c : Nat), k < 3 → p < 2 → c < 2 → Sole s t →
    let x := s.th t
    (Readable s t [] [] → (k ≠ 0 ∨ p = 1 → x.stack ≠ []) →
      exec (.br k p o) s = .next (if Claims.cond k x then Claims.jumped (s.modTh t (Claims.pop p)) t (Claims.target x.pc o)
        else past (s.modTh t (Claims.pop p)) t)) ∧
    (Readable s t [] [] → (k ≠ 0 ∨ p = 1 → x.stack ≠ []) →
      ((Claims.cond k x && x.active) = false → exec (.call k p o) s = .next (past (s.modTh t (Claims.pop p)) t)) ∧
      ((Claims.cond k x && x.active) = true →
        (∀ s2 loc, Claims.CallSlot s t s2 loc → ∃ page,
          exec (.call k p o) s = .next (Claims.called s2 t loc page p (Claims.target x.pc o))) ∧
        (x.sp.toNat < x.slo.toNat + 8 ∨ x.shi.toNat < x.sp.toNat →
          exec (.call k p o) s = .next (s.trap t causeCallstack x.sp)))) ∧
    (Readable s t [(a, 2)] [(a, 2)] → (k ≠ 0 → x.stack ≠ []) →
      let goal := s.pair t a
      ((Claims.cond k x && x.active) = false → exec (.jr k c a) s = .next (past s t)) ∧
      ((Claims.cond k x && x.active) = true →
        (goal.toNat % 64 ≠ 0 → exec (.jr k c a) s = .next (s.trap t causeAlignFetch goal)) ∧
        (goal.toNat % 64 = 0 → exec (.jr k 0 a) s = .next (Claims.jumped s t goal)) ∧
        (goal.toNat % 64 = 0 → ∀ s2 loc, Claims.CallSlot s t s2 loc → ∃ page,
          exec (.jr k 1 a) s = .next (Claims.called s2 t loc page 0 goal))))

/-- R287: RET loads the return address at SP, the thread's own buffered store before memory, raises SP by 8 and goes there; SP
outside its limits raises CALLSTACK, an address that is not 64-byte aligned ALIGN_FETCH. -/
def Sys2Proof.Claims.Returns : Prop :=
  ∀ (s : State) (t : TRef), Alone s t → Readable s t [] [] →
    let x := s.th t
    let ret (s : State) (v : Nat) : Host.Outcome State Fault Refusal :=
      if v % 64 = 0 then .next (Claims.jumped (s.modTh t fun x => { x with sp := x.sp + 8 }) t (BitVec.ofNat 64 v))
      else .next (s.trap t causeAlignFetch (BitVec.ofNat 64 v))
    (x.sp.toNat < x.slo.toNat ∨ x.shi.toNat < x.sp.toNat + 8 → exec .ret s = .next (s.trap t causeCallstack x.sp)) ∧
    (x.slo.toNat ≤ x.sp.toNat → x.sp.toNat + 8 ≤ x.shi.toNat → ∀ s2 loc, s.reach t x.sp 8 8 .read = .at_ s2 loc →
      let own := bufView (s2.th t).stores loc 8
      (own.1 = 255 → exec .ret s = ret s2 own.2) ∧
      (own.1 ≠ 255 → Claims.onDevice loc → ∀ s3 v, s2.locRead (s2.coreOf t) loc 8 .l1 = (s3, v, false) →
        exec .ret s = ret s3 (mergeBytes 8 own.1 own.2 v)))

/-- R272 to R276: SPAWN raises ALIGN_FETCH for an entry that is not 64-byte aligned and PROT for one beyond the global space; else it
adds its child to the block's bin of that entry, which becomes due with its 32nd, or opens one of the core's 16 bins, and otherwise parks
the spawner; BINFLUSH makes the block's bins due, as the end of 4,096 cycles makes one. A due
bin is launched as a bundle: child i in lane i at the entry, its argument in v0. EXIT ends the thread. -/
def Obligations.SpawnAndExit : Prop :=
  (∀ (s : State) (t : TRef) (a b : Nat), Alone s t → Closes s t [(a, 2), (b, 1)] [(a, 2), (b, 1)] →
    let s1 := s.closeRegion t
    let entry := s1.pair t a
    let arg := s1.reg t b
    let core := s1.coreOf t
    let mine (x : Bin) : Bool := x.blk == t.blk && x.entry == entry
    (entry.toNat % 64 ≠ 0 → exec (.spawn a b) s = .next (s1.trap t causeAlignFetch entry)) ∧
    (entry.toNat % 64 = 0 → 0xF000000000000 ≤ entry.toNat → exec (.spawn a b) s = .next (s1.trap t causeProt entry)) ∧
    (entry.toNat % 64 = 0 → entry.toNat < 0xF000000000000 →
    ((s1.co core).bins.find? mine = none → (s1.co core).bins.length < 16 →
      exec (.spawn a b) s = .next (pastRegion (s1.modCo core fun c => { c with bins := c.bins ++
        [{ blk := t.blk, entry := entry, args := [arg], left := 4096, due := none }] }) t)) ∧
    (∀ x, (s1.co core).bins.find? mine = some x → x.due = none → x.args.length < 32 →
      exec (.spawn a b) s = .next (pastRegion (({ s1 with seq := s1.seq + 1 } : State).modCo core fun c =>
        { c with bins := c.bins.map fun y => if mine y then { y with
            args := y.args ++ [arg], due := if x.args.length = 31 then some s1.seq else none } else y }) t)) ∧
    ((∀ x, (s1.co core).bins.find? mine = some x → x.due ≠ none ∨ 32 ≤ x.args.length) →
      ((s1.co core).bins.find? mine = none → 16 ≤ (s1.co core).bins.length) →
      exec (.spawn a b) s = .next (({ s1 with seq := s1.seq + 1 } : State).modTh t
        fun x => { x with park := .bin entry arg s1.seq })))) ∧
  (∀ (s : State) (t : TRef), Alone s t → Readable s t [] [] →
    exec .binflush s = .next (past (({ s with seq := s.seq + 1 } : State).modCo (s.coreOf t) fun c =>
      { c with bins := c.bins.map fun x => if x.blk = t.blk ∧ x.due = none then { x with due := some s.seq } else x }) t)) ∧
  (∀ (s : State) (core k : Nat) (x : Bin), (s.co core).bins[k]? = some x → x.left = 0 → x.due = none →
    exec (.binwaitExpire core k) s = .next (({ s with seq := s.seq + 1 } : State).modCo core fun c =>
      { c with bins := c.bins.set k { x with due := some s.seq } })) ∧
  (∀ (s s' : State) (core : Nat) (x : Bin), 0 < (s.ke (s.bk x.blk).kernel).desc.alloc → x.args.length ≤ 32 →
    (∀ y ∈ s.threads, ∃ z ∈ s.bundles, z.blk = y.ref.blk ∧ z.idx = y.ref.bun) →
    s.launchBin core x = some s' → ∃ idx < 32, (∀ z ∈ s.bundles, z.blk = x.blk → z.idx ≠ idx) ∧
      ∀ i (h : i < x.args.length), (s'.bu x.blk idx).reg i 0 = x.args[i] ∧
        (s'.th { blk := x.blk, bun := idx, lane := i }).pc = x.entry) ∧
  (∀ (s s' : State) (core : Nat) (x : Bin), (∀ y ∈ (s.co core).bins, y.due ≠ none → s.running y.blk = true → y = x) →
    (s.co core).bins.Nodup → x ∈ (s.co core).bins → x.due ≠ none → s.running x.blk = true →
    s.launchBin core x = some s' → exec (.binLaunch core) s = .next (s'.serveSpawners core)) ∧
  (∀ (s : State) (t : TRef), Alone s t → Closes s t [] [] → (∀ b ∈ (s.closeRegion t).bars, t ∉ b.arrived) →
    ∃ s', exec .exit s = .next s' ∧ s'.live t = false)

/-- R289 to R295: what the bundle-convergent THREAD instructions do in their round, with va of the lowest active lane: RALLOC
asks for rows when the target is above ALLOC, RFREE gives rows back, WBASE moves the window, VIEW sets a view, a value with
EN = 0 as 0. Each participant steps to the next word. A target that is no allocation and a reserved view raise ILLEGAL with the value in
every active participant; a window or an enabled view's footprint beyond ALLOC, or a view that is not aligned, WINDOW; the bundle then
stands as it was. RALLOC_GRANT gives the rows, which read as zero; RFREE_RELEASE gives
them back once no command covers them. -/
def Obligations.AllocationResults : Prop :=
  (∀ (s : State) (blk bun a : Nat) (l : List TRef), InRound s blk bun l →
    windowTrap (s.bu blk bun) [(a, 1)] = none → ∀ lead r, (l.filter fun t => (s.th t).active) = lead :: r →
    let v := s.reg lead a
    let n := v.toNat
    let b := s.bu blk bun
    let gives (i : Instr) (p : Bundle → Prop) : Prop :=
      ∃ s', exec i s = .next s' ∧ (∀ t ∈ l, (s'.th t).pc = (s.th t).pc + 4) ∧ p (s'.bu blk bun)
    let traps (i : Instr) (cause : Nat) : Prop :=
      (∀ t ∈ l, (s.th t).active = true → (s.th t).trapVec ≠ 0 ∧ (s.th t).trapSave = none) →
      ∃ s', exec i s = .next s' ∧ s'.bundles = s.bundles ∧ ∀ t ∈ l,
        ((s.th t).active = true → (s'.th t).trapCause = BitVec.ofNat 8 cause ∧ (s'.th t).trapVal = BitVec.ofNat 64 n ∧
          (s'.th t).trapPc = (s.th t).pc ∧ (s'.th t).pc = (s.th t).trapVec) ∧
        ((s.th t).active = false → (s'.th t).pc = (s.th t).pc + 4)
    (n % 16 ≠ 0 ∨ n < 16 ∨ 1024 < n → traps (.ralloc a) causeIllegal ∧ traps (.rfree a) causeIllegal) ∧
    (n % 16 = 0 → 16 ≤ n → n ≤ 1024 → n < b.alloc → (b.wbase ≠ 0 ∧ n ≤ b.wbase + 127) ∨ b.viewsBeyond n = true →
      traps (.rfree a) causeWindow) ∧
    (n % 16 ≠ 0 ∨ (n ≠ 0 ∧ b.alloc ≤ n + 127) → traps (.wbase a) causeWindow) ∧
    (∀ sel < 4, v.getLsbD 31 = true → (viewBad v = true → traps (.view a sel) causeIllegal) ∧
      (viewBad v = false → viewBase v % (if sel = 3 then 16 else 8) ≠ 0 ∨ b.alloc < viewBase v + viewRegs (sel == 3) v →
        traps (.view a sel) causeWindow)) ∧
    (n % 16 = 0 → 16 ≤ n → n ≤ 1024 →
      gives (.ralloc a) (fun x => x.alloc = b.alloc ∧ x.rf = b.rf ∧ if n ≤ b.alloc then x.want = b.want
        else ∃ k, x.want = some (n, k)) ∧
      (b.alloc ≤ n → gives (.rfree a) fun x => x = b) ∧
      (n < b.alloc → (b.wbase = 0 ∨ b.wbase + 127 < n) → b.viewsBeyond n = false → s.coversFrom blk bun n = false →
        gives (.rfree a) fun x => x.alloc = n ∧ x.rf = b.rf.map (·.take n)) ∧
      (n < b.alloc → (b.wbase = 0 ∨ b.wbase + 127 < n) → b.viewsBeyond n = false → s.coversFrom blk bun n = true →
        gives (.rfree a) fun x => x.alloc = b.alloc ∧ x.free = some n)) ∧
    (n % 16 = 0 → (n = 0 ∨ n + 127 < b.alloc) → gives (.wbase a) fun x => x.wbase = n) ∧
    (∀ sel < 4, (v.getLsbD 31 = true → viewBad v = false ∧ viewBase v % (if sel = 3 then 16 else 8) = 0 ∧
        viewBase v + viewRegs (sel == 3) v ≤ b.alloc) →
      gives (.view a sel) fun x => (match sel with
        | 0 => x.viewT0
        | 1 => x.viewT1
        | 2 => x.viewAcc
        | _ => x.viewCk) = if v.getLsbD 31 then v else 0)) ∧
  (∀ (s : State) (core sub n k : Nat) (b : Bundle) (r : List Bundle), s.wanting core sub = b :: r → b.want = some (n, k) →
    b.alloc ≤ n → n - b.rowsHere ≤ s.rowsFree core sub → s.bu b.blk b.idx = b →
    (∀ x ∈ b.rf, x.length = b.alloc) →
    ∃ s', exec (.rallocGrant core sub) s = .next s' ∧
      let x := s'.bu b.blk b.idx
      x.alloc = n ∧ x.want = none ∧ ∀ lane p, x.reg lane p = if p < b.alloc then b.reg lane p else 0) ∧
  (∀ (s : State) (blk bun n : Nat), (s.bu blk bun).free = some n → s.coversFrom blk bun n = false →
    ∃ s', exec (.rfreeRelease blk bun) s = .next s' ∧ (s'.bu blk bun).alloc = n ∧ (s'.bu blk bun).free = none ∧
      (s'.bu blk bun).rf = (s.bu blk bun).rf.map (·.take n))

/-- R401, R402, R415: a trap with a handler sets TRAPCAUSE, TRAPPC and TRAPVAL, saves the predicate stack and empties it, and
goes on at TRAPVEC, where a new region begins; nothing else of the thread that software reads changes, and no register row. While the
buffered stores wait for results of earlier loads (R56, R201), the thread parks with its windows closed. With
TRAPVEC 0 or the trap save occupied, the kernel fails: none of its blocks is left, and none is placed. -/
def Obligations.TrapEntry : Prop :=
  ∀ (s : State) (t : TRef) (cause : Nat) (pc val : DWord),
    let x := s.th t
    let s' := s.enterTrap t cause pc val
    let y := s'.th t
    (x.trapVec ≠ 0 → x.trapSave = none → x.stores ≠ [] → (∃ p ∈ x.pending, p.arrived = false) →
      s' = s.modTh t fun z => { z with pending := z.pending.map (fun p => { p with window := 0 }), park := .trapping cause pc val }) ∧
    (x.trapVec ≠ 0 → x.trapSave = none → x.stores = [] ∨ (∀ p ∈ x.pending, p.arrived = true) → (s.closeRegion t).live t = true →
      y.trapCause = BitVec.ofNat 8 cause ∧ y.trapPc = pc ∧ y.trapVal = val ∧ y.trapSave = some x.stack ∧ y.stack = [] ∧
      y.pc = x.trapVec ∧ y.regionPc = x.trapVec ∧ y.park = .running ∧ y.stores = [] ∧
      y.trapVec = x.trapVec ∧ y.sp = x.sp ∧ y.slo = x.slo ∧ y.shi = x.shi ∧ y.scope = x.scope ∧ y.fpcsr = x.fpcsr ∧
      y.rngs = x.rngs ∧ y.feBudget = x.feBudget ∧ s'.bundles = (s.closeRegion t).bundles) ∧
    (x.trapVec = 0 ∨ x.trapSave ≠ none → let k := (s.bkOf t).kernel
      (∀ b ∈ s'.blocks, b.kernel ≠ k) ∧
      (s.hasKe k = true → (s'.ke k).failed = true ∧ (s'.ke k).plans = [] ∧ (s'.ke k).next = (s.ke k).gangs))

/-- R403 to R406: TRAP and BRK raise their cause with the 14-bit code h × 128 + l; TRET restores the saved predicate stack,
empties the trap save and goes to TRAPPC with a new region there, and without a saved stack raises ILLEGAL with the word, its region
still open; SVC performs the release steps at SYS and then writes its bundle's entry, and waits while they are not complete or the
enabled fault queue is full; NOP does nothing but step past. -/
def Obligations.SystemResults : Prop :=
  ∀ (s : State) (t : TRef) (h l : Nat), Alone s t → Closes s t [] [] →
    let s1 := s.closeRegion t
    let x := s.th t
    exec (.trap h l) s = .next (s1.trap t causeTrap (BitVec.ofNat 64 (h * 128 + l))) ∧
    exec (.brk h l) s = .next (s1.trap t causeBrk (BitVec.ofNat 64 (h * 128 + l))) ∧
    (x.trapSave = none → exec .tret s = .next (s.trap t causeIllegal (BitVec.ofNat 64 s.group.word))) ∧
    (x.trapSave ≠ none → x.trapPc.toNat % 4 ≠ 0 → exec .tret s = .next (s.trap t causeAlignFetch x.trapPc)) ∧
    (x.trapSave ≠ none → x.trapPc.toNat % 4 = 0 → exec .tret s = .next (s1.modTh t fun y =>
      ({ y with stack := y.trapSave.getD [], trapSave := none, pc := y.trapPc, park := .running
                pending := y.pending.map fun p => { p with window := 0 } } : Thread).beginRegion)) ∧
    (∀ st, x.trapSave = some st → x.trapPc.toNat % 4 = 0 → x.stores = [] → ∃ s', exec .tret s = .next s' ∧
      (s'.th t).stack = st ∧ (s'.th t).trapSave = none ∧ (s'.th t).pc = x.trapPc ∧ (s'.th t).regionPc = x.trapPc) ∧
    (∀ s2 done, s1.releaseStep t 5 = (s2, done) →
      let vd := s2.vdOf t
      let ke := s2.keOf t
      let c := s2.ctl vd
      exec (.svc h l) s = .next (if done = false ∨
          (c.fqctl.getLsbD 0 ∧ 2 ^ (c.fqctl.toNat / 16 % 16) ≤ (c.fqtail - c.fqhead).toNat + c.fqWait.length)
        then ({ s2 with seq := s2.seq + 1 } : State).modTh t fun x => { x with park := .svc (h * 128 + l) s2.seq }
        else pastRegion (s2.post vd { kind := 10, aux := h * 128 + l + 2 ^ 32 * 2 ^ t.lane, queue := ke.q, pkt := ke.pkt
                                      block := (s2.bkOf t).n, thread := t.bun * 32 + t.lane }) t)) ∧
    (Readable s t [] [] → exec .nop s = .next (past s t))

/-! ## What instructions leave as it is -/

namespace Sys2Proof.Claims

/-- Constructors of three register fields whose forms name vd, va and vb as single registers. -/
noncomputable def threeReg : List (Nat → Nat → Nat → Instr) := alu.map (·.1)

end Sys2Proof.Claims

/-- R28, R37, R38, R78: at an ALU instruction of two sources, a group's thread with a register outside the window raises WINDOW with
the register's physical number, before any effect; an inactive thread only steps past. -/
def Obligations.EarlyChecks : Prop :=
  ∀ (s : State) (t : TRef) (d a b : Nat), Sole s t → ∀ i ∈ Claims.threeReg,
    (∀ p, windowTrap (s.buOf t) [(d, 1), (a, 1), (b, 1)] = some p →
      exec (i d a b) s = .next (s.trap t causeWindow (BitVec.ofNat 64 p))) ∧
    (windowTrap (s.buOf t) [(d, 1), (a, 1), (b, 1)] = none → (s.th t).active = false →
      exec (i d a b) s = .next (past s t)) ∧
    (∀ k < d + 1, d < (s.buOf t).alloc - (s.buOf t).base → windowTrap (s.buOf t) [(k, 1)] = none)

/-- R27, R28, R176: a register write changes vd of the thread and, with no sidecar attached, no other register of any thread, no
other field of the bundle but the word's poison, and nothing else of the machine; the ALU instructions change nothing beyond that
write and the thread's own step: no flag, no special register, no byte of memory. -/
def Sys2Proof.Claims.AloneFrame : Prop :=
  ∀ (s s' : State) (t : TRef) (d a b : Nat), Alone s t → Readable s t [(d, 1), (a, 1), (b, 1)] [(a, 1), (b, 1)] →
    attached (s.buOf t).viewCk (s.buOf t).viewAcc = false → (∃ z ∈ s.bundles, z.blk = t.blk ∧ z.idx = t.bun) →
    (s.buOf t).rf.length = 32 → t.lane < 32 → (∀ r ∈ (s.buOf t).rf, r.length = (s.buOf t).alloc) →
    ∀ p ∈ Claims.alu, exec (p.1 d a b) s = .next s' →
      s'.reg t d = p.2 (s.reg t a) (s.reg t b) ∧
      (∀ u n, (u.blk = t.blk ∧ u.bun = t.bun ∧ u.lane = t.lane → n ≠ d) → s'.reg u n = s.reg u n) ∧
      (∀ u, u ≠ t → s'.th u = s.th u) ∧ s'.th t = (s.th t).step ∧
      (∀ blk idx, s'.bu blk idx = if blk = t.blk ∧ idx = t.bun
        then { s.buOf t with rf := (s'.buOf t).rf, poison := (s'.buOf t).poison } else s.bu blk idx) ∧
      (∀ x, x ∈ (s'.buOf t).poison ↔ x ∈ (s.buOf t).poison ∧ x ≠ (t.lane, (s.buOf t).base + d)) ∧
      s' = { s with threads := s'.threads, bundles := s'.bundles }

/-- R36, R78, R112: in a group of several threads, each performs an ALU instruction on its own registers, no thread beside them changes,
and nothing of any bundle but register words and their poison. -/
def Sys2Proof.Claims.GroupFrame : Prop :=
  ∀ (s : State) (l : List TRef) (d a b : Nat), s.group.refs = l → l.Nodup → s.shadowed = false →
    (∀ t ∈ l, s.live t = true ∧ (s.th t).active = true ∧ Readable s t [(d, 1), (a, 1), (b, 1)] [(a, 1), (b, 1)] ∧
      attached (s.buOf t).viewCk (s.buOf t).viewAcc = false ∧ (∃ z ∈ s.bundles, z.blk = t.blk ∧ z.idx = t.bun) ∧
      (s.buOf t).rf.length = 32 ∧ t.lane < 32 ∧ ∀ r ∈ (s.buOf t).rf, r.length = (s.buOf t).alloc) →
    ∀ p ∈ Claims.alu, ∃ s', exec (p.1 d a b) s = .next s' ∧
      (∀ t ∈ l, s'.reg t d = p.2 (s.reg t a) (s.reg t b) ∧ (∀ n, n ≠ d → s'.reg t n = s.reg t n) ∧
        s'.th t = (s.th t).step) ∧
      (∀ u, u ∉ l → s'.th u = s.th u ∧ ∀ n, s'.reg u n = s.reg u n) ∧
      (∀ blk idx, s'.bu blk idx = { s.bu blk idx with rf := (s'.bu blk idx).rf, poison := (s'.bu blk idx).poison }) ∧
      s' = { s with threads := s'.threads, bundles := s'.bundles }

/-- R27, R28, R36, R78, R112, R176: what an ALU instruction changes, in a group of one thread and of several. -/
def Obligations.AluFrame : Prop := Claims.AloneFrame ∧ Claims.GroupFrame

/-- R222, R219: a .vol store to a scratchpad changes the bytes of its word there and no other byte of any memory; one to a device
line that no cache of its core or die holds changes the bytes stored at their home and no other byte. -/
def Obligations.StoreFrame : Prop :=
  ∀ (s s' : State) (t : TRef) (d a o : Nat), Alone s t → ∀ st ∈ Claims.stores,
    let n := st.2
    let s1 := s.closeRegion t
    let ea := Claims.addressOf s1 t a o n
    Closes s t [(d, Claims.regsOf n), (a, 2)] [(d, Claims.regsOf n), (a, 2)] →
    ∀ (s2 : State) (loc : Loc), s1.reach t ea n n .write = .at_ s2 loc → exec (st.1 d a o 3) s = .next s' →
      (∀ blk off r, loc = .scr blk off r → s2.scrPoisoned blk off n = false → Memory.wf (s2.bk blk).mem = true →
        s'.mem = s2.mem ∧ (∀ b, b ≠ blk → (s'.bk b).mem = (s2.bk b).mem) ∧
        (∀ x, x < off ∨ off + n ≤ x → cellGet (s'.bk blk).mem x = cellGet (s2.bk blk).mem x)) ∧
      (∀ vd gpa ma, loc = .dev vd gpa ma → s2.devPoisoned ma n = false → Memory.wf s2.mem = true →
        s2.l1Line (s2.coreOf t) vd (gpa / 128) = none → s2.farLine (dieOfCore (s2.coreOf t)) vd (gpa / 128) = none →
        (∀ b, (s'.bk b).mem = (s2.bk b).mem) ∧
        (∀ x, x < ma ∨ ma + n ≤ x → cellGet s'.mem x = cellGet s2.mem x))

/-! ## Statements of several parts -/

/-- R114 to R117: the pair, unary and immediate integer instructions. -/
def Obligations.PairAndImmediateResults : Prop := Claims.PairAndUnaryResults ∧ Claims.ImmediateResults

/-- R40, R125, R126, R406: writes to special registers, and the numbers and values that trap. -/
def Obligations.SpecialRegisterWrites : Prop := Claims.SpecialWrites ∧ Claims.SpecialTraps

/-- R55, R141 to R144: long-latency instructions, at issue and when their result is written. -/
def Obligations.LongLatencyResults : Prop := Claims.LongLatencyIssue ∧ Claims.LongLatencyWrite

/-- R127 to R130: the bundle-convergent operations across the lanes. -/
def Obligations.ConvergentResults : Prop := Claims.RoundResults ∧ Claims.Votes ∧ Claims.ConvergentParks

/-- R145 to R147: the modular instructions and their traps. -/
def Obligations.ModularArithmetic : Prop := Claims.ModularResults ∧ Claims.ModularTraps

/-- R238, R241, R242: FELDW, FELDC and FESTF, performed at once or pending. -/
def Obligations.FullEmptyResults : Prop := Claims.FullEmptyPerformed ∧ Claims.FullEmptyPends

/-- R195, R196, R207, R208, R229, R230: fences and what their steps leave. -/
def Obligations.Fences : Prop := Claims.FenceResults ∧ Claims.ScopeSteps

/-- R233, R234, R282, R283: the line monitor, YIELD and SLEEP. -/
def Obligations.Waiting : Prop := Claims.MonitorResults ∧ Claims.YieldAndSleep

/-- R59, R284 to R287: branches, calls, jumps and returns. -/
def Obligations.ControlFlow : Prop := Claims.BranchesAndCalls ∧ Claims.Returns

/-- R203, R205, R224, R225, R228: atomics at the instruction, at their memory, and on host memory. -/
def Obligations.Atomics : Prop := Claims.AtomicResults ∧ Claims.AtomicPerformed ∧ Claims.HostAtomics

/-- R6, R15, R190: what is written is what is read, in an L1 and in memory. -/
def Obligations.ReadsBack : Prop := Claims.CacheReadsBack ∧ Claims.MemoryReadsBack

/-! ## Engines -/

namespace Sys2Proof.Claims

/-- The ENG instructions whose operands are the quad at va: constructor, class, function and form. -/
noncomputable def engines : List ((Nat → Nat → Instr) × Nat × Nat × (Nat → EngForm)) := [
  (.mma, 1, 0, fun a => stepForm 0 a 0), (.mloop, 1, 1, fun a => stepForm 1 a 0), (.mmaq, 1, 3, fun a => stepForm 3 a 0),
  (.mloopq, 1, 4, fun a => stepForm 4 a 0), (.wbld, 1, 5, wbldForm), (.tld, 0, 7, tldForm), (.tst, 0, 8, tstForm),
  (.tsum, 3, 16, checkForm 16), (.tchk, 3, 17, checkForm 17), (.tfix, 3, 18, checkForm 18)]

/-- Those whose operand is a descriptor's address in the pair at va. -/
noncomputable def copies : List ((Nat → Nat → Instr) × Nat × Nat) := [
  (.copy, 0, 9), (.gather, 0, 10), (.scatter, 0, 11), (.put, 2, 12), (.get, 2, 13)]

/-- The completion barrier that vb names, vb = 0 for none: 16-byte aligned, in the block's own scratchpad (R163). -/
def Barrier (s : State) (t : TRef) (b : Nat) (bar : Option Nat) : Prop :=
  if b = 0 then bar = none
  else ∃ off, bar = some off ∧ (s.pair t b).toNat = 0xF000000000000 + off ∧ off % 16 = 0 ∧ off + 16 ≤ (s.bkOf t).sb

/-- What a command needs to be issued: its checks pass (R163, R256), fewer than 63 commands of its class are outstanding
(R42, R257), none in flight will write its rows (R162), its engine's queue has a slot and takes work of its VD (R151, R428), and no
element that it reads is poisoned (R32, R423). -/
structure Issuable (s : State) (t : TRef) (f : EngForm) (b : Nat) (bar : Option Nat) : Prop where
  checks : f.check s t (f.build s t) = none
  barrier : Barrier s t b bar
  addresses : f.addr s t (f.build s t) = .ok
  counter : s.counter (f.build s t).blk (f.build s t).bun (f.build s t).cls < 63
  rows : s.interlocked (f.build s t) = false
  slot : s.engFull (f.build s t).eng t = false
  sound : (s.buOf t).badFor (f.build s t) = false
  late : f.late s t (f.build s t) = none

/-- A command has joined its queue, behind those there were, with its captured operands; its thread steps on, and its region has
closed. -/
def Joined (s1 s' : State) (t : TRef) (cls fn : Nat) (w : List Word) (bar : Option Nat) : Prop :=
  (∃ c, s'.cmds = s1.cmds ++ [c] ∧ c.cls = cls ∧ c.fn = fn ∧ c.w = w ∧ c.bar = bar ∧ c.st = .queued ∧ c.done = 0 ∧
    c.blk = t.blk ∧ c.bun = t.bun ∧ c.vd = s1.vdOf t ∧ c.viewT0 = (s1.buOf t).viewT0 ∧ c.viewT1 = (s1.buOf t).viewT1 ∧
    c.viewAcc = (s1.buOf t).viewAcc ∧ c.viewCk = (s1.buOf t).viewCk ∧ c.modq = (s1.buOf t).modq) ∧
  (s'.th t).pc = (s1.th t).pc + 4 ∧ (s'.th t).regionPc = (s1.th t).pc + 4

/-- The quad at va. -/
def quadWords (s : State) (t : TRef) (a : Nat) : List Word := [s.reg t a, s.reg t (a + 1), s.reg t (a + 2), s.reg t (a + 3)]

/-- The operands of an ENG instruction with vb. -/
def engRegs (a n b : Nat) : List (Nat × Nat) := if b = 0 then [(a, n)] else [(a, n), (b, 2)]

end Sys2Proof.Claims

/-- R44, R150, R163: an ENG instruction whose checks pass closes the region and appends one command to its engine's queue, with
the operand words, the views and MODQ as they stand at issue; the thread does not wait for it. -/
def Obligations.EngineIssue : Prop :=
  ∀ (s : State) (t : TRef) (a b : Nat) (bar : Option Nat), Alone s t →
    let s1 := s.closeRegion t
    (Closes s t (Claims.engRegs a 4 b) (Claims.engRegs a 4 b) →
      (∀ e ∈ Claims.engines, Claims.Issuable s1 t (e.2.2.2 a) b bar →
        ∃ s', exec (e.1 a b) s = .next s' ∧ Claims.Joined s1 s' t e.2.1 e.2.2.1 (Claims.quadWords s1 t a) bar) ∧
      (∀ sel, Claims.Issuable s1 t (stepForm 2 a sel) b bar →
        ∃ s', exec (.mspa sel a b) s = .next s' ∧ Claims.Joined s1 s' t 1 2 (Claims.quadWords s1 t a) bar)) ∧
    (Closes s t (if b = 0 then [] else [(b, 2)]) (if b = 0 then [] else [(b, 2)]) →
      Claims.Issuable s1 t mzeroForm b bar → ∃ s', exec (.mzero b) s = .next s' ∧ Claims.Joined s1 s' t 1 6 [] bar) ∧
    (Closes s t (Claims.engRegs a 2 b) (Claims.engRegs a 2 b) →
      s1.scrPoisoned t.blk ((s1.pair t a).toNat - 0xF000000000000) 64 = false →
      ∀ e ∈ Claims.copies, Claims.Issuable s1 t (copyForm e.2.1 e.2.2 a) b bar →
        ∃ s', exec (e.1 a b) s = .next s' ∧ Claims.Joined s1 s' t e.2.1 e.2.2 [s1.reg t a, s1.reg t (a + 1)] bar ∧
          ∃ c ∈ s'.cmds, c.desc = readDesc (s1.scrRead t.blk ((s1.pair t a).toNat - 0xF000000000000) 64) ∧ c.st = .queued)

/-- R163, R256, R151: an ENG instruction whose check fails raises the trap of that check and issues nothing; one whose class has
63 commands outstanding stalls at the word, as does one whose engine's queue has no slot. -/
def Obligations.EngineChecks : Prop :=
  ∀ (s : State) (t : TRef) (a b : Nat), Alone s t → Closes s t (Claims.engRegs a 4 b) (Claims.engRegs a 4 b) →
    let s1 := s.closeRegion t
    ∀ e ∈ Claims.engines,
      let f := e.2.2.2 a
      let c := f.build s1 t
      (∀ cause v, f.check s1 t c = some (cause, v) → exec (e.1 a b) s = .next (s1.trap t cause v)) ∧
      (f.check s1 t c = none → b ≠ 0 → (s1.pair t b).toNat % 16 ≠ 0 →
        exec (e.1 a b) s = .next (s1.trap t causeAlignData (s1.pair t b))) ∧
      (∀ bar, f.check s1 t c = none → Claims.Barrier s1 t b bar → f.addr s1 t c = .ok →
        (63 ≤ s1.counter c.blk c.bun c.cls ∨ s1.interlocked c = true ∨ s1.engFull c.eng t = true) →
        ∃ s' n, exec (e.1 a b) s = .next s' ∧ s'.cmds = s1.cmds ∧ (s'.th t).park = .stall n ∧ (s'.th t).pc = (s1.th t).pc) ∧
      (e.2.1 = 1 → e.2.2.1 < 5 → (viewEn (s1.buOf t).viewAcc = false ∨ (s1.reg t (a + 1)).toNat / 2 ^ 29 ≠ 0) →
        exec (e.1 a b) s = .next (s1.trap t causeIllegal (BitVec.ofNat 64 s1.group.word)))

/-- R32, R161, R158: a tile written into a view of a bundle reads back, element by element. -/
def Obligations.TilesReadBack : Prop :=
  ∀ (b : Bundle) (v : Word) (els : List Nat), b.rf.length = 32 → (∀ r ∈ b.rf, r.length = b.alloc) →
    viewBad v = false → viewBase v + viewRegs false v ≤ b.alloc → els.length = viewRows v * viewCols v →
    (∀ x ∈ els, x < 2 ^ (4 * elemNibbles (viewFmt v))) → (b.writeTile v els).readTile v = els

namespace Sys2Proof.Claims

/-- A command of a block's bundle on a core's engine in RUN, alone in the list under its number, of a block that runs and a VD that is
not being reset. -/
structure Working (s : State) (c : Cmd) : Prop where
  known : s.cmds.find? (fun x => x.id == c.id) = some c
  runs : s.running c.blk = true
  core : ∀ die, c.eng ≠ .quay die
  going : (s.engCtl c.eng).state = 0
  calm : (s.vd c.vd).draining = false

end Sys2Proof.Claims

/-- R148, R164, R252: an engine in RUN starts the next command of its queue; a unit advances its tidemark by one, and the last
unit leaves it ready to complete; a unit that waits or meets a fault leaves the tidemark; nothing happens to a command of a
block that does not run. -/
def Sys2Proof.Claims.EngineUnits : Prop :=
  (∀ (s : State) (e : EngId) (c : Cmd), s.nextCmd e = some c → s.cmds.find? (fun x => x.id == c.id) = some c →
    ∃ s', exec (.engineCommandStart e) s = .next s' ∧ (s'.cmd c.id).st = .running ∧ (s'.cmd c.id).done = c.done ∧
      (c.cls ≠ 2 → (s'.cmd c.id).fault = c.fault)) ∧
  (∀ (s : State) (c : Cmd), Claims.Working s c → c.st = .running → c.fault = none → c.held = false →
    (∀ s' e, s.unitOf c = .ok s' e →
      exec (.engineUnitComplete c.id) s = .next (if (s'.engCtl c.eng).targets c || (s'.vd c.vd).draining then s'.discard c.id
        else s'.modCmd c.id fun _ => { e.cmd with held := e.last, left := none })) ∧
    (∀ s', s.unitOf c = .wait s' → exec (.engineUnitComplete c.id) s = .next s') ∧
    (∀ s' f, s.unitOf c = .stop s' f → (s'.engCtl c.eng).state = 0 → (s'.vd c.vd).draining = false →
      exec (.engineUnitComplete c.id) s = .next (s'.modCmd c.id fun x => { x with fault := some f }))) ∧
  (∀ (s : State) (c : Cmd) s' e, s.unitOf c = .ok s' e → e.cmd.done = c.done + 1 ∧ e.cmd.id = c.id) ∧
  (∀ (s : State) (c : Cmd), Claims.Working s c → c.st = .running → c.fault = none → c.held = false → c.cls = 1 → c.fn = 6 →
    exec (.engineUnitComplete c.id) s =
      .next (s.modCmd c.id fun _ => { c with done := c.done + 1, host := [], ncheck := 0, held := true, left := none })) ∧
  (∀ (s : State) (c : Cmd), s.running c.blk = false → (s.vd c.vd).draining = false → (∀ die, c.eng ≠ .quay die) →
    s.cmds.find? (fun x => x.id == c.id) = some c → exec (.engineUnitComplete c.id) s = .next s)

/-- R158, R160, R166, R167, R257: a command whose last unit is done completes and is reported in issue order; MZERO leaves its
view's tile zero. A fault of any other cause than PAGE and UE_CONSUMED takes the fault row: the command counts as completed in
error, and the later queued commands of its bundle on that engine are cancelled. Under device-managed paging a PAGE fault sets
the command aside until its page is there. -/
def Sys2Proof.Claims.EngineEnds : Prop :=
  (∀ (s : State) (c : Cmd), Claims.Working s c → c.st = .running → c.fault = none → c.held = true →
    (∀ s' n, s.completion c = .ok s' n → c.bar = none → s'.hasCmd c.id = true →
      exec (.engineCommandComplete c.id) s =
        .next ((s'.modCmd c.id fun x => { x with st := .done }).report c.blk c.bun c.cls)) ∧
    (∀ s' f, s.completion c = .stop s' f → (s'.engCtl c.eng).state = 0 → (s'.vd c.vd).draining = false →
      exec (.engineCommandComplete c.id) s = .next (s'.modCmd c.id fun x => { x with fault := some f }))) ∧
  (∀ (s : State) (c : Cmd), Claims.Working s c → c.st = .running → c.fault = none → c.held = true → c.cls = 1 → c.fn = 6 →
    c.bar = none → s.cmds = [c] → c.sidecar = false → (∃ b ∈ s.bundles, b.blk = c.blk ∧ b.idx = c.bun) →
    let b := s.bu c.blk c.bun
    b.ended = false → b.held = [] → b.rf.length = 32 → (∀ r ∈ b.rf, r.length = b.alloc) → viewBad c.viewAcc = false →
    viewBase c.viewAcc + viewRegs false c.viewAcc ≤ b.alloc →
    ∃ s', exec (.engineCommandComplete c.id) s = .next s' ∧ s'.cmds = [] ∧
      (s'.bu c.blk c.bun).readTile c.viewAcc = List.replicate (viewRows c.viewAcc * viewCols c.viewAcc) 0) ∧
  (∀ (s : State) (c : Cmd) (f : CmdFault), Claims.Working s c → c.st = .running → c.fault = some f → f.cause ≠ causePage →
    f.cause ≠ causeUe → exec (.engineFault c.id) s = .next (s.faultRow c f)) ∧
  (∀ (s : State) (c : Cmd) (f : CmdFault), Claims.Working s c → c.st = .running → c.fault = some f → f.cause = causePage →
    f.need ≠ 0 → (s.vd c.vd).dpage = true →
    ∃ s' fid, exec (.engineFault c.id) s = .next s' ∧ (s'.cmd c.id).st = .setAside fid ∧ (s'.cmd c.id).done = c.done) ∧
  (∀ (s : State) (c : Cmd) (fid : Nat), s.cmds.find? (fun x => x.id == c.id) = some c → c.st = .setAside fid →
    s.cmdListed c = false →
    exec (.engineCommandResume c.id) s = .next (s.modCmd c.id fun x => { x with st := .queued, fault := none })) ∧
  (∀ (s : State) (c x : Cmd), s.cmds = [c, x] → c.id ≠ x.id → x.eng = c.eng → x.blk = c.blk → x.bun = c.bun →
    x.st = .queued → x.bar = none → (s.cancelBehind c).cmds = [c, { x with st := .done }])

/-- R428, R429: a write of an engine's register sets ALL and VD in every state. With KILL in RUN it takes the engine to DRAINING for the
target written and discards at once the target's commands that are between two units; with none left the engine is in SLACK, and GO
returns it to RUN; elsewhere KILL and GO have no effect. A core's engine that has drained for 1,048,576 of its cycles is FENCED, with its
target's commands discarded. -/
def Sys2Proof.Claims.EngineDrain : Prop :=
  ∀ (s : State) (e : EngId),
    (∀ all vd, (s.engCtl e).state = 0 → ∃ s', exec (.engineKill e all vd) s = .next s' ∧ (s'.engCtl e).state = 1 ∧
      (s'.engCtl e).all = all ∧ (s'.engCtl e).vd = vd ∧ (s'.engCtl e).every = all ∧ (s'.engCtl e).target = vd ∧
      ∀ c ∈ s'.cmds, c.eng = e → (all = true ∨ c.vd = vd) → c.midUnit = true) ∧
    (∀ all vd, (s.engCtl e).state ≠ 0 → ∃ s', exec (.engineKill e all vd) s = .next s' ∧ s' = { s with engs := s'.engs } ∧
      s'.engCtl e = { s.engCtl e with all := all, vd := vd }) ∧
    ((s.engCtl e).state = 1 → (s.engCtl e).reset = false → (∀ c ∈ s.cmds, c.eng = e → (s.engCtl e).targets c = false) →
      ∃ s', exec (.engineSlack e) s = .next s' ∧ (s'.engCtl e).state = 2 ∧ s' = { s with engs := s'.engs }) ∧
    (∀ all vd, ∃ s', exec (.engineGo ⟨e, all, vd⟩) s = .next s' ∧ (s'.engCtl e).all = all ∧ (s'.engCtl e).vd = vd ∧
      (s'.engCtl e).state = (if (s.engCtl e).state = 2 then 0 else (s.engCtl e).state) ∧ s' = { s with engs := s'.engs }) ∧
    (∀ core, engCore e = some core → (s.engCtl e).state = 1 → (s.engCtl e).since + 1048576 ≤ s.engNow e →
      ∃ s', exec (.engineFenceTimeout e) s = .next s' ∧ (s'.engCtl e).state = 3 ∧
        ∀ c ∈ s.cmds, c.eng = e → (s.engCtl e).targets c = true → ∀ c' ∈ s'.cmds, c'.id ≠ c.id)

/-- R148 to R167, R252 to R257, R428, R429: the life of an engine command: start, units, completion, fault, resumption, and the
drain of an engine. -/
def Obligations.EngineEvents : Prop := Claims.EngineUnits ∧ Claims.EngineEnds ∧ Claims.EngineDrain

/-! ## The package's other steps: scheduling, caches, meters -/

namespace Sys2Proof.Claims

/-- R127: once every live thread of a bundle waits at a bundle-convergent instruction, a round begins: the threads' addresses in
strictly ascending order, each once, and the lanes that take part. Nothing else changes. -/
def Rounds : Prop :=
  ∀ (s : State) (blk bun : Nat), (∃ b ∈ s.bundles, b.blk = blk ∧ b.idx = bun) → s.running blk = true →
    (s.bu blk bun).round = [] → (s.bu blk bun).want = none → (s.bu blk bun).free = none → s.liveOf blk bun ≠ [] →
    (∀ x ∈ s.liveOf blk bun, x.park = .conv) →
    ∃ s', exec (.convergenceRound blk bun) s = .next s' ∧ s' = { s with bundles := s'.bundles } ∧
      ((s'.bu blk bun).round.map (·.toNat)).Pairwise (· < ·) ∧
      (∀ pc, pc ∈ (s'.bu blk bun).round ↔ ∃ x ∈ s.liveOf blk bun, x.pc = pc) ∧
      (s'.bu blk bun).roundMembers = (s.liveOf blk bun).map (·.ref.lane)

/-- R281: the pending bundle that has waited longest enters the active set: in a free place, in the place of a bundle whose
threads all wait, or, once it has waited 1,024 cycles, in the place of the bundle active longest. -/
def ActiveSet : Prop :=
  ∀ (s : State) (core sub : Nat) (b : Bundle), s.longestPending core sub = some b →
    let isActive (s' : State) (x : Bundle) : Bool := (s'.bu x.blk x.idx).active
    let other (x : Bundle) : Prop := (x.blk, x.idx) ≠ (b.blk, b.idx)
    ((s.activeOn core sub).length < 8 → ∃ s', exec (.activeSetExchange core sub) s = .next s' ∧ isActive s' b = true ∧
      ∀ x ∈ s.bundles, other x → s'.bu x.blk x.idx = s.bu x.blk x.idx) ∧
    (8 ≤ (s.activeOn core sub).length → ∀ old, (s.activeOn core sub).find? s.allWait = some old → other old →
      ∃ s', exec (.activeSetExchange core sub) s = .next s' ∧ isActive s' b = true ∧ isActive s' old = false) ∧
    (∀ n, b.readySince = some n → n + 1024 ≤ s.cycles (dieOfCore core) → s.activeOn core sub ≠ [] →
      ∃ s' old, exec (.pendingBundleTimeout core sub) s = .next s' ∧ old ∈ s.activeOn core sub ∧
        (∀ x ∈ s.activeOn core sub, old.activeSince ≤ x.activeSince) ∧ isActive s' b = true ∧
        (other old → isActive s' old = false))

/-- R426, R413: the oldest entry of a shadow queue is compared. A match lets a waiting group go on; a mismatch is counted in
ERRCNT6 and kills the block of the thread that met it, for which the model takes the group's first; whether the two computations
agree is the event's argument (log entry 16). The threads of other blocks present their instruction again. -/
def Comparisons : Prop :=
  ∀ (s : State) (core sub : Nat) (e : ShadowEntry), s.shadowHead core sub = some e →
    let s1 : State := { s with shadows := dropShadow core sub s.shadows }
    (e.pre = false → exec (.shadowIssue core sub false) s = .next s1) ∧
    (e.pre = true → ∃ s', exec (.shadowIssue core sub false) s = .next s' ∧ s'.shadows = s1.shadows ∧
      ∀ t ∈ e.refs, (s.th t).park = .shadow → (s'.th t).shadowOk = true ∧
        (s'.th t).park = if (s.buOf t).round.isEmpty then .running else .conv) ∧
    (∀ t r, e.refs = t :: r → ∃ s', exec (.shadowIssue core sub true) s = .next s' ∧
      s'.hasBk t.blk = false ∧ (∀ u ∈ e.refs, (s'.th u).park ≠ .shadow) ∧
      s' = (((s1.countError (s.vdOf t) 6).killBlock t.blk
        { kind := 2, cause := 0x14, pc := e.pc.toNat, thread := t.bun * 32 + t.lane }).shadowBack e))

/-- R189, R206: a line leaves a cache, and its dirty bytes have reached the memory that it stands for. -/
def Evictions : Prop :=
  (∀ (s : State) (core vd line : Nat), ∃ s', exec (.l1Eviction (.l1 core) vd line) s = .next s' ∧
    s'.l1Line core vd line = none ∧
    ∀ l ma, s.l1Line core vd line = some l → l.ma = some ma → ma % 128 = 0 → dieOfMa ma = dieOfCore core →
      Memory.wf s.mem = true → ∀ i < 128, l.dirty.getLsbD i = true →
        cellGet s'.mem (ma + i) = BitVec.ofNat 8 (l.data.toNat / 2 ^ (8 * i))) ∧
  (∀ (s : State) (die vd line : Nat), ∃ s', exec (.l1Eviction (.far die) vd line) s = .next s' ∧
    s'.farLine die vd line = none ∧
    ∀ l ma, s.farLine die vd line = some l → l.ma = some ma → Memory.wf s.mem = true →
      ∀ i < 128, l.dirty.getLsbD i = true → cellGet s'.mem (ma + i) = BitVec.ofNat 8 (l.data.toNat / 2 ^ (8 * i)))

/-- R334: a window's refill adds RATE to each VD's tokens, up to BURST. A slice serves a waiting VD that has a token or no meter,
or, when the port was idle and none has, a borrower above −BURST; a metered VD's tokens fall by one. -/
def Meters : Prop :=
  (∀ (s : State) (die : Nat), ∃ s', exec (.groyneWindowRefill die) s = .next s' ∧ s' = { s with slices := s'.slices } ∧
    ∀ (k : Nat) x, s.slices[k]? = some x → ∃ x', s'.slices[k]? = some x' ∧ (x.die ≠ die → x' = x) ∧
      (x.die = die → x'.waiting = x.waiting ∧ x'.last = x.last ∧ x'.served = false ∧ x'.idle = !x.served ∧
        ∀ v n, assocGet v x.tok = some n → assocGet v x'.tok = some (min (n + ((s.vd v).rate : Int)) ((s.vd v).burst : Int)))) ∧
  (∀ (s : State) (die sl k : Nat) x, s.slices[k]? = some x → x.die = die → x.slice = sl →
    ∃ s' x', exec (.groyneServe die sl) s = .next s' ∧ s'.slices[k]? = some x' ∧ (s.toServe x = none → x' = x) ∧
      ∀ v, s.toServe x = some v → x'.served = true ∧ x'.last = v ∧ x'.waiting = x.waiting.erase v ∧
        ((s.vd v).rate ≠ 0 → assocGet v x'.tok = some (x.tokens (s.vd v) - 1))) ∧
  (∀ (s : State) (x : Slice),
    let free (v : Nat) : Prop := (s.vd v).rate = 0 ∨ 1 ≤ x.tokens (s.vd v)
    (∀ v, s.toServe x = some v → v ∈ x.waiting ∧
      (free v ∨ (x.idle = true ∧ -((s.vd v).burst : Int) < x.tokens (s.vd v) ∧ ∀ u ∈ x.waiting, ¬ free u))) ∧
    ((∃ v ∈ x.waiting, free v) → s.toServe x ≠ none))

end Sys2Proof.Claims

/-! ## Queues, dispatch and turns -/

namespace Sys2Proof.Claims

/-- A host write reaches a register page of a VD (R323, R324, R377): its function is enabled and the T-bit rules admit it. -/
structure Reaches (s : State) (vd : Nat) (tbit : Bool) : Prop where
  there : s.hasVd vd = true
  enabled : s.enabled vd = true
  admits : (s.vd vd).admits true tbit = true

/-- A base and a size that a queue or ring may be enabled with. -/
abbrev ringFits (base : DWord) (w : Word) (lo hi : Nat) : Prop :=
  base.toNat % 64 = 0 ∧ lo ≤ bitsOf w.toNat 7 4 ∧ bitsOf w.toNat 7 4 ≤ hi

/-- R297, R298, R306: writes of the registers of a VD's queue, 0 to 63. The physical function has no queue, and no VD has a 64th: such
a write is dropped. A packet that is being accepted is finished, with its index of the old ring, when the queue is disabled and enabled
anew; a wait of an accepted packet's dependency goes on in the cycles of the new HOME (R4; log entry 25). -/
def QueueWrites : Prop :=
  (∀ (s : State) (vd q : Nat) (w : Word) (v : DWord) (tbit : Bool), 64 ≤ q ∨ vd = 0 →
    ∀ i ∈ [Instr.notify vd q w tbit, .queueEnable vd q w tbit, .queueDisable vd q w tbit, .qerrClear vd q w tbit,
      .registerWrite (.qbase vd q) v tbit, .registerWrite (.qctl vd q) v tbit], exec i s = .next s) ∧
  ∀ (s : State) (vd q : Nat) (w : Word) (v : DWord) (tbit : Bool), Reaches s vd tbit → q < 64 → vd ≠ 0 →
    let u := s.queue vd q
    let leaves (i : Instr) (u' : UQueue) : Prop := ∃ s', exec i s = .next s' ∧ s'.queue vd q = u'
    let ahead := (u.widx - u.rdidx).toNat < (w - u.rdidx).toNat ∧ (w - u.rdidx).toNat ≤ 2 ^ qSize u
    (s.takesNotify vd = true → qEn u = true → ahead →
      leaves (.notify vd q w tbit) { u with widx := w, pktPoll := {}, sigPoll := {} }) ∧
    (s.takesNotify vd = false ∨ qEn u = false ∨ ¬ ahead → exec (.notify vd q w tbit) s = .next s) ∧
    (qEn u = false → w.getLsbD 0 = true → ringFits u.qbase w 4 14 → leaves (.queueEnable vd q w tbit)
      { u with qctl := w &&& 0x9F1, rdidx := 0, widx := 0, taking := u.taking.map (fun t => { t with old := true })
               pktPoll := {}, sigPoll := {} }) ∧
    (qEn u = false → w.getLsbD 0 = true → ¬ ringFits u.qbase w 4 14 → leaves (.queueEnable vd q w tbit)
      { u with qctl := w &&& 0x9F0, err := true, code := 9, sigPoll := { u.sigPoll with
          limit := s.cycles (bitsOf w.toNat 8 8) + (u.sigPoll.limit - s.cycles (bitsOf u.qctl.toNat 8 8)) } }) ∧
    (qEn u = true → w.getLsbD 0 = false → leaves (.queueDisable vd q w tbit)
      { u with qctl := (u.qctl &&& 0xFFFFF7FE) ||| (w &&& 0x800) }) ∧
    (u.err = true → w.getLsbD 31 = true → leaves (.qerrClear vd q w tbit)
      { u with err := false, code := 0, pktPoll := {}, sigPoll := {}, rdidx := if u.code = 9 then u.rdidx else u.rdidx + 1 }) ∧
    (qEn u = false → leaves (.registerWrite (.qbase vd q) v tbit) { u with qbase := v }) ∧
    (qEn u = true → leaves (.registerWrite (.qbase vd q) v tbit) u)

/-- R326, R327, R416: writes of a control page. Setting EN zeroes the ring's indexes; a base or size out of range leaves EN at
0. -/
def ControlWrites : Prop :=
  ∀ (s : State) (ring : Nat) (w : Word) (v : DWord) (tbit : Bool), Reaches s ring tbit →
    let c := s.ctl ring
    let leaves (i : Instr) (c' : Control) : Prop := ∃ s', exec i s = .next s' ∧ s'.ctl ring = c'
    (s.takesNotify ring = true → ringEn c.crctl = true → (c.crwidx - c.crdone).toNat < (w - c.crdone).toNat →
      (w - c.crdone).toNat ≤ 2 ^ ringSize c.crctl →
      exec (.crnotify ring w tbit) s = .next (s.modCtl ring fun c => { c with crwidx := w })) ∧
    (ringEn c.crctl = false → w.getLsbD 0 = true →
      (ringFits c.crbase w 4 10 → leaves (.callRingEnable ring w tbit) { c with crctl := w &&& 0xF1, crwidx := 0, crdone := 0 }) ∧
      (¬ ringFits c.crbase w 4 10 → leaves (.callRingEnable ring w tbit) { c with crctl := w &&& 0xF0 })) ∧
    (ringEn c.crctl = true → w.getLsbD 0 = false →
      leaves (.callRingEnable ring w tbit) { c with crctl := c.crctl &&& 0xFFFFFFFE }) ∧
    (ringEn c.fqctl = false → w.getLsbD 0 = true →
      (ringFits c.fqbase w 4 14 →
        leaves (.faultQueueEnable ring w tbit) { c with fqctl := w &&& 0xF1, fqtail := 0, fqhead := 0, fqWait := [] }) ∧
      (¬ ringFits c.fqbase w 4 14 → leaves (.faultQueueEnable ring w tbit) { c with fqctl := w &&& 0xF0 })) ∧
    ((c.fqtail - w).toNat ≤ 2 ^ ringSize c.fqctl → leaves (.fqheadWrite ring w tbit) { c with fqhead := w }) ∧
    (2 ^ ringSize c.fqctl < (c.fqtail - w).toNat → leaves (.fqheadWrite ring w tbit) c) ∧
    (ringEn c.crctl = false → leaves (.registerWrite (.crbase ring) v tbit) { c with crbase := v }) ∧
    (∀ off, exec (.registerWrite (.readOnly ring off) v tbit) s = .next s)

/-- R323, R377: a write to a disabled function's page is dropped; one that the T-bit rules refuse is dropped and logged. -/
def RefusedWrites : Prop :=
  ∀ (s : State) (vd q : Nat) (w : Word) (tbit : Bool),
    (s.enabled vd = false → exec (.notify vd q w tbit) s = .next s ∧ exec (.queueEnable vd q w tbit) s = .next s ∧
      exec (.queueDisable vd q w tbit) s = .next s ∧ exec (.qerrClear vd q w tbit) s = .next s ∧
      exec (.crnotify vd w tbit) s = .next s ∧ exec (.callRingEnable vd w tbit) s = .next s ∧
      exec (.faultQueueEnable vd w tbit) s = .next s ∧ exec (.fqheadWrite vd w tbit) s = .next s) ∧
    (s.enabled vd = true → (s.vd vd).admits true tbit = false → q < 64 → vd ≠ 0 →
      exec (.notify vd q w tbit) s = .next (s.post vd
        { kind := 9, val := Config.barBase (s.vd vd).vfn 0 + 64 * q, aux := (if tbit then 1 else 0) + 2 }))

/-- R330: at a service period every ring's budget grows by its VD's share, SVCW × 4,096 cycles or 255 × 4,096 for VD 0, and is capped
at it; nothing else changes. A ring whose budget is used up is not visited. -/
def ServicePeriods : Prop :=
  ∀ s : State,
    let s1 : State := { s with vds := s.vds.map fun v => { v with bud := min (v.bud + v.budget) v.budget } }
    exec .servicePeriod s = .next s1 ∧
    (∀ ring, (s.vd ring).bud ≤ 0 → s.serveRing ring = s) ∧
    ∀ v : Vd, v.budget = if v.id = 0 then 255 * 4096 else (v.svcw : Int) * 4096

/-- R298, R299, R301, R305: Quay reads a header, and VALID brings the acceptance, which a disabling of the queue does not stop. An accepted
packet joins the queue's list, VALID is cleared and RDIDX advances, but for a packet of an old ring; the first check that fails stops the
queue with its code; a header that is no longer VALID is read again. -/
def Acceptance : Prop :=
  (∀ (s s1 : State) (vd q : Nat) (bs : List Byte), s.fetching vd q = true →
    let u := s.queue vd q
    let i := u.rdidx.toNat
    let die := qHome u
    (s.quayRead die vd q i (slotAddr u i) 4 = .ok s1 bs →
      (2 ^ 31 ≤ bytesNat bs → bytesNat bs < 2 ^ 32 → exec (.packetPoll vd q) s = .next ((s1.modQueue vd q fun x =>
        { x with taking := some { die := qHome x, slot := slotAddr x x.rdidx.toNat, idx := x.rdidx.toNat } }).push
          (.packetAccept vd q))) ∧
      (bytesNat bs < 2 ^ 31 → exec (.packetPoll vd q) s = .next ((s1.forgetGot vd q).modQueue vd q fun x =>
        { x with pktPoll := s1.pollMark vd q x.rdidx.toNat (slotAddr x x.rdidx.toNat) }))) ∧
    (s.quayRead die vd q i (slotAddr u i) 4 = .wait s1 → exec (.packetPoll vd q) s = .next s1) ∧
    (s.quayRead die vd q i (slotAddr u i) 4 = .xlate s1 → exec (.packetPoll vd q) s = .next (s1.queueError vd q 7)) ∧
    (s.quayRead die vd q i (slotAddr u i) 4 = .poison s1 → exec (.packetPoll vd q) s = .next (s1.queueError vd q 10))) ∧
  ∀ (s s1 : State) (vd q : Nat) (t : Taking) (bs : List Byte), s.accepting vd q = some t →
    (s.quayRead t.die vd q t.idx t.slot 64 = .wait s1 → exec (.packetAccept vd q) s = .next s1) ∧
    (s.quayRead t.die vd q t.idx t.slot 64 = .xlate s1 → exec (.packetAccept vd q) s = .next (s1.queueError vd q 7)) ∧
    (s.quayRead t.die vd q t.idx t.slot 64 = .poison s1 → exec (.packetAccept vd q) s = .next (s1.queueError vd q 10)) ∧
    (s.quayRead t.die vd q t.idx t.slot 64 = .ok s1 bs →
      let p := readPacket bs
      (p.valid = false → exec (.packetAccept vd q) s =
        .next ((s1.forgetGot vd q).modQueue vd q fun u => { u with taking := none })) ∧
      (p.valid = true → p.seq ≠ t.idx % 65536 → exec (.packetAccept vd q) s = .next (s1.queueError vd q 1)) ∧
      (p.valid = true → p.seq = t.idx % 65536 → p.typeBad = true → exec (.packetAccept vd q) s = .next (s1.queueError vd q 2)) ∧
      (p.valid = true → ∀ s2 code, s1.judgePacket t.die vd q t.idx p = .ok s2 (.bad code) →
        exec (.packetAccept vd q) s = .next (s2.queueError vd q code)) ∧
      (p.valid = true → ∀ s2 s3 s4 d l, s1.judgePacket t.die vd q t.idx p = .ok s2 (.good d) →
        s2.quayReach t.die vd q t.idx t.slot .write = .ok s3 l →
        s3.quayPut l t.slot 4 (bytesAt bs 0 4 % 2 ^ 31) q = (s4, true) →
        let s5 := s4.forgetGot vd q
        exec (.packetAccept vd q) s = .next (({ s5 with seq := s5.seq + 1 } : State).modQueue vd q fun u =>
          { u with rdidx := if t.old then u.rdidx else u.rdidx + 1, taking := none, pktPoll := {}, sigPoll := {}
                   accepted := u.accepted ++ [{ idx := t.idx, pkt := p, desc := d, met := p.dsig == 0, key := s5.seq }] })))

/-- R302: the next packet's dependency is met when the signed value at DSIG is at most DVAL; otherwise Quay looks again when the
signal's line is written, and within 1,024 cycles. -/
def Dependencies : Prop :=
  ∀ (s s1 : State) (vd q : Nat) (a : Accepted) (bs : List Byte), (s.queue vd q).nextStart = some a → a.met = false →
    s.vdActive vd = true → s.quayReadSig (qHome (s.queue vd q)) vd q a.idx a.pkt.dsig.toNat = .ok s1 bs →
    let s2 := s1.forgetGot vd (64 + q)
    ((dw (bytesNat bs)).toInt ≤ a.pkt.dval.toInt → exec (.dsigPoll vd q) s =
      .next ((s2.modAccepted vd q a.key fun x => { x with met := true, sigFailing := false }).modQueue vd q fun u =>
        { u with sigPoll := {} })) ∧
    (a.pkt.dval.toInt < (dw (bytesNat bs)).toInt → ∃ s', exec (.dsigPoll vd q) s = .next s' ∧
      (s1.hasVd vd = true → (s'.queue vd q).sigPoll = s2.pollMark vd q a.idx a.pkt.dsig.toNat ∧
        (s'.queue vd q).sigPoll.limit = s1.quayNow vd q + 1024))

/-- A packet of a type starts: its kernel record joins the list and its queue's entry names it. -/
def Starts (s s' : State) (vd q : Nat) (a : Accepted) (k : Kernel) : Prop :=
  s'.kernels = s.kernels ++ [k] ∧ k.vd = vd ∧ k.q = q ∧ k.pkt = a.idx ∧ k.prio = a.pkt.prio ∧ k.home = qHome (s.queue vd q) ∧
    k.desc = a.desc ∧ k.x = a.pkt.g0 ∧ k.y = a.pkt.g1 ∧ k.z = a.pkt.g2 ∧ k.karg = a.pkt.karg ∧ k.csig = a.pkt.csig ∧
    k.typ = a.pkt.typ ∧ k.next = 0 ∧ k.plans = [] ∧
    (∀ x ∈ (s'.queue vd q).accepted, x.key = a.key → x.started = true ∧ x.kernel = k.id)

/-- R303, R307, R309: the packet that may start does: a kernel's gangs wait for placement, a copy becomes one command of Quay, a
wait or set packet is complete at once. -/
def PacketStarts : Prop :=
  ∀ (s : State) (vd q : Nat) (a : Accepted),
    (s.toStart vd q 0 = some a → ∃ s' k, exec (.kernelPacket vd q) s = .next s' ∧ Starts s s' vd q a k ∧ s'.cmds = s.cmds) ∧
    (s.toStart vd q 1 = some a → ∃ s' k c, exec (.copyPacket vd q) s = .next s' ∧ Starts s s' vd q a k ∧
      s'.cmds = s.cmds ++ [c] ∧ c.eng = .quay (qHome (s.queue vd q)) ∧ c.st = .queued ∧ c.vd = vd ∧ c.done = 0 ∧
      c.desc.src = a.pkt.desc ∧ c.desc.dst = dw (a.pkt.g0 + 2 ^ 32 * a.pkt.g1) ∧ c.desc.rlen = a.pkt.g2 ∧ c.desc.nrow = 1) ∧
    (s.toStart vd q 2 = some a → ∃ s' k, exec (.waitPacket vd q) s = .next s' ∧ Starts s s' vd q a k ∧
      s'.agenda = s.agenda ++ [.kernelCompletion k.id]) ∧
    (s.toStart vd q 3 = some a → ∃ s' k, exec (.setPacket vd q) s = .next s' ∧ Starts s s' vd q a k ∧
      s'.agenda = s.agenda ++ [.kernelCompletion k.id])

/-- R270, R271, R307, R308, R428: by a Quay in RUN, a gang that is placed joins the list of gangs, started; its blocks stand, in order, on the cores of
one quad, never the core to avoid, each with its bundles of 32 threads. -/
def Placement : Prop :=
  (∀ (s s1 : State) (die vd id : Nat), s.vdActive vd = true → s.quayRuns die = true → s.rehomeOne die vd = none → s.resumeCoop die vd = none →
    s.firstGang die vd = some (id, none) → (s.ke id).desc.cooperative = false →
    (s.placeLowest (s.ke id) ((s.ke id).planOf (s.ke id).next) = some s1 →
      ∃ cores, exec (.gangPlacement die vd) s =
        .next ((s1.modKe id fun k => { k with next := k.next + 1 }).freshenCores vd cores)) ∧
    (s.placeLowest (s.ke id) ((s.ke id).planOf (s.ke id).next) = none → exec (.gangPlacement die vd) s = .next s)) ∧
  (∀ (s s1 : State) (k : Kernel) (p : GangPlan) (quad phys : Nat), s.placeGang k p quad phys = some s1 →
    (∃ g, s1.gangs = s.gangs ++ [g] ∧ g.kernel = k.id ∧ g.quad = quad ∧ g.started = true ∧ g.size = Nat.max 1 k.desc.gangSz ∧
      ∀ b ∈ s1.blocks.drop s.blocks.length, b.gang = g.id) ∧
    (s1.blocks.drop s.blocks.length).map (·.n) = p.blocks ∧
    (∀ b ∈ s1.blocks.drop s.blocks.length, b.kernel = k.id ∧ b.vd = k.vd ∧ b.core / 4 = phys ∧ p.avoid ≠ some b.core ∧
      b.halted = false ∧ b.sb = k.desc.sb ∧ b.relaunches = p.relaunches) ∧
    s1.threads.length = s.threads.length + 32 * k.desc.bundles * p.blocks.length)

/-- R309, R298: when a packet's work is over, its completion signal falls by one, or takes a set packet's value, and the packet
leaves its queue; one without a signal only leaves. -/
def PacketEnds : Prop :=
  ∀ (s : State) (id : Nat), s.hasKe id = true → s.workOver (s.ke id) = true → s.signalling id = false →
    let k := s.ke id
    let s0 := s.modKe id fun x => { x with ended := true }
    (k.csig = 0 → ∃ s', exec (.kernelCompletion id) s = .next s' ∧ s'.hasKe id = false ∧
      ∀ x ∈ (s'.queue k.vd k.q).accepted, x.started = true → x.kernel ≠ id) ∧
    (∀ s1 vd gpa ma, k.csig ≠ 0 → s0.quayReach k.home k.vd (192 + k.q) k.pkt k.csig.toNat .write = .ok s1 (.dev vd gpa ma) →
      s1.devPoisoned ma 8 = false →
      exec (.kernelCompletion id) s = .next (((s1.charge vd ma).homeWrite vd gpa ma 8
        (if k.typ = 3 then k.karg.toNat else (s1.homeRead ma 8 + (2 ^ 64 - 1)) % 2 ^ 64)).signalDone k)) ∧
    (∀ s1, k.csig ≠ 0 → s0.quayReach k.home k.vd (192 + k.q) k.pkt k.csig.toNat .write = .xlate s1 →
      exec (.kernelCompletion id) s = .next ((s1.forgetGot k.vd (192 + k.q)).signalLost k 8)) ∧
    ∀ s1 : State, (s1.signalLost k 8).hasKe k.id = false ∧ (s1.signalDone k).hasKe k.id = false

/-- R310, R311: a turn that is over, its deficit used up or 4,096 cycles without an issue, ends with the VD's blocks on the quad
halted, or waits for what delays the halt. An idle turn drops its deficit. A VD that is alone keeps running: its next turn adds to its
deficit, and no block is halted; that such a turn renews with its weight times the quantum is the model's reading (log entry 15). -/
def TurnEnds : Prop :=
  (∀ (s : State) (quad v : Nat), (s.quad quad).vd = some v → (s.quad quad).contested = true →
    let ended (s' : State) : Prop := (s'.quad quad).vd = none ∧ ((s.quad quad).ring.contains v = true → (s'.quad quad).last = v) ∧
      ∀ b ∈ s'.blocks, b.core / 4 = quad → b.vd = v → b.halted = true
    ((s.quad quad).credit v ≤ 0 →
      (s.drained quad = true → ∃ s', exec (.turnEnd quad) s = .next s' ∧ ended s') ∧
      (s.drained quad = false → exec (.turnEnd quad) s = .next (s.modQuad quad fun x => { x with ending := true }))) ∧
    (4096 < (s.quad quad).idle →
      (s.drained quad = true → ∃ s', exec (.idleTurnEnd quad) s = .next s' ∧ ended s' ∧ (s'.quad quad).credit v = 0) ∧
      (s.drained quad = false → ∃ s', exec (.idleTurnEnd quad) s = .next s' ∧ (s'.quad quad).ending = true ∧
        (s'.quad quad).credit v = 0))) ∧
  ∀ (s : State) (quad v : Nat), (s.quad quad).vd = some v → (s.quad quad).ring = [v] → (s.quad quad).ending = false →
    (s.quad quad).credit v ≤ 0 → quad < s.quads.length →
    ∃ s', exec (.turnEnd quad) s = .next s' ∧ (s'.quad quad).vd = some v ∧ s'.blocks = s.blocks ∧
      (s'.quad quad).credit v = (s.quad quad).credit v + 8192 * ((s.vd v).wm1 + 1)

/-- R310, R313, R318: on a quad that does not stand still for its departure, a turn starts with the next VD of the ring, whose deficit
grows by its weight times the quantum; its halted blocks resume, each when it fits. -/
def TurnStarts : Prop :=
  (∀ (s : State) (quad v : Nat), ((s.updateRing quad).quad quad).vd = none →
    ringNext ((s.updateRing quad).quad quad).ring ((s.updateRing quad).quad quad).last = some v → quad < s.quads.length →
    (s.quad quad).hold = false →
    ∃ s', exec (.turnStart quad) s = .next s' ∧ (s'.quad quad).vd = some v ∧ (s'.quad quad).ending = false ∧
      (s'.quad quad).credit v = ((s.updateRing quad).quad quad).credit v + 8192 * ((s.vd v).wm1 + 1) ∧
      s'.agenda = s.agenda ++ (s.toResume quad v).map .blockResume) ∧
  (∀ (s : State) (blk : Nat), s.hasBk blk = true → (s.bk blk).halted = true →
    s.quadVd ((s.bk blk).core / 4) = some (s.bk blk).vd → (s.quad ((s.bk blk).core / 4)).ending = false →
    (s.ke (s.bk blk).kernel).suspended = false →
    (∀ s1, s.restore blk = some s1 → exec (.blockResume blk) s = .next (s1.restart blk)) ∧
    (s.restore blk = none → exec (.blockResume blk) s = .next s))

end Sys2Proof.Claims

/-- R297 to R309, R326, R327, R330, R377, R416: registers, packets, starts, placement and completion. QERR's code is 0 once ERR is
cleared, a header or a signal is read again when its line changes, and a packet in acceptance finishes on its old ring: the model's
readings (log entry 25), as is the copy packet of no bytes (TYPE). A gang goes to the lowest quad that fits, in the order of the model's
log entry 15. -/
def Obligations.DispatchEvents : Prop :=
  Claims.QueueWrites ∧ Claims.ControlWrites ∧ Claims.RefusedWrites ∧ Claims.ServicePeriods ∧ Claims.Acceptance ∧
    Claims.Dependencies ∧ Claims.PacketStarts ∧ Claims.Placement ∧ Claims.PacketEnds

/-- R127, R189, R206, R281, R310, R311, R313, R334, R426, R427: the steps that the sub-cores, the caches, the home slices and the
quads' turns take by themselves. Log entries 15 (the renewed turn of a VD that is alone) and 16 (a mismatch and its block) are the
model's. -/
def Obligations.SchedulingEvents : Prop :=
  Claims.Rounds ∧ Claims.ActiveSet ∧ Claims.Comparisons ∧ Claims.Evictions ∧ Claims.Meters ∧ Claims.TurnEnds ∧ Claims.TurnStarts

/-! ## Harbour -/

namespace Sys2Proof.Claims

/-- Every call. -/
noncomputable def calls : List (Sys2Proof.CallSlot → Instr) := [
  .createVd, .destroyVd, .resetVd, .setWeight, .setMeter, .setIrq, .setPart, .moveBlock, .blockAck, .query, .setRank, .setRoot,
  .tlbInval, .pfResolve, .poolAdd, .setBacking, .setAperture, .setShared, .queryScrub]

/-- The calls of the operator's ring alone, and those of a tenant's own ring alone (R328, R368, R388, R397). -/
noncomputable def operatorCalls : List (Sys2Proof.CallSlot → Instr) := [
  .createVd, .destroyVd, .setWeight, .setMeter, .setPart, .moveBlock, .query, .setRank, .setAperture, .queryScrub]

noncomputable def tenantCalls : List (Sys2Proof.CallSlot → Instr) := [
  .blockAck, .setRoot, .tlbInval, .pfResolve, .poolAdd, .setBacking, .setShared]

/-- R327, R329, R435: what every call has in common. After a boot that failed early it ends with BADSTATE; a reserved argument
ends it with UNKNOWN, the wrong ring with DENIED. An answer writes RESULT and STATUS; then CRDONE advances, at once for a slot in
device memory, and for one in host memory once the zero-length read behind the writes is answered. -/
def CallRules : Prop :=
  (∀ (s : State) (c : Sys2Proof.CallSlot), s.callsDead = true → ∀ f ∈ calls, exec (f c) s = .next (s.endCall c 4 0)) ∧
  (∀ (s : State) (c : Sys2Proof.CallSlot), s.callsDead = false → c.a4 ≠ 0 → ∀ f ∈ calls, f c ≠ .moveBlock c →
    exec (f c) s = .next (s.endCall c 1 0)) ∧
  (∀ (s : State) (c : Sys2Proof.CallSlot), s.callsDead = false → c.a0 = 0 → c.a1 = 0 → c.a2 = 0 → c.a3 = 0 → c.a4 = 0 →
    (c.ring ≠ 0 → ∀ f ∈ operatorCalls, exec (f c) s = .next (s.endCall c 2 0)) ∧
    (c.ring = 0 → ∀ f ∈ tenantCalls, exec (f c) s = .next (s.endCall c 2 0))) ∧
  (∀ (s : State) (c : Sys2Proof.CallSlot) (status result : Nat), s.hasVd c.ring = true →
    let s' := s.endCall c status result
    (c.gpa < 2 ^ 47 → (s'.ctl c.ring).crdone = (s.ctl c.ring).crdone + 1 ∧ (s'.ctl c.ring).busy = false ∧
      ∀ ma, c.gpa + 64 ≤ 2 ^ 47 → s.stage2 c.ring (c.gpa + 48) = some ma → s.stage2 c.ring (c.gpa + 56) = some (ma + 8) →
        s.devPoisoned ma 16 = false → s'.mem = writeCells (writeCells s.mem ma 8 result) (ma + 8) 4 status) ∧
    (∀ vd ap g, s.place c.ring c.gpa .write = some (.host vd ap g) →
      (s'.ctl c.ring).crdone = (s.ctl c.ring).crdone ∧ (s'.ctl c.ring).ending = some ((s.busAddr c.ring ap g).1, none))) ∧
  (∀ (s : State) (ring port tag : Nat), s.hasVd ring = true → (s.ctl ring).ending = some (port, some tag) →
    ((∃ r ∈ s.reqs, r.tag = tag) → s.finishCall ring = s) ∧
    ((∀ r ∈ s.reqs, r.tag ≠ tag) → ((s.finishCall ring).ctl ring).crdone = (s.ctl ring).crdone + 1 ∧
      ((s.finishCall ring).ctl ring).busy = false ∧ ((s.finishCall ring).ctl ring).ending = none))

/-- R310, R322, R328, R330, R332, R333, R334, R388, R397, R437: the calls that set one entry of a table, or read one. A part without
Longshore answers SET_RANK with DENIED; the partition of a SET_RANK is active, PSTATE 1 (R320; log entry 56). -/
def TableCalls : Prop :=
  ∀ (s : State) (c : Sys2Proof.CallSlot), s.callsDead = false → c.a3 = 0 → c.a4 = 0 →
    let x0 := c.a0.toNat
    let x1 := c.a1.toNat
    let x2 := c.a2.toNat
    let ok (i : Instr) (s1 : State) (r : Nat) : Prop := exec i s = .next (s1.endCall c 0 r)
    (c.ring = 0 → s.namesVd x0 = true → 1 ≤ x1 → x1 ≤ 64 → 1 ≤ x2 → x2 ≤ 255 →
      ok (.setWeight c) (s.modVd x0 fun v => { v with wm1 := x1 - 1, svcw := x2 }) 0) ∧
    (c.ring = 0 → s.namesVd x0 = true → x1 ≤ 1024 → 1 ≤ x2 → x1 ≤ x2 → x2 ≤ 65535 →
      (s.vds.map fun v => if v.id = x0 then x1 else v.rate).sum ≤ 1024 → ∃ s1, ok (.setMeter c) s1 0 ∧
        (s1.vd x0).rate = x1 ∧ (s1.vd x0).burst = x2 ∧ ∀ x ∈ s1.slices, x.tokens (s1.vd x0) = x2) ∧
    (∀ id, (c.ring = 0 ∧ id = x1 ∨ c.ring ≠ 0 ∧ id = c.ring ∧ x1 = 0) → s.namesVd id = true ∨ id = 0 → x2 < 2 ^ 32 → x0 < 12 →
      bitsOf x2 31 30 ≠ 3 → bitsOf x2 29 17 = 0 → bitsOf x2 14 11 = 0 →
      let old := (s.vd id).irqs.getD x0 {}
      ((s.vd id).conf = true → c.ring = 0 → bitsOf x2 31 30 = old.owner) →
      ok (.setIrq c) (s.setIrqEntry id x0
        { owner := bitsOf x2 31 30, pend := old.pend, mask := x2.testBit 15, vec := bitsOf x2 10 0 }) old.toNat) ∧
    (c.a2 = 0 → c.ring = 0 ∨ (x0 = 0 ∧ x1 = c.ring) →
      (∀ e, s.tableEntry x0 x1 = some e → ok (.query c) s e) ∧
      (s.tableEntry x0 x1 = none → exec (.query c) s = .next (s.endCall c 3 0))) ∧
    (c.ring = 0 → x2 < 2 ^ 32 → s.feature 6 = false → exec (.setRank c) s = .next (s.endCall c 2 0)) ∧
    (c.ring = 0 → s.feature 6 = true → x0 ≤ 15 → (s.parts.getD x0 {}).pstate = 1 → x1 ≤ 1023 → x2 < 2 ^ 32 → bitsOf x2 29 19 = 0 →
      let ranks := (s.parts.getD x0 {}).ranks
      let old := (ranks.find? fun r => r.rank == x1).getD (rankOf x1 0)
      s.namesLocked old = false → s.namesLocked (rankOf x1 x2) = false →
      ok (.setRank c) (s.modPart x0 fun p =>
        { p with ranks := p.ranks.filter (fun r => r.rank != x1) ++ if x2 = 0 then [] else [rankOf x1 x2] }).checkBars old.entry) ∧
    (c.ring ≠ 0 → c.a2 = 0 → x1 ≤ 1 → x0 ≤ 255 → (s.vd c.ring).conf = true → (assocGet x0 (s.vd c.ring).s2).isSome = true →
      (s.vd c.ring).tdisp.state = 0 →
      ok (.setShared c) (s.modVd c.ring fun v =>
        { v with sharedBlocks := if x1 = 1 then setIns x0 v.sharedBlocks else setDel x0 v.sharedBlocks }) 0) ∧
    (c.ring = 0 → c.a1 = 0 → c.a2 = 0 → x0 ≤ 3 → ok (.queryScrub c) s (s.job x0).toNat)

/-- R340, R351, R352, R355, R358, R362, R364, R368: the calls that change a VD's translation. One that shoots the VD down ends at once, or
once every posted host write made under the old translation has left its port. -/
def TranslationCalls : Prop :=
  (∀ (s : State) (c : Sys2Proof.CallSlot),
    ((∀ x ∈ s.posts, x.vd = c.ring → x.old = false) → s.endShot c = s.endCall c 0 0) ∧
    ((∃ x ∈ s.posts, x.vd = c.ring ∧ x.old = true) →
      s.endShot c = s.modVd c.ring fun v => { v with shot := some c }) ∧
    ∀ vd, (s.vd vd).shot = some c →
      ((∃ x ∈ s.posts, x.vd = vd ∧ x.old = true) → s.shotDone vd = s) ∧
      ((∀ x ∈ s.posts, x.vd = vd → x.old = false) →
        s.shotDone vd = (s.modVd vd fun v => { v with shot := none }).endCall c 0 0)) ∧
  ∀ (s : State) (c : Sys2Proof.CallSlot), s.callsDead = false → c.a4 = 0 →
    let x0 := c.a0.toNat
    let x1 := c.a1.toNat
    let x2 := c.a2.toNat
    let v := s.vd c.ring
    let ok (i : Instr) (s1 : State) (r : Nat) : Prop := exec i s = .next (s1.endCall c 0 r)
    (c.ring ≠ 0 → c.a3 = 0 →
      (c.a1 = 0 → c.a2 = 0 → x0 = 0 ∨ (x0 % 256 = 0 ∧ (s.stage2 c.ring x0).isSome = true) →
        exec (.setRoot c) s = .next (((s.modVd c.ring fun v => { v with root := x0 }).shootVd c.ring).endShot c)) ∧
      (x0 = 1 → exec (.tlbInval c) s = .next ((s.shootVd c.ring).endShot c)) ∧
      (x0 = 0 → x1 % 65536 = 0 → 1 ≤ x2 → x2 ≤ 2 ^ 20 → x1 < scratchBase → x1 + 65536 * x2 ≤ scratchBase →
        exec (.tlbInval c) s = .next ((s.shootDown c.ring x1 (x1 + 65536 * x2)).endShot c)) ∧
      (c.a2 = 0 → ∀ f, (v.faults.find? fun f => f.fid == x0) = some f → x1 ≤ 1 →
        ok (.pfResolve c) (s.resolve c.ring f (x1 == 1)) 0) ∧
      (c.a2 = 0 → v.dpage = true → x0 % 65536 = 0 → 1 ≤ x1 → x1 ≤ 32768 →
        (∀ k < x1, s.frameOk c.ring (x0 + 65536 * k) = true) →
        ok (.poolAdd c) (s.modVd c.ring fun v => { v with pool := v.pool ++ (List.range x1).map fun k => x0 + 65536 * k }) 0) ∧
      (c.a2 = 0 → v.dpage = true → x0 % 131072 = 0 → 1 ≤ x1 → x1 ≤ 2 ^ 20 → s.inAperture c.ring x0 (131072 * x1) = true →
        (∀ x ∈ v.versions, x.state ≠ 1) → ∃ s1, ok (.setBacking c) s1 0 ∧
          (s.hasVd c.ring = true → (s1.vd c.ring).backing = some (x0, x1) ∧ (s1.vd c.ring).versions = []))) ∧
    (c.ring = 0 → ∀ a old, a = apertureOf (x2 + 2 ^ 64 * c.a3.toNat) → old = (assocGet x1 (s.vd x0).aps).getD {} →
      x0 ≠ 0 → s.hasVd x0 = true → x1 ≤ 15 → x2 % 65536 = 0 → s.badAperture (s.vd x0) x1 a = false →
      (s.vd x0).locked = false → old.v = false →
      ok (.setAperture c) (((s.shootVd x0).modVd x0 fun v => { v with aps := assocSet x1 a v.aps }).bindStream x0 a)
        (old.toNat % 2 ^ 64))

/-- R223, R347, R348, R364: an invalidation at a core drops the range's translations, the VD's walk-cache entries and the VD's L1
lines; at Quay it drops the range's translations. -/
def Invalidations : Prop :=
  ∀ (s : State) (vd lo hi : Nat),
    (∀ core, ∃ s', exec (.invalidation (.core core) vd lo hi) s = .next s' ∧
      (∀ e ∈ (s'.co core).tlb, e.hits vd lo hi = false) ∧ (∀ e ∈ (s'.co core).lanes, e.2.2.hits vd lo hi = false) ∧
      (∀ e ∈ (s'.co core).walks, e.vd ≠ vd) ∧ (∀ l ∈ (s'.co core).l1, l.vd ≠ vd)) ∧
    (∀ die, ∃ s', exec (.invalidation (.quay die) vd lo hi) s = .next s' ∧ s' = { s with quayTlb := s'.quayTlb } ∧
      ∀ x ∈ s.quayTlb, x ∈ s'.quayTlb ↔ ¬ (x.1 = die ∧ x.2.hits vd lo hi = true))

/-- R330, R358 to R363: a page-in waits while its ring's budget is used up, and for its slot's bytes; it takes a frame of the pool, fills it and maps it, a zero-filled page without the
backing store; the work is charged to the VD's ring. Without a frame, or with a slot that cannot be read, a REASON 1 notice is
written; a page that does not open is DENIED with REASON 2, its slot poisoned. A filled frame reads as its page. -/
def PageIns : Prop :=
  (∀ (s : State) (vd fid : Nat) (f : FaultRec) (egpa e : Nat), ((s.vd vd).faults.find? fun f => f.fid == fid) = some f →
    f.entry = some (egpa, e) → ((s.vd vd).bud ≤ 0 → exec (.pageIn vd fid) s = .next s) ∧ (0 < (s.vd vd).bud → (s.vd vd).dpage = true → pteBacked e = true ∨ pteZf e = true →
    let slot := bitsOf e 47 16
    (∀ s0, pteZf e = false → s.readSlotPage vd fid slot = .wait s0 → exec (.pageIn vd fid) s = .next s0) ∧
    (∀ s0 x, (if pteZf e then s0 = s ∧ x = .page (List.replicate 65536 0) (List.replicate 1024 0xFF)
        else s.readSlotPage vd fid slot = .ok s0 x) →
      let s1 := s0.modVd vd fun v => { v with bud := v.bud - 1 }
      (s1.takeFrame vd = none → exec (.pageIn vd fid) s = .next (s1.pageNoticeOf vd f 1)) ∧
      (∀ g s2 ma, s1.takeFrame vd = some (g, s2) → s2.stage2 vd g = some ma →
        let back (s : State) : State := s.modVd vd fun v => { v with pool := v.pool ++ [g] }
        exec (.pageIn vd fid) s = .next (match x with
          | .page data bits => s2.mapPage vd f egpa e g ma (if pteZf e then none else some slot) data bits
          | .refused => (back s2).pageNoticeOf vd f 1
          | .sealBad =>
            let s3 := s2.modVd vd fun v => v.setVersion { v.version slot with state := 2 }
            ((back (s3.fillFrame vd g ma (List.replicate 65536 0) (List.replicate 1024 0xFF))).resolve vd f true).pageNoticeOf
              vd f 2))))) ∧
  (∀ (s : State) (vd gpa ma : Nat) (data bits : List Byte), data.length = 65536 → Memory.wf s.mem = true →
    ∀ i < 65536, cellGet (s.fillFrame vd gpa ma data bits).mem (ma + i) = data.getD i 0)

/-- R311, R317, R318, R320, R324, R374: SET_PART gives a partition its quads, once every VD on the quads that leave is halted, for which
it waits with PSTATE 2; CREATE_VD takes the lowest free id and the partition's lowest
pooled blocks, and is DENIED where that id's seal slot is unusable. -/
def CreationCalls : Prop :=
  ∀ (s : State) (c : Sys2Proof.CallSlot), s.callsDead = false → c.ring = 0 → c.a4 = 0 →
    let x0 := c.a0.toNat
    let x1 := c.a1.toNat
    let x2 := c.a2.toNat
    let x3 := c.a3.toNat
    let p := s.parts.getD x0 {}
    let s0 : State := { s with parting := s.parting.filter (· != c) }
    let qs := (List.range 32).filter fun q => (s.rmap q).assigned && (s.rmap q).part == x0 && x1 ≤ (s.rmap q).lquad
    (c.a3 = 0 → s.partFault x0 x1 x2 = none → s0.standing qs = true →
      let s1 := if p.pstate = 0 ∧ x1 ≠ 0 then s0.openPart x0 x2 else s0
      exec (.setPart c) s = .next ((((((s1.joinQuads x0 (x1 - p.nquad)).leaveQuads x0 (p.nquad - x1)).settlePart x0).closePart
        x0).endCall c 0 x1).freeQuadsOf (s0.mustStand qs))) ∧
    (c.a3 = 0 → s.partFault x0 x1 x2 = none → s0.standing qs = false → exec (.setPart c) s =
      .next ((({ s0 with parting := s0.parting ++ [c] } : State).holdQuads qs).settlePart x0)) ∧
    (∀ st, c.a3 = 0 → s.partFault x0 x1 x2 = some st → exec (.setPart c) s = .next (s0.endCall c st 0)) ∧
    (x0 ≤ 15 → 1 ≤ x1 → x1 ≤ 64 → x2 < 2 ^ 11 → x2 % 256 ≠ 0 → 1 ≤ x3 → x3 ≤ 256 → p.pstate ≠ 0 → p.nquad ≠ 0 →
      (x2.testBit 8 = true → s.feature 5 = true) → (x2.testBit 9 = true → s.feature 4 = true) →
      (x2.testBit 10 = true → s.feature 7 = true) → x3 ≤ (s.poolBlocks x0).length →
      ∀ id, s.freeVd = some id →
        (s.deadSeals.contains id = true → exec (.createVd c) s = .next (s.endCall c 2 0)) ∧
        (s.deadSeals.contains id = false → ∃ (s1 : State) (v : Vd), exec (.createVd c) s = .next (s1.endCall c 0 id) ∧
          s1.vds = s.vds ++ [v] ∧ v.id = id ∧ v.vstate = 2 ∧ v.part = x0 ∧ v.wm1 = x1 - 1 ∧ v.svcw = x2 % 256 ∧ v.conf = x2.testBit 8 ∧ v.shadow = x2.testBit 9 ∧
          v.dpage = x2.testBit 10 ∧ v.root = 0 ∧ v.s2 = (List.range x3).zip ((s.poolBlocks x0).take x3) ∧
          (∀ b ∈ (s.poolBlocks x0).take x3, s1.owner.getD b {} = { kind := 3, part := x0, vd := id }) ∧
          s.hasVd id = false ∧ 1 ≤ id ∧ id ≤ 511 ∧ ∀ j, 1 ≤ j → j < id → s.hasVd j = true))

/-- R325, R430: DESTROY_VD and RESET_VD. Either leaves nothing of the VD resident or in flight; a reset disables its queues. -/
def EndCalls : Prop :=
  (∀ (s : State) (c : Sys2Proof.CallSlot), s.callsDead = false → c.a1 = 0 → c.a2 = 0 → c.a3 = 0 → c.a4 = 0 →
    let x0 := c.a0.toNat
    (c.ring = 0 → s.namesVd x0 = true → (s.vd x0).vstate = 2 ∨ (s.vd x0).vstate = 3 →
      exec (.destroyVd c) s = .next (s.destroy x0 c)) ∧
    (∀ vd, vd = (if c.ring = 0 then x0 else c.ring) → s.namesVd vd = true → (s.vd vd).vstate = 2 →
      exec (.resetVd c) s = .next (s.resetVd vd (some c)))) ∧
  (∀ (s : State) (vd : Nat),
    let nothing (s' : State) : Prop := (∀ b ∈ s'.blocks, b.vd ≠ vd) ∧ (∀ c ∈ s'.cmds, c.vd ≠ vd) ∧
      (∀ k ∈ s'.kernels, k.vd ≠ vd) ∧ ∀ r ∈ s'.reqs, r.vd ≠ vd
    nothing (s.tearDown vd) ∧ nothing (s.resetSteps vd) ∧
    (∀ q ∈ ((s.resetSteps vd).vd vd).queues, qEn q.2 = false ∧ q.2.rdidx = 0 ∧ q.2.accepted = []))

/-- R336, R337: a pooled block is assigned at once; an owned one waits for its owner, who accepts or refuses, or for the
deadline: TIMEOUT, or with FORCE a reset of the owner, whose end unmaps the block. No deadline passes during a reset of the owner. -/
def MoveCalls : Prop :=
  (∀ (s : State) (c : Sys2Proof.CallSlot), s.callsDead = false → c.ring = 0 → c.a3.toNat ≤ 1 →
    c.a1.toNat &&& 0x1FF000F = c.a1.toNat →
    ∀ own m, own = s.owner.getD c.a0.toNat {} → m = ({
      blk := c.a0.toNat, owner := own.vd, part := bitsOf c.a1.toNat 3 0, vd := bitsOf c.a1.toNat 24 16, gblk := c.a2.toNat
      force := c.a3.toNat == 1, left := c.a4.toNat, full := c.a4.toNat, unmapped := own.kind == 2, call := c } : Move) →
    let s1 := (({ s with moves := s.moves ++ [m] } : State).settlePart own.part).settlePart m.part
    (∀ st, s.moveFault m own = some st → exec (.moveBlock c) s = .next (s.endCall c st 0)) ∧
    (s.moveFault m own = none → own.kind = 2 → exec (.moveBlock c) s = .next (s1.assignMove m)) ∧
    (∀ g, s.moveFault m own = none → own.kind ≠ 2 → s.gblkOf own.vd m.blk = some g →
      exec (.moveBlock c) s = .next (s1.askRemoval m g))) ∧
  (∀ (s : State) (c : Sys2Proof.CallSlot) (m : Move), s.callsDead = false → c.ring ≠ 0 → c.a1.toNat ≤ 1 → c.a2 = 0 →
    c.a3 = 0 → c.a4 = 0 →
    (s.moves.find? fun m => m.owner == c.ring && !m.unmapped && assocGet c.a0.toNat (s.vd c.ring).s2 == some m.blk) = some m →
    exec (.blockAck c) s = .next ((if c.a1.toNat = 1 then s.unmapMove m else s.dropMove m 2).endCall c 0 0)) ∧
  (∀ (s : State) (blk : Nat) (m : Move), s.moveOf blk = some m → m.unmapped = false → m.left = 0 →
    ((s.vd m.owner).vstate = 3 → exec (.moveDeadlineExpire blk) s = .next s) ∧
    ((s.vd m.owner).vstate ≠ 3 → m.force = false → exec (.moveDeadlineExpire blk) s = .next (s.dropMove m 7)) ∧
    ((s.vd m.owner).vstate ≠ 3 → m.force = true → exec (.moveDeadlineExpire blk) s = .next
      (({ s with moves := s.moves.map fun x => if x.blk == blk then { x with forced := true } else x } : State).resetVd m.owner
        none))) ∧
  (∀ (s s1 : State) (vd : Nat) (m : Move), s.moves.filter (fun m => m.owner == vd && !m.unmapped) = [m] → (s.vd vd).flr = false →
    s1 = (if m.forced then s.unmapMove m else match s.gblkOf vd m.blk with
      | some g => s.askRemoval m g
      | none => s) → (s1.vd vd).resetCall = none →
    s.resetEnd vd = { s1 with moves := s1.moves.map fun m => if m.owner == vd && !m.unmapped then { m with left := m.full } else m }) ∧
  (∀ (s : State) (m : Move), m.blk < s.owner.length →
    (s.targetOk m = true → ((s.assignMove m).owner.getD m.blk {}) = { kind := 3, part := m.part, vd := m.vd } ∧
      assocGet m.gblk ((s.assignMove m).vd m.vd).s2 = some m.blk) ∧
    (∀ g, s.gblkOf m.owner m.blk = some g → assocGet g ((s.unmapMove m).vd m.owner).s2 = none ∧
      ((s.unmapMove m).owner.getD m.blk {}).scrub = true ∧ ((s.unmapMove m).owner.getD m.blk {}).kind =
        if (s.owner.getD m.blk {}).scrub then (s.owner.getD m.blk {}).kind else 0))

end Sys2Proof.Claims

/-- R317 to R337, R340, R351 to R368, R388, R397, R430: Harbour's calls, invalidations and page-ins. The model's own readings in it: UNKNOWN
comes before DENIED, a page-in costs one service cycle, and a whole-VD TLB_INVAL takes no notice of its other arguments (log entry 19);
which VD a stream is bound to (31); a move whose target VD has gone, and the KIND of a block in an unlock's scrub (32); REASON 1 for a
slot that cannot be read (39); SET_IRQ of VD 0 (46); the writes that a shoot-down's end waits for (47). -/
def Obligations.HarbourEvents : Prop :=
  Claims.CallRules ∧ Claims.TableCalls ∧ Claims.TranslationCalls ∧ Claims.Invalidations ∧ Claims.PageIns ∧
    Claims.CreationCalls ∧ Claims.EndCalls ∧ Claims.MoveCalls

/-! ## Host, links and security -/

namespace Sys2Proof.Claims

/-- A host request of a function for `n` bytes at a BAR2 offset reaches a VD's memory (R204, R213, R349, R377): it fits one TLP,
the T-bit rules admit it, and stage 2 maps the offset; no byte is poisoned. -/
structure HostReaches (s : State) (fn vd off n ma : Nat) (tbit : Bool) : Prop where
  function : s.vdOfFn fn = some vd
  tenant : vd ≠ 0
  inside : off < 2 ^ 39
  fits : tlpOk off n = true
  admits : (s.vd vd).admits (!(s.vd vd).sharedBlocks.contains (off / 2 ^ 31)) tbit = true
  mapped : s.stage2 vd off = some ma
  sound : s.devPoisoned ma n = false

/-- R204, R206, R213, R391, R393: host reads, writes and AtomicOps on a VD's memory, directly or through a CXL decoder: what
memory holds afterwards, and what the host receives. A write changes no full/empty bit. -/
def HostAccesses : Prop :=
  (∀ (s : State) (fn vd off n ma : Nat) (tbit : Bool), HostReaches s fn vd off n ma tbit →
    let c : Carry := { tbit := tbit }
    let reads (i : Instr) (f : Nat) : Prop := ∃ s', exec i s = .next s' ∧ s'.mem = s.mem ∧
      s'.out = s.out ++ [.completion f (natBytes n (readCells s.mem ma n)) false]
    let writes (i : Instr) (data : List Byte) : Prop := ∃ s', exec i s = .next s' ∧
      s'.mem = writeCells s.mem ma n (bytesNat data) ∧ s'.empties = s.empties ∧ s'.out = s.out
    let old := readCells s.mem ma n
    let swaps (i : Instr) (new : Option Nat) : Prop := ∃ s', exec i s = .next s' ∧
      s'.mem = (match new with | some v => writeCells s.mem ma n (v % 2 ^ (8 * n)) | none => s.mem) ∧
      s'.empties = s.empties ∧ s'.out = s.out ++ [.completion fn (natBytes n old) false]
    reads (.hostRead fn off n c) fn ∧
    (∀ data, data.length = n → writes (.hostWrite fn off data c) data) ∧
    (off % n = 0 → n = 4 ∨ n = 8 → ∀ x,
      swaps (.hostFetchadd fn off n x c) (some (old + x)) ∧ swaps (.hostSwap fn off n x c) (some x)) ∧
    (off % n = 0 → n = 4 ∨ n = 8 ∨ n = 16 → ∀ cmp x,
      swaps (.hostCas fn off n cmp x c) (if old = cmp % 2 ^ (8 * n) then some x else none)) ∧
    (∀ ep haddr h, s.hdmFor ep haddr = some h → s.cxlBroken ep = false → h.vd = vd → s.hasVd vd = true →
      fn = (s.vd vd).vfn → 2 ^ 31 * h.gblk + (haddr - h.base) = off →
      reads (.cxlMemAccess ep haddr n none c) fn ∧
      ∀ data, data.length = n → writes (.cxlMemAccess ep haddr n (some data) c) data)) ∧
  (∀ (s : State) (fn off n vd : Nat) (tbit : Bool), s.vdOfFn fn = some vd → vd ≠ 0 → off < 2 ^ 39 → tlpOk off n = true →
    (s.vd vd).admits (!(s.vd vd).sharedBlocks.contains (off / 2 ^ 31)) tbit = true → s.stage2 vd off = none →
    exec (.hostRead fn off n { tbit := tbit }) s = .next (s.emit (.unsupported fn)) ∧
    ∀ data, data.length = n → exec (.hostWrite fn off data { tbit := tbit }) s = .next s) ∧
  (∀ (s : State) (ep haddr n : Nat) (data : Option (List Byte)) (tbit : Bool), s.hdmFor ep haddr = none →
    exec (.cxlMemAccess ep haddr n data { tbit := tbit }) s = .next (s.emit (.completion 0 [] true)))

/-- R379, R380, R394: a host request that travels on an IDE stream. One that is taken is performed as a plain one, and a non-posted one's
completion takes the stream's next counter and travels encrypted; one that is discarded does nothing else. On a stream that is not
Secure, with a failed MAC, or under a set without keys, it makes the stream Insecure. A slot of CXL.cachemem carries no such request
(log entry 28). -/
def StreamRequests : Prop :=
  ∀ (s : State) (m : IdeMark) (fn off n x cmp : Nat) (data : List Byte) (tbit : Bool),
    let c : Carry := { tbit := tbit, ide := some m }
    let plain : Carry := { tbit := tbit }
    let asPlain (i j : Instr) (sub : Nat) (f : State → State) : Prop :=
      exec i s = if s.cxlOnly m.stream then .next s
        else if (s.receive sub m).2 then
          match exec j (s.receive sub m).1 with
          | .next t => .next (f t)
          | r => r
        else .next (s.receive sub m).1
    let answered (t : State) : State := match t.out.getLast? with
      | some o => { t with
          streams := t.streams.map fun x => if x.id == m.stream && x.secure then x.sent 2 else x
          out := t.out ++ (t.streams.filter fun x => x.id == m.stream && x.secure).map fun x => x.sealed 2 o }
      | none => t
    asPlain (.hostWrite fn off data c) (.hostWrite fn off data plain) 0 id ∧
    asPlain (.hostRead fn off n c) (.hostRead fn off n plain) 1 answered ∧
    asPlain (.hostFetchadd fn off n x c) (.hostFetchadd fn off n x plain) 1 answered ∧
    asPlain (.hostSwap fn off n x c) (.hostSwap fn off n x plain) 1 answered ∧
    asPlain (.hostCas fn off n cmp x c) (.hostCas fn off n cmp x plain) 1 answered ∧
    ((s.stream m.stream).failed = true → ∀ sub, s.receive sub m = (s, false)) ∧
    ((s.stream m.stream).failed = false →
      (s.stream m.stream).secure = false ∨ m.macOk = false ∨ (s.stream m.stream).hasSet m.set = false →
      ∀ sub, s.receive sub m = (s.insecure m.stream, false))

/-- A request outstanding on a sound stream, alone under its tag, for which nothing is withheld (R352, R367). -/
structure Outstanding (s : State) (r : HostReq) : Prop where
  known : (s.reqs.find? fun x => x.tag == r.tag) = some r
  stream : (s.stream r.stream).failed = false
  aperture : (s.vd r.vd).apCall = none
  port : (s.ports.getD r.port {}).invalidations = []

/-- A state without the request of a tag. -/
def without (s : State) (tag : Nat) : State := { s with reqs := s.reqs.filter fun x => x.tag != tag }

/-- R205, R367, R380, R389, R400: a completion's last data reaches the load that waits for it; one refused, or late by the timeout,
is a permission fault at the load itself (log entry 47); one on a stream that is not Secure, or with a failed MAC, makes the stream
Insecure, and one in the clear answers no request of a stream; one that matches no request is discarded. -/
def Completions : Prop :=
  (∀ (s : State) (r : HostReq) (t : TRef) (fill : Bool) (line off size mask own : Nat) (sext : Bool), Outstanding s r →
    r.what = .load t fill line off size sext mask own none → s.l1Line (s.coreOf t) r.vd line = none →
    (s.th t).park ≠ .host r.tag →
    let late (x : Thread) : Thread := { x.forget r.tag with late := some (r.pc, r.va) }
    (∀ c s1, s.takes r c = (s1, true) →
      (∀ bytes, c.body = .data bytes → bytes ≠ [] → r.part.length + bytes.length = r.size →
        let ws := loadWords size sext (mergeBytes size mask own (bytesAt (r.part ++ bytes) off size))
        exec (.hostCompletion r.tag c) s =
          .next ((without s1 r.tag).modTh t fun x => { x with pending := arriveAll r.tag x.pending ws })) ∧
      (∀ bytes, c.body = .data bytes → bytes ≠ [] → r.part.length + bytes.length < r.size →
        exec (.hostCompletion r.tag c) s = .next { s1 with reqs := s1.reqs.map fun x =>
          if x.tag = r.tag then { x with part := r.part ++ bytes } else x }) ∧
      ((∃ p ∈ (s.th t).pending, p.tag = r.tag) → c.body = .unsupported ∨ c.body = .abort →
        exec (.hostCompletion r.tag c) s = .next (((without s1 r.tag).modTh t late).lateTrap t))) ∧
    ((∃ p ∈ (s.th t).pending, p.tag = r.tag) → r.since + 33554432 ≤ s.clk.svc →
      exec (.completionTimeout r.tag) s = .next (((without s r.tag).modTh t late).lateTrap t))) ∧
  (∀ (s : State) (r : HostReq) (c : Completion),
    (c.ide = false → s.takes r c = (s, !(s.stream r.stream).secure && !(s.stream r.stream).failed)) ∧
    (c.ide = true → (s.stream r.stream).failed = true → s.takes r c = (s, false)) ∧
    (c.ide = true → (s.stream r.stream).failed = false → (s.stream r.stream).secure = false ∨ c.macOk = false →
      s.takes r c = (s.insecure r.stream, false))) ∧
  (∀ (s s1 : State) (r : HostReq) (c : Completion), Outstanding s r → s.takes r c = (s1, false) →
    exec (.hostCompletion r.tag c) s = .next s1) ∧
  (∀ (s : State) (tag : Nat) (c : Completion), (∀ r ∈ s.reqs, r.tag ≠ tag) → exec (.hostCompletion tag c) s = .next s)

/-- R366, R367: a Translation Completion enters the port's cache and lets the waiting thread go on; one that an invalidation has
overtaken enters nothing. An Invalidation Request takes the range's translations away at once, overtakes the Translation Requests of its
pages, and is answered at once when no request uses them. -/
def AtsEvents : Prop :=
  (∀ (s : State) (r : HostReq) (t : TRef) (vd ap h bus : Nat), Outstanding s r → r.size = 0 → r.what = .ats vd ap h none →
    (s.stream r.stream).secure = false → s.atsThread r.tag = some t → r.port < s.ports.length →
    (r.stale = true → ∀ o, exec (.atsTranslationCompletion r.tag o) s =
      .next ((without s r.tag).modTh t fun x => { x with park := .running })) ∧
    (r.stale = false → ∃ s', exec (.atsTranslationCompletion r.tag (some bus)) s = .next s' ∧ (s'.th t).park = .running ∧
      s'.atcFind r.port (s.vd r.vd).vfn r.haddr = some (bus / 4096) ∧ s'.reqs = s.reqs.filter fun x => x.tag != r.tag)) ∧
  (∀ (s : State) (r : HostReq) (haddr : Option Nat), Outstanding s r → r.size = 0 → r.what.isFlush = false →
    (s.stream r.stream).secure = true → (s.stream r.stream).hasSet ((assocGet 2 (s.stream r.stream).rxSets).getD
      (s.stream r.stream).cur) = false →
    exec (.atsTranslationCompletion r.tag haddr) s = .next (s.insecure r.stream)) ∧
  (∀ (s : State) (port fn lo hi : Nat), port < s.ports.length → (s.ports.getD port {}).up = true →
    (s.ports.getD port {}).invalidations = [] →
    ∃ s', exec (.atsInvalidationRequest port fn lo hi) s = .next s' ∧ (∀ h, lo ≤ h → h < hi → s'.atcFind port fn h = none) ∧
      (s'.reqs = s.reqs.map fun r => if r.port = port ∧ r.size = 0 ∧ r.what.isFlush = false ∧ (s.vd r.vd).vfn = fn ∧
          r.haddr / 4096 * 4096 < hi ∧ lo < r.haddr / 4096 * 4096 + 4096 then { r with stale := true } else r) ∧
      let uses (r : HostReq) : Prop := r.ats = true ∧ r.port = port ∧ (s.vd r.vd).vfn = fn ∧ r.size ≠ 0 ∧ r.haddr < hi ∧
        lo < r.haddr + r.size
      ((∀ r ∈ s.reqs, ¬ uses r) → s'.out = s.out ++ [.atsInvalidated port lo hi]) ∧
      ((∃ r ∈ s.reqs, uses r) → s'.out = s.out))

/-- R373, R374, R379, R380, R389, R392, R396: links and their keys. A link that goes down loses its streams' keys; a function reset
ends at once where no VD is bound; keys and their switches travel in a secured session of the physical function's mailbox, and the
last zeroises its own set alone. -/
def LinkEvents : Prop :=
  (∀ (s : State) (port : Nat), port < s.ports.length →
    (∃ s', exec (.linkUp port) s = .next s' ∧ (s'.ports.getD port {}).up = true ∧ s' = { s with ports := s'.ports }) ∧
    ((∀ x ∈ s.streams, x.id / 64 = port → x.secure = true →
        s.reqs = [] ∧ s.posts = [] ∧ s.cmds = [] ∧ (x.vd = 0 ∨ (s.vd x.vd).locked = false)) →
      ∃ s', exec (.linkDown port) s = .next s' ∧
      (s'.ports.getD port {}).up = false ∧ ∀ x ∈ s'.streams, x.id / 64 = port → x.keys = [] ∧ x.secure = false)) ∧
  (∀ (s : State) (vfn : Nat), vfn ≠ 0 →
    (∀ v, (s.vds.find? fun v => v.vfn == vfn) = some v →
      let t := s.modVd v.id fun v => { v with flr := true }
      exec (.functionLevelReset vfn) s = .next (if v.vstate = 2 then t.resetVd v.id none else t)) ∧
    ((∀ v ∈ s.vds, v.vfn ≠ vfn) → exec (.functionLevelReset vfn) s = .next (s.emit (.resetDone vfn)))) ∧
  (∀ (s : State) (k : KeyProg) (st set part : Nat) (key : BitVec 256), s.inSession 0 = true →
    let x := s.stream st
    (k.stream ≤ 255 → k.sub ≤ 2 → k.set ≤ 1 → (s.stream k.stream).usable = true → ∃ s', exec (.keyProg k) s = .next s' ∧
      s'.out = s.out ++ [.ideKm k.stream 0] ∧
      ({ sub := k.sub, rx := k.rx, set := k.set, key := k.key, iv := k.iv } : KeySet) ∈ (s'.stream k.stream).keys) ∧
    (st ≤ 255 → set ≤ 1 → x.failed = false → x.hasSet set = true → ∃ s', exec (.kSetGo st set) s = .next s' ∧
      s'.out = s.out ++ [.ideKm st 0] ∧
      (x.secure = false → (s'.stream st).secure = true ∧ (s'.stream st).cur = set ∧ (s'.stream st).counters = []) ∧
      (x.secure = true → x.cur ≠ set → (s'.stream st).next = some set ∧ (s'.stream st).cur = x.cur)) ∧
    (st ≤ 255 → set ≤ 1 → x.secure = false ∨ x.uses set = false → ∃ s', exec (.kSetStop st set) s = .next s' ∧
      s'.out.getLast? = some (.ideKm st 0) ∧ ∀ e, e ∈ (s'.stream st).keys ↔ e ∈ x.keys ∧ e.set ≠ set) ∧
    (st ≤ 255 → set ≤ 1 → x.secure = true → x.uses set = true → s.reqs = [] → s.posts = [] → s.cmds = [] →
      x.vd = 0 ∨ (s.vd x.vd).locked = false → ∃ s', exec (.kSetStop st set) s = .next s' ∧
      s'.out.getLast? = some (.ideKm st 0) ∧ (s'.stream st).secure = false ∧ (s'.stream st).failed = true) ∧
    (part ≤ 15 → part < s.parts.length → s.feature 6 = true → (s.parts.getD part {}).linkUsable = true → s.bars = [] →
      ∃ s', exec (.linkKm part key) s = .next s' ∧ s'.out = s.out ++ [.ideKm (256 + part) 0] ∧
        (s'.parts.getD part {}).linkKey = some key)) ∧
  (∀ (s : State) (k : KeyProg) (st set part : Nat) (key : BitVec 256), s.inSession 0 = false →
    ∀ i ∈ [Instr.keyProg k, .kSetGo st set, .kSetStop st set, .linkKm part key],
      exec i s = .next ((s.chargeMbox 0).emit (.spdm 0 [0x13, 0x7F, 0x04, 0x00])))

/-- R375 to R378: the requests of a confidential VD's interface, in a secured session of its mailbox. -/
def InterfaceRequests : Prop :=
  ∀ (s : State) (vd : Nat) (nonce : BitVec 256), (s.vd vd).vfn ≠ 0 → s.hasVd vd = true → s.inSession (s.vd vd).vfn = true →
    (s.vd vd).conf = true →
    let x := (s.vd vd).tdisp
    let c := s.chargeMbox (s.vd vd).vfn
    let refuses (i : Instr) (m : TdispMsg) : Prop := exec i s = .next (c.emit (.tdisp vd m))
    (s.lockable vd = true → ∃ s' n, exec (.lockInterfaceRequest vd) s = .next s' ∧
      s'.out.getLast? = some (.tdisp vd (.locked n)) ∧ (s'.vd vd).tdisp.state = 1 ∧ (s'.vd vd).tdisp.nonce = n ∧
      (s'.vd vd).tdisp.report = sha (s.interfaceReport vd)) ∧
    (s.lockable vd = false → refuses (.lockInterfaceRequest vd) .invalidInterfaceState) ∧
    (x.state = 1 → (s.vd vd).unlock = false → x.nonce = nonce → ∃ s', exec (.startInterfaceRequest vd nonce) s = .next s' ∧
      s'.out.getLast? = some (.tdisp vd .started) ∧ (s'.vd vd).tdisp = { x with state := 2 }) ∧
    (x.state = 1 → (s.vd vd).unlock = false → x.nonce ≠ nonce → refuses (.startInterfaceRequest vd nonce) .invalidNonce) ∧
    (x.state ≠ 1 → refuses (.startInterfaceRequest vd nonce) .invalidInterfaceState) ∧
    (x.state ≠ 0 → (s.vd vd).unlock = false → (s.vd vd).vstate = 2 →
      exec (.stopInterfaceRequest vd) s = .next ((c.unlockStart vd).emit (.tdisp vd .stopped))) ∧
    (x.state ≠ 0 → (s.vd vd).unlock = true → refuses (.stopInterfaceRequest vd) .stopped) ∧
    (x.state = 0 → refuses (.stopInterfaceRequest vd) .invalidInterfaceState) ∧
    refuses (.getDeviceInterfaceState vd) (.state x.state)

/-- The requests that advance or keep a mailbox's connection, with the states before and after and the response's code. -/
noncomputable def negotiations : List ((Nat → List Byte → Instr) × Nat × Nat × Nat) := [
  (.getCapabilities, 1, 2, 0x61), (.negotiateAlgorithms, 2, 3, 0x63), (.getDigests, 3, 3, 0x01), (.getCertificate, 3, 3, 0x02)]

/-- R384 to R386: the messages of a mailbox: the connection's states in order, the running hash of the transcript, at most two
sessions, and an error for a request out of order. -/
def MailboxMessages : Prop :=
  ∀ (s : State) (mb : Nat) (msg : List Byte), s.mboxUp mb = true →
    let x := s.mbox mb
    let sends (i : Instr) (code : Byte) (f : State → List Byte → Prop) : Prop := ∃ s' resp, exec i s = .next s' ∧
      s'.out = s.out ++ [.spdm mb ([0x13, code] ++ resp)] ∧ f s' ([0x13, code] ++ resp)
    let refused (i : Instr) : Prop := ∃ s', exec i s = .next s' ∧ s'.mbox mb = x ∧
      s'.out = s.out ++ [.spdm mb [0x13, 0x7F, 0x04, 0x00]]
    (∀ resp, resp = [0x10, 0x04, 0x00, 0x00, 0x00, 0x01, 0x00, 0x13] → ∃ s', exec (.getVersion mb msg) s = .next s' ∧
      s'.out = s.out ++ [.spdm mb resp] ∧
      s'.mbox mb = { id := mb, conn := 1, hash := ({} : Sha).add (msg ++ resp), sessions := [] }) ∧
    (∀ e ∈ negotiations, (x.conn = e.2.1 → sends (e.1 mb msg) (BitVec.ofNat 8 e.2.2.2) fun s' resp =>
        (s'.mbox mb).conn = e.2.2.1 ∧ (s'.mbox mb).sessions = x.sessions ∧
        (s'.mbox mb).hash = x.hash.add (msg ++ resp)) ∧
      (x.conn ≠ e.2.1 → refused (e.1 mb msg))) ∧
    (x.conn = 3 → sends (.challenge mb msg) 0x03 fun s' _ => s'.mbox mb = x) ∧
    (x.conn = 3 → ∀ c, (s.measurement mb (msg.getD 3 0).toNat) = some c → sends (.getMeasurements mb msg) 0x60 fun s' resp =>
      s'.mbox mb = x ∧ (resp.drop 8).take (7 + c.length) = natBytes 1 (msg.getD 3 0).toNat ++ [0x01] ++
        natBytes 2 (c.length + 3) ++ [0x00] ++ natBytes 2 c.length ++ c) ∧
    (x.conn = 3 → x.sessions.length < 2 → sends (.keyExchange mb msg) 0x64 fun s' _ =>
      ∃ n, (s'.mbox mb).sessions = x.sessions ++ [n] ∧ n.finished = false) ∧
    (x.conn = 3 → 2 ≤ x.sessions.length → refused (.keyExchange mb msg)) ∧
    (∀ before y after, x.sessions = before ++ y :: after → y.finished = false → (∀ z ∈ before, z.finished = true) →
      sends (.finish mb msg) 0x65 fun s' _ => (s'.mbox mb).sessions = before ++ { y with finished := true } :: after) ∧
    (∀ before y after, x.sessions = before ++ y :: after → y.finished = true → (∀ z ∈ before, z.finished = false) →
      sends (.endSession mb msg) 0x6C fun s' _ => (s'.mbox mb).sessions = before ++ after) ∧
    (x.conn ≠ 3 → refused (.challenge mb msg) ∧ refused (.getMeasurements mb msg) ∧ refused (.keyExchange mb msg)) ∧
    (x.sessions = [] → refused (.finish mb msg) ∧ refused (.endSession mb msg))

end Sys2Proof.Claims

/-- R204 to R206, R213, R366, R367, R373 to R380, R384 to R393, R396: what the host, its links and its verifiers do to the
package. The model's own readings in it: the layout of the messages (log entry 27); which TLPs count on a stream, a Translation Completion
under the set in use, and K_SET_STOP of the set in use (28); the 4 KiB entries of a port's translation cache (13); where a refused load
traps (47). -/
def Obligations.HostEvents : Prop :=
  Claims.HostAccesses ∧ Claims.StreamRequests ∧ Claims.Completions ∧ Claims.AtsEvents ∧ Claims.LinkEvents ∧ Claims.InterfaceRequests ∧
    Claims.MailboxMessages

/-! ## Fabric, errors, boot and clocks -/

namespace Sys2Proof.Claims

/-- A flit is accepted for a VD of this package (R396, R398): the part has Longshore, the entry of the destination's rank in the
active partition of its KEY names this package and the VD, the partition's link key is loaded and the MAC verifies, and the type is
not reserved. -/
structure FlitTaken (s : State) (f : Flit) (vd : Nat) : Prop where
  longshore : s.feature 6 = true
  names : s.flitVd f = some vd
  keyed : ∀ p, s.partOfKey f.key = some p → s.keyed p = true
  mac : f.macOk = true
  type : f.typeOk = true

/-- The flits that a package can receive. -/
noncomputable def flitInstrs (f : Flit) : List Instr :=
  [.flitPutData f, .flitGetRequest f, .flitPutAck f, .flitGetData f, .flitError f, .flitBarrierArrival f, .flitBarrierOpen f]

/-- How a command goes on after an answer: where its block runs, or its VD's reset lets it finish its unit; otherwise it waits. -/
def goesOn (s : State) (c : Cmd) : CmdState := if s.cmdRuns c then .running else .queued

/-- R212, R249, R398, R437: flits at the target: a PUT's enabled bytes are written and acknowledged, a GET's line is returned; a
flit that fails its checks changes no memory; a part without Longshore has no port and takes none (log entry 44). The flits of this
package's own commands: acknowledgements, lines and errors, whose code stands in the low byte (log entry 21). -/
def Flits : Prop :=
  (∀ (s s1 : State) (f : Flit) (vd w gpa ma : Nat), FlitTaken s f vd → Memory.wf s1.mem = true →
    s1.devPoisoned ma 128 = false →
    (s.flitPlace vd (f.addr / 128 * 128) .write = .at_ s1 (.dev w gpa ma) → f.few = 0 →
      ∃ s2 : State, exec (.flitPutData f) s = .next (s2.flitReply f 1 0) ∧ s2.empties = s1.empties ∧
        (∀ i < 128, f.be.getLsbD i = true → cellGet s2.mem (ma + i) = BitVec.ofNat 8 (f.data.toNat / 2 ^ (8 * i))) ∧
        ∀ a, (∀ i < 128, f.be.getLsbD i = true → a ≠ ma + i) → cellGet s2.mem a = cellGet s1.mem a) ∧
    (s.flitPlace vd (f.addr / 128 * 128) .read = .at_ s1 (.dev w gpa ma) →
      ∃ s2 : State, exec (.flitGetRequest f) s = .next (s2.flitReply f 3 (BitVec.ofNat 1024 (readCells s1.mem ma 128))) ∧
        s2.mem = s1.mem)) ∧
  (∀ (s : State) (f : Flit), s.feature 6 = true → (∀ vd, ¬ FlitTaken s f vd) →
    ∀ i ∈ flitInstrs f, exec i s = .next (s.flitDrop f) ∧ (s.flitDrop f).mem = s.mem ∧ (s.flitDrop f).cmds = s.cmds) ∧
  (∀ (s : State) (f : Flit), s.feature 6 = false → ∀ i ∈ flitInstrs f, exec i s = .next s) ∧
  (∀ (s : State) (f : Flit) (vd : Nat) (c : Cmd), FlitTaken s f vd →
    s.cmds.find? (fun x => x.id == c.id) = some c → s.killed c = false →
    let st : CmdState := goesOn s c
    (s.flitCmd vd f (some fnPut) = some c → ∃ s', exec (.flitPutAck f) s = .next s' ∧
      s'.cmd c.id = { c with ncheck := c.ncheck + 1, st := st }) ∧
    (s.flitCmd vd f (some fnGet) = some c → ∃ s', exec (.flitGetData f) s = .next s' ∧
      s'.cmd c.id = { c with host := c.host ++ [(f.addr / 128 * 128, natBytes 128 f.data.toNat)], st := st }) ∧
    (s.flitCmd vd f none = some c → f.data.toNat % 256 ≠ 0x13 → ∃ s' x, exec (.flitError f) s = .next s' ∧
      s'.cmd c.id = { c with fault := some x, st := st } ∧
      (f.data.toNat % 256 = 0x08 ∨ f.data.toNat % 256 = 0x09 ∨ f.data.toNat % 256 = 0x0B → x.cause = f.data.toNat % 256) ∧
      (f.data.toNat % 256 = 0 → x.cause = 0x0E))) ∧
  (∀ (s : State) (c : Cmd), s.cmds.find? (fun x => x.id == c.id) = some c → c.st = .waitFlit →
    s.killed c = false → c.since + 16777216 ≤ s.cycles (dieOfCore (s.cmdCore c)) →
    ∃ s' x, exec (.fabricResponseTimeout c.id) s = .next s' ∧ (s'.cmd c.id).fault = some x ∧ x.cause = 0x0E) ∧
  (∀ (s : State) (port : Nat), exec (.flitReplay port) s = .next (s.emit (.replayFlit port)))

/-- R399: an arrival flit is noted for its generation and the barrier checked; an open flit opens the generation that it names,
whose arrived threads resume. Where a flit carries the id and the generation is log entry 12. -/
def PodBarriers : Prop :=
  ∀ (s : State) (f : Flit) (vd : Nat), FlitTaken s f vd →
    let b := s.bar (.pod vd (flitBar f).1)
    (b.gen ≤ (flitBar f).2 → exec (.flitBarrierArrival f) s =
      .next ((s.setBar { b with ranks := setIns (1024 * (flitBar f).2 + f.srank) b.ranks }).checkBar (.pod vd (flitBar f).1))) ∧
    ((flitBar f).2 < b.gen → exec (.flitBarrierArrival f) s = .next s) ∧
    ((flitBar f).2 = b.gen → b.sent = true → ∃ s', exec (.flitBarrierOpen f) s = .next s' ∧
      (s'.bar (.pod vd (flitBar f).1)).gen = b.gen + 1 ∧ (s'.bar (.pod vd (flitBar f).1)).arrived = [] ∧
      ∀ t ∈ b.arrived, (∃ x ∈ s.threads, x.ref = t) → (s'.th t).park = .running) ∧
    ((flitBar f).2 ≠ b.gen ∨ b.sent = false → exec (.flitBarrierOpen f) s = .next s)

/-- R381, R383: the scrub engine's jobs. A job takes the lowest waiting block; a unit that a write has touched reads as zero,
every word FULL, afterwards; a restart halts the running jobs at their TIDEMARKs. -/
def ScrubJobs : Prop :=
  (∀ (s : State) (j : Nat), j < s.scrub.length → (s.job j).run = false → s.scrubRuns = true →
    ((s.job j).halt = true → ∃ s', exec (.scrubJobStart j) s = .next s' ∧
      s'.job j = { s.job j with run := true, halt := false }) ∧
    (∀ b, (s.job j).halt = false → s.scrubWaiting = some b → ∃ s', exec (.scrubJobStart j) s = .next s' ∧
      s'.job j = { run := true, halt := false, tidemark := 0, mblk := b } ∧ (s.owner.getD b {}).scrub = true ∧
      ∀ b' < b, (s.owner.getD b' {}).scrub = true → s.beingScrubbed b' = true)) ∧
  (∀ (s : State) (j : Nat), j < s.scrub.length → (s.job j).run = true → (s.job j).tidemark < 1024 →
    ∃ s', exec (.scrubUnit j) s = .next s' ∧ s'.job j = { s.job j with tidemark := (s.job j).tidemark + 1, left := 0 } ∧
      let lo := (s.job j).mblk * 2 ^ 31 + (s.job j).tidemark * 2 ^ 21
      (∀ a, a < lo ∨ lo + 2 ^ 21 ≤ a → Memory.wf s.mem = true → cellGet s'.mem a = cellGet s.mem a) ∧
      ((s.touched.getD (s.job j).mblk 0).getLsbD (s.job j).tidemark = true →
        ∀ a, lo ≤ a → a < lo + 2 ^ 21 → cellGet s'.mem a = 0 ∧ a ∉ s'.empties ∧ a ∉ s'.poison) ∧
      (s'.touched.getD (s.job j).mblk 0).getLsbD (s.job j).tidemark = false) ∧
  (∀ (s : State) (j : Nat), (s.job j).run = true → 1024 ≤ (s.job j).tidemark → exec (.scrubJobEnd j) s =
    .next (((s.modJob j fun x => { x with run := false }).scrubbed (s.job j).mblk).afterScrub)) ∧
  (∀ (s : State) (b : Nat), b < s.owner.length → s.moves = [] → ((s.scrubbed b).owner.getD b {}).scrub = false) ∧
  (∀ (s : State), ∃ s', exec .harbourWarmRestart s = .next s' ∧ s' = { s with scrub := s'.scrub } ∧ ∀ (j : Nat) x,
    s.scrub[j]? = some x → s'.scrub[j]? = some (if x.run then { x with run := false, halt := true, left := 0 } else x))

/-- R421 to R425, R433, R339: what an error found in a word does, and the writes of an array's TARGET. Up to three bad symbols of a
memory sector are corrected and count in ERRCNT0; four are detected, count in ERRCNT1 and poison it. An array word is corrected up to
the strength of its mode, TARGET's below TIDEMARK and CUR's elsewhere, and counts in ERRCNT2; one bit more counts in ERRCNT3 and
poisons it. A sweeper reads its words in order only (log entry 29). Harbour's work is charged to the VD's ring (R330; log entry 19). -/
def Sweeps : Prop :=
  (∀ (s : State) (ma bad : Nat) (swept : Bool),
    let at_ := ma / 64 * 64
    let vd := s.sectorVd at_
    (bad = 0 → exec (.backwashSweep (.sector ma) ⟨bad, swept⟩) s = .next s) ∧
    (1 ≤ bad → bad ≤ 3 → exec (.backwashSweep (.sector ma) ⟨bad, swept⟩) s = .next ((s.countError vd 0).chargeRing vd)) ∧
    (bad = 4 → at_ ∉ s.poison → ∃ s', exec (.backwashSweep (.sector ma) ⟨bad, swept⟩) s = .next s' ∧
      (∀ a, a ∈ s'.poison ↔ a = at_ ∨ a ∈ s.poison) ∧ s'.mem = s.mem ∧ s'.vds = ((s.countError vd 1).chargeRing vd).vds)) ∧
  (∀ (s : State) (ma w bad : Nat), ma < 2 ^ 39 →
    let at_ := ma / 8 * 8
    let vd := s.sectorVd at_
    let x := s.ecc.getD (eccSlice (dieOfMa ma) (sliceOf ma)) {}
    let k := if (if x.busy = true ∧ w < x.tidemark then x.target else x.cur) = true then 2 else 1
    (1 ≤ bad → bad ≤ k → ∃ s', exec (.backwashSweep (.home ma w) ⟨bad, false⟩) s = .next s' ∧ s'.mem = s.mem ∧
      s'.poison = s.poison ∧ s'.l2bad = s.l2bad ∧ s'.vds = ((s.countError vd 2).chargeRing vd).vds) ∧
    (bad = k + 1 → s.devPoisoned at_ 8 = false → ∃ s', exec (.backwashSweep (.home ma w) ⟨bad, false⟩) s = .next s' ∧
      s'.mem = s.mem ∧ s'.poison = s.poison ∧ (∀ a, a ∈ s'.l2bad ↔ a = at_ ∨ a ∈ s.l2bad) ∧
      s'.vds = ((s.countError vd 3).chargeRing vd).vds)) ∧
  (∀ (s : State) (a : SweepTarget) (bad : Nat), s.sweeps a = false → exec (.backwashSweep a ⟨bad, true⟩) s = .next s) ∧
  (∀ (s : State) (vd k n : Nat), vd ≠ 0 → s.hasVd vd = true → k < 8 → (s.vd vd).ctl.errcnt.length = 8 →
    (s.vd vd).ctl.errcnt.getD k 0 = n → n < 2 ^ 64 - 1 → ((s.countError vd k).vd vd).ctl.errcnt.getD k 0 = n + 1) ∧
  (∀ (s : State) (t : TRef) (reg : Nat), (∃ b ∈ s.bundles, b.blk = t.blk ∧ b.idx = t.bun) →
    (s.buOf t).poison.contains (t.lane, reg) = false → (∀ x ∈ s.mons.uncorrectedIn, x.1 ≠ s.coreOf t) →
    ∃ s', exec (.backwashSweep (.register t reg) ⟨2, false⟩) s = .next s' ∧
      (t.lane, reg) ∈ (s'.buOf t).poison ∧ s'.vds = ((s.countError (s.vdOf t) 3).chargeRing (s.vdOf t)).vds) ∧
  (∀ (s : State) (entry : Nat) (target : Bool), entry < s.ecc.length →
    let x := s.ecc.getD entry {}
    ∃ s', exec (.arrayEccTargetWrite entry target) s = .next s' ∧ s' = { s with ecc := s'.ecc } ∧ s'.ecc.getD entry {} =
      if x.busy then x else if target = x.cur then { x with target := target }
      else { x with target := target, busy := true, tidemark := 0 })

/-- R22, R23, R439, R440: the published monitors, which change once in each 65,536 service cycles, the clock steps that they ask
for, droops, and the thermal shutdown, which only a cold reset ends; the tables it leaves are log entry 43. -/
def Clocks : Prop :=
  (∀ (s : State) (ta tb p : Nat), s.clk.svc / 65536 ≤ s.mons.seen → exec (.monitorUpdate ta tb p) s = .next s) ∧
  (∀ (s : State) (ta tb p : Nat), s.mons.seen < s.clk.svc / 65536 → ∃ s', exec (.monitorUpdate ta tb p) s = .next s' ∧
    s'.mons.tempA = ta % 2 ^ 16 ∧ s'.mons.tempB = tb % 2 ^ 16 ∧ s'.mons.power = p % 2 ^ 16 ∧ s'.mons.shown = s.mons.steps ∧
    s'.mons.seen = s.clk.svc / 65536 ∧
    (∀ die < 2, s'.mons.base die < s'.mons.target die → .clockStepDown die ∈ s'.agenda) ∧
    (920 ≤ signExt 16 ta ∨ 920 ≤ signExt 16 tb → .thermalShutdown ∈ s'.agenda)) ∧
  (∀ (s : State) (die : Nat), die < 2 →
    (s.mons.base die < s.mons.target die → ∃ s', exec (.clockStepDown die) s = .next s' ∧
      s'.mons.base die = s.mons.target die ∧ s'.mons.base (1 - die) = s.mons.base (1 - die)) ∧
    (s.mons.low die ≠ 0 → s.mons.target die < s.mons.base die → s.mons.low die - 1 + 2 ^ 24 ≤ s.clk.svc →
      ∃ s', exec (.clockStepUp die) s = .next s' ∧ s'.mons.base die = s.mons.base die - 1 ∧
        s'.mons.base (1 - die) = s.mons.base (1 - die)) ∧
    (∃ s', exec (.voltageDroop die) s = .next s' ∧ s'.mons.step die = Nat.min 3 (s.mons.base die + 1) ∧
      s'.mons.step (1 - die) = s.mons.step (1 - die)) ∧
    (∃ s', exec (.voltageDroopClears die) s = .next s' ∧ s'.mons.step die = Nat.min 3 (s.mons.base die) ∧
      s'.mons.step (1 - die) = s.mons.step (1 - die))) ∧
  (∀ s : State, ∃ s', exec .thermalShutdown s = .next s' ∧ s'.mons.stopped = true ∧ s'.threads = [] ∧ s'.blocks = [] ∧
    s'.mem = [] ∧ s'.vds = State.reset.vds ∧ ∀ p ∈ s'.ports, p.up = false) ∧
  (∀ (s : State), s.mons.stopped = true →
    (s.agenda = [] → step s = .fault .clocksStopped) ∧
    (∀ cfg r, s.agenda = .coldReset cfg :: r → ∃ s', step s = .next s' ∧ s'.mons.stopped = false))

/-- R390, R435: measured boot. A step that fails stops it with its STATUS and extends no measurement (log entry 36); each machine
block is as the configuration says (log entry 26); a boot that succeeds leaves the measurements locked. A refused table is STATUS 3,
with port 0's endpoint alone (log entry 36). The HBM rows recorded are kept until step 4 has repaired them. -/
def ColdBoot : Prop :=
  ∀ (s : State) (cfg : BootCfg), ∃ s', exec (.coldReset cfg) s = .next s' ∧
    s'.threads = [] ∧ s'.blocks = [] ∧ s'.mem = [] ∧ s'.empties = [] ∧ s'.poison = [] ∧ s'.l2bad = [] ∧ (∀ v ∈ s'.vds, v.id = 0) ∧
    s'.agenda = s.agenda ∧
    (∀ b < 256, b ∈ cfg.harbourBlocks → s'.owner.getD b {} = { kind := 1 }) ∧
    (∀ b < 256, ∀ p, b ∉ cfg.harbourBlocks → assocGet b cfg.pools = some p → s'.owner.getD b {} = { kind := 2, part := p }) ∧
    (cfg.romOk = false ∨ cfg.fwOk = false → s'.boot.badRows = s.boot.badRows) ∧
    (cfg.romOk = true → cfg.fwOk = true → s'.boot.badRows = []) ∧
    (cfg.romOk = false → s'.boot.status = 1 ∧ s'.boot.booted = false ∧ s'.boot.meas = List.replicate 16 0) ∧
    (cfg.romOk = true → cfg.fwOk = false → s'.boot.status = 2 ∧ s'.boot.booted = false ∧
      s'.boot.meas.drop 1 = List.replicate 15 0) ∧
    (cfg.romOk = true → cfg.fwOk = true → cfg.scrubOk = false → s'.boot.status = 4 ∧ s'.boot.booted = false) ∧
    (cfg.romOk = true → cfg.fwOk = true → cfg.scrubOk = true → s'.boot.booted = true ∧ s'.boot.locked = true ∧
      s'.boot.caps = cfg.caps ∧
      s'.boot.meas[0]? = some (sha (natBytes 64 0 ++ natBytes 64 cfg.loader.toNat)) ∧
      s'.boot.meas[1]? = some (sha (natBytes 64 0 ++ natBytes 64 cfg.image.toNat)) ∧
      (cfg.cfgOk = true → tableOk cfg.endpoints = true → s'.boot.status = 0 ∧ s'.boot.endpoints = cfg.endpoints) ∧
      (cfg.cfgOk = false ∨ tableOk cfg.endpoints = false → s'.boot.status = 3 ∧ s'.boot.endpoints = portZero) ∧
      (∀ q < 32, (s'.rmap q).state = if q = cfg.disabledA % 16 ∨ q = 16 + cfg.disabledB % 16 then 1
        else if q ∈ s.boot.retirement ++ cfg.retired then 2 else 0))

end Sys2Proof.Claims

/-- R22, R23, R212, R249, R339, R381, R383, R390, R395, R398, R399, R421 to R425, R433, R435, R439, R440: fabric flits, stored
errors, scrubbing, measured boot and the clocks. The model's own choices in them are log entries 12 (the barrier flit's layout), 19
(Harbour's charge), 21 (the error flit's code), 26 and 36 (what a failing boot leaves), 29 (the codes and the sweepers), 43 (the
tables after a thermal shutdown) and 44 (flits without Longshore). -/
def Obligations.ReliabilityEvents : Prop :=
  Claims.Flits ∧ Claims.PodBarriers ∧ Claims.ScrubJobs ∧ Claims.Sweeps ∧ Claims.Clocks ∧ Claims.ColdBoot


/-! ## The step, reset, and what every step keeps -/

namespace Sys2Proof.Claims

/-- R77, R78, R400, R437: a pick's word, fetched at the lead thread's PC, is decoded and the instruction it decodes to is
performed; the group's convergence round goes on behind it. A word of a feature that the part does not have is illegal. -/
def StepsRun : Prop :=
  ∀ (s s1 : State) (p : Pick) (lead : TRef) (rest : List TRef) (w : Nat), s.agenda = [] → s.mons.stopped = false →
    s.pick = some p → p.refs = lead :: rest → (s.taken p).fetch lead = (s1, .word w) →
    (∀ i, decode w = .ok i → s1.hasFeature i = true → ∀ s', exec i (s1.withWord w) = .next s' →
      step s = .next (s'.roundOn p)) ∧
    (∀ i, decode w = .ok i → s1.hasFeature i = false → ∀ s', exec (.illegalWord w) (s1.withWord w) = .next s' →
      step s = .next (s'.roundOn p)) ∧
    (∀ e, decode w = .error e → ∀ s', exec (.illegalWord w) (s1.withWord w) = .next s' → step s = .next (s'.roundOn p))

/-- R50: the fetch reads the four bytes at the machine address of the thread's PC, least significant first; a PC at or above
the scratchpad's addresses is PROT at the PC. That the bytes are the home's newest is the model's choice (log entry 3): where another
has written them, R50 lets the old or the new word come. -/
def Fetches : Prop :=
  ∀ (s : State) (t : TRef),
    (∀ (s1 : State) (die gpa ma : Nat), (s.th t).pc.toNat < scratchBase →
      s.translate (.lane (s.coreOf t) (s.buOf t).sub t.lane) (s.vdOf t) (s.th t).pc.toNat .fetch =
        (s1, .ok (.dev die gpa ma)) → s1.devPoisoned ma 4 = false →
      s.fetch t = (s1, .word ((cellGet s1.mem ma).toNat + 256 * (cellGet s1.mem (ma + 1)).toNat +
        65536 * (cellGet s1.mem (ma + 2)).toNat + 16777216 * (cellGet s1.mem (ma + 3)).toNat))) ∧
    (scratchBase ≤ (s.th t).pc.toNat → s.fetch t = (s, .prot))

/-- The model's steps beside a pick: an entry of the agenda is performed before anything else, and only a cold reset acts once
a thermal shutdown has stopped the clocks (R440); with nothing to pick, a period of time passes. -/
def StepsBeside : Prop :=
  ∀ s : State,
    (∀ e r, s.agenda = e :: r → s.mons.stopped = false → ∀ s', exec e.toInstr { s with agenda := r } = .next s' →
      step s = .next s') ∧
    (∀ e r, s.agenda = e :: r → s.mons.stopped = true → (∀ m, e ≠ .coldReset m) → step s = .next { s with agenda := r }) ∧
    (s.agenda = [] → s.mons.stopped = true → step s = .fault .clocksStopped) ∧
    (s.agenda = [] → s.mons.stopped = false → s.pick = none → step s = .next s.tick)

/-- R77, R400: an illegal word traps the thread that meets it: cause 0x01, with the word as TRAPVAL. -/
def IllegalWords : Prop :=
  ∀ (s : State) (t : TRef) (w : Nat), s.group.refs = [t] → s.live t = true →
    exec (.illegalWord w) s = .next (s.trap t 0x01 (BitVec.ofNat 64 w))

/-- R39, R407: a launched thread's registers. -/
def FreshThreads : Prop :=
  ∀ (t : TRef) (entry sp slo vec : DWord),
    let x := freshThread t entry sp slo vec
    x.pc = entry ∧ x.sp = sp ∧ x.regionPc = entry ∧ x.scope = 0 ∧ x.stack = [] ∧ x.fpcsr = 0 ∧
      x.rngs = BitVec.ofNat 32 ((t.bun * 32 + t.lane) * 65537 + 1) ∧ x.feBudget = 64 ∧ x.trapCause = 0 ∧ x.trapPc = 0 ∧
      x.trapVal = 0 ∧ x.trapSave = none ∧ x.stores = [] ∧ x.pending = [] ∧
      (∀ k < 6, x.trapVec.getLsbD k = false) ∧ (∀ k, 6 ≤ k → x.trapVec.getLsbD k = vec.getLsbD k)

/-- R27, R31, R39, R41: a launched bundle's registers. -/
def FreshBundles : Prop :=
  ∀ (blk idx sub slot alloc : Nat),
    let b := freshBundle blk idx sub slot alloc
    b.alloc = alloc ∧ b.wbase = 0 ∧ b.viewT0 = 0 ∧ b.viewT1 = 0 ∧ b.viewAcc = 0 ∧ b.viewCk = 0 ∧ b.modq = 0 ∧ b.modqi = 0 ∧
      b.spm = false ∧ b.spmt = false ∧ b.rf.length = 32 ∧ ∀ r ∈ b.rf, r.length = alloc ∧ ∀ w ∈ r, w = 0

/-- The package after a cold reset: R39, R381, R321, R322, R317, R435; log entries 2, 4, 9 and 26 name what the model chose. -/
def ColdState : Prop :=
  MemoryWf State.reset ∧ (∀ a, cellGet State.reset.mem a = 0) ∧ State.reset.threads = [] ∧ State.reset.blocks = [] ∧
    State.reset.clk.a = 0 ∧ State.reset.clk.b = 0 ∧
    (State.reset.touched.length = 256 ∧ ∀ b ∈ State.reset.touched, b = BitVec.allOnes 1024) ∧
    State.reset.boot.booted = false ∧ (∀ m ∈ State.reset.boot.meas, m = 0) ∧
    State.reset.vds.map (fun v => (v.id, v.vstate)) = [(0, 2)] ∧
    (State.reset.owner.length = 256 ∧ ∀ o ∈ State.reset.owner, o.kind = 0) ∧
    (State.reset.parts.length = 16 ∧ ∀ p ∈ State.reset.parts, p.pstate = 0) ∧
    (State.reset.remap.length = 32 ∧ ∀ r ∈ State.reset.remap, r.assigned = false)

/-- Words that the spec writes out, with the instructions they encode. -/
noncomputable def workedWords : List (Nat × Instr) :=
  [(0x042860E0, .add 5 6 7), (0x8040AF13, .ldd 8 10 30 1 3), (0x48103B0A, .cvtE4m3F32 2 3 5 1 0), (0xF0022000, .fence 2 2),
   (0xF8000004, .nop), (0xDDFFFFFF, .br 1 1 8388607), (0xF0022008, .mwatch 34), (0x241891A3, .lui 3 37283),
   (0x0C183800, .addi 3 3 2048), (0x2C801040, .cmp 2 0 1 2 0), (0x1C387403, .shri 7 7 3), (0x28205503, .bfeS32 4 5 8 3),
   (0x380CC800, .aadd 3 3 2), (0x39C00002, .aget 0 2)] ++
  [(0x4000A81A, .mts 10 26), (0x44488005, .redadd 9 8), (0x34184007, .ballot 3 4), (0x601840A3, .div 3 4 5 1 1),
   (0x68202003, .mtom 4 2), (0x6840C006, .bflyc 8 12), (0xEC020500, .mma 32 40), (0xEC820502, .mspa 16 32 40),
   (0xEC02C50C, .put 44 40), (0x9430A0C0, .std 6 10 1 4), (0xC4C0A381, .atcas 24 10 28 0 1), (0xC8202002, .feldw 4 2 0 2)] ++
  [(0xD860A000, .feqry 12 10), (0xF0002083, .waitc 2 4), (0xF01A80E7, .bwaitt 3 40 7), (0xE0000002, .call 0 0 2),
   (0xE4808000, .jr 0 1 8), (0xF400A180, .spawn 10 12), (0xF8024680, .trap 36 52), (0xF8300005, .rdcyc 6),
   (0xF8007006, .rngseed 7)]

/-- Words that the spec names as illegal. -/
def illegalWords : List Nat :=
  [0x00000000, 0xFFFFFFFF, 0x0400001F, 0x8040AF63, 0xF002A000, 0x34000009, 0x1C387423, 0x7C202062, 0x9430A0C1, 0x9C50A0A2,
   0xC4C0A3A1, 0xF003B000, 0xD440A040, 0xC8202012, 0xCC30A041, 0xD040AF81]

end Sys2Proof.Claims

/-- R50, R77, R78, R437: a step performs the instruction that the word at the PC decodes to. The agenda, one pick a step and
the tick are the model's own (log entry 6), as is that the fetched word is the home's (log entry 3). -/
def Obligations.StepRunsDecoded : Prop :=
  Claims.StepsRun ∧ Claims.Fetches ∧ Claims.StepsBeside ∧ Claims.IllegalWords

/-- No instruction is refused or faults, from any state; a step stops only where R440 stops the clocks. -/
def Obligations.EveryStepGoesOn : Prop :=
  (∀ (i : Instr) (s : State), ∃ t, exec i s = .next t) ∧
    ∀ s : State, (∃ t, step s = .next t) ∨ (step s = .fault .clocksStopped ∧ s.mons.stopped = true ∧ s.agenda = [])

/-- R27, R39, R271: what a launched thread and its bundle hold, and what a cold reset leaves. That unlisted memory reads as
zero is the model's choice (log entry 2), as are the quad that is disabled (log entry 4) and KIND 0 of every machine block before boot (log entry 26). -/
def Obligations.ResetValues : Prop := Claims.FreshThreads ∧ Claims.FreshBundles ∧ Claims.ColdState

/-- Every step keeps the bytes of memory in canonical form. -/
def Obligations.StepKeepsMemory : Prop :=
  ∀ s s' : State, MemoryWf s → step s = .next s' → MemoryWf s'

/-- The spec's worked words decode to the instructions they encode, and the words it names as illegal to none (R71, R76, R77). -/
def Obligations.WorkedWords : Prop :=
  (∀ p ∈ Claims.workedWords, decode p.1 = .ok p.2) ∧ ∀ w ∈ Claims.illegalWords, ∃ e, decode w = .error e
end

