-- ==== Sys2Proof/Laws/State.lean ====
section
/-! SUPPORT. One lemma per field of the state for each of its elementary updates. -/

namespace Sys2Proof.Machine

/-! ## modTh -/

@[simp] theorem State.modTh_clk (s : State) (t : TRef) (f : Thread → Thread) : (s.modTh t f).clk = s.clk := rfl
@[simp] theorem State.modTh_agenda (s : State) (t : TRef) (f : Thread → Thread) : (s.modTh t f).agenda = s.agenda := rfl
@[simp] theorem State.modTh_cursor (s : State) (t : TRef) (f : Thread → Thread) : (s.modTh t f).cursor = s.cursor := rfl
@[simp] theorem State.modTh_group (s : State) (t : TRef) (f : Thread → Thread) : (s.modTh t f).group = s.group := rfl
@[simp] theorem State.modTh_seq (s : State) (t : TRef) (f : Thread → Thread) : (s.modTh t f).seq = s.seq := rfl
@[simp] theorem State.modTh_mem (s : State) (t : TRef) (f : Thread → Thread) : (s.modTh t f).mem = s.mem := rfl
@[simp] theorem State.modTh_empties (s : State) (t : TRef) (f : Thread → Thread) : (s.modTh t f).empties = s.empties := rfl
@[simp] theorem State.modTh_poison (s : State) (t : TRef) (f : Thread → Thread) : (s.modTh t f).poison = s.poison := rfl
@[simp] theorem State.modTh_l2bad (s : State) (t : TRef) (f : Thread → Thread) : (s.modTh t f).l2bad = s.l2bad := rfl
@[simp] theorem State.modTh_touched (s : State) (t : TRef) (f : Thread → Thread) : (s.modTh t f).touched = s.touched := rfl
@[simp] theorem State.modTh_cores (s : State) (t : TRef) (f : Thread → Thread) : (s.modTh t f).cores = s.cores := rfl
@[simp] theorem State.modTh_far (s : State) (t : TRef) (f : Thread → Thread) : (s.modTh t f).far = s.far := rfl
@[simp] theorem State.modTh_quayTlb (s : State) (t : TRef) (f : Thread → Thread) : (s.modTh t f).quayTlb = s.quayTlb := rfl
@[simp] theorem State.modTh_wbufs (s : State) (t : TRef) (f : Thread → Thread) : (s.modTh t f).wbufs = s.wbufs := rfl
@[simp] theorem State.modTh_slices (s : State) (t : TRef) (f : Thread → Thread) : (s.modTh t f).slices = s.slices := rfl
@[simp] theorem State.modTh_bundles (s : State) (t : TRef) (f : Thread → Thread) : (s.modTh t f).bundles = s.bundles := rfl
@[simp] theorem State.modTh_blocks (s : State) (t : TRef) (f : Thread → Thread) : (s.modTh t f).blocks = s.blocks := rfl
@[simp] theorem State.modTh_gangs (s : State) (t : TRef) (f : Thread → Thread) : (s.modTh t f).gangs = s.gangs := rfl
@[simp] theorem State.modTh_kernels (s : State) (t : TRef) (f : Thread → Thread) : (s.modTh t f).kernels = s.kernels := rfl
@[simp] theorem State.modTh_bars (s : State) (t : TRef) (f : Thread → Thread) : (s.modTh t f).bars = s.bars := rfl
@[simp] theorem State.modTh_cmds (s : State) (t : TRef) (f : Thread → Thread) : (s.modTh t f).cmds = s.cmds := rfl
@[simp] theorem State.modTh_shadows (s : State) (t : TRef) (f : Thread → Thread) : (s.modTh t f).shadows = s.shadows := rfl
@[simp] theorem State.modTh_feq (s : State) (t : TRef) (f : Thread → Thread) : (s.modTh t f).feq = s.feq := rfl
@[simp] theorem State.modTh_vds (s : State) (t : TRef) (f : Thread → Thread) : (s.modTh t f).vds = s.vds := rfl
@[simp] theorem State.modTh_parts (s : State) (t : TRef) (f : Thread → Thread) : (s.modTh t f).parts = s.parts := rfl
@[simp] theorem State.modTh_remap (s : State) (t : TRef) (f : Thread → Thread) : (s.modTh t f).remap = s.remap := rfl
@[simp] theorem State.modTh_owner (s : State) (t : TRef) (f : Thread → Thread) : (s.modTh t f).owner = s.owner := rfl
@[simp] theorem State.modTh_quads (s : State) (t : TRef) (f : Thread → Thread) : (s.modTh t f).quads = s.quads := rfl
@[simp] theorem State.modTh_ports (s : State) (t : TRef) (f : Thread → Thread) : (s.modTh t f).ports = s.ports := rfl
@[simp] theorem State.modTh_reqs (s : State) (t : TRef) (f : Thread → Thread) : (s.modTh t f).reqs = s.reqs := rfl
@[simp] theorem State.modTh_streams (s : State) (t : TRef) (f : Thread → Thread) : (s.modTh t f).streams = s.streams := rfl
@[simp] theorem State.modTh_hdm (s : State) (t : TRef) (f : Thread → Thread) : (s.modTh t f).hdm = s.hdm := rfl
@[simp] theorem State.modTh_scrub (s : State) (t : TRef) (f : Thread → Thread) : (s.modTh t f).scrub = s.scrub := rfl
@[simp] theorem State.modTh_ecc (s : State) (t : TRef) (f : Thread → Thread) : (s.modTh t f).ecc = s.ecc := rfl
@[simp] theorem State.modTh_engs (s : State) (t : TRef) (f : Thread → Thread) : (s.modTh t f).engs = s.engs := rfl
@[simp] theorem State.modTh_moves (s : State) (t : TRef) (f : Thread → Thread) : (s.modTh t f).moves = s.moves := rfl
@[simp] theorem State.modTh_boot (s : State) (t : TRef) (f : Thread → Thread) : (s.modTh t f).boot = s.boot := rfl
@[simp] theorem State.modTh_mons (s : State) (t : TRef) (f : Thread → Thread) : (s.modTh t f).mons = s.mons := rfl
@[simp] theorem State.modTh_mailboxes (s : State) (t : TRef) (f : Thread → Thread) : (s.modTh t f).mailboxes = s.mailboxes := rfl
@[simp] theorem State.modTh_out (s : State) (t : TRef) (f : Thread → Thread) : (s.modTh t f).out = s.out := rfl
@[simp] theorem State.modTh_held (s : State) (t : TRef) (f : Thread → Thread) : (s.modTh t f).held = s.held := rfl
@[simp] theorem State.modTh_posts (s : State) (t : TRef) (f : Thread → Thread) : (s.modTh t f).posts = s.posts := rfl
@[simp] theorem State.modTh_ringLast (s : State) (t : TRef) (f : Thread → Thread) : (s.modTh t f).ringLast = s.ringLast := rfl
@[simp] theorem State.modTh_deadSeals (s : State) (t : TRef) (f : Thread → Thread) : (s.modTh t f).deadSeals = s.deadSeals := rfl
@[simp] theorem State.modTh_issued (s : State) (t : TRef) (f : Thread → Thread) : (s.modTh t f).issued = s.issued := rfl
@[simp] theorem State.modTh_parting (s : State) (t : TRef) (f : Thread → Thread) : (s.modTh t f).parting = s.parting := rfl
@[simp] theorem State.modTh_retiring (s : State) (t : TRef) (f : Thread → Thread) : (s.modTh t f).retiring = s.retiring := rfl
@[simp] theorem State.modTh_compared (s : State) (t : TRef) (f : Thread → Thread) : (s.modTh t f).compared = s.compared := rfl

/-! ## modBu -/

@[simp] theorem State.modBu_clk (s : State) (blk idx : Nat) (f : Bundle → Bundle) : (s.modBu blk idx f).clk = s.clk := rfl
@[simp] theorem State.modBu_agenda (s : State) (blk idx : Nat) (f : Bundle → Bundle) : (s.modBu blk idx f).agenda = s.agenda := rfl
@[simp] theorem State.modBu_cursor (s : State) (blk idx : Nat) (f : Bundle → Bundle) : (s.modBu blk idx f).cursor = s.cursor := rfl
@[simp] theorem State.modBu_group (s : State) (blk idx : Nat) (f : Bundle → Bundle) : (s.modBu blk idx f).group = s.group := rfl
@[simp] theorem State.modBu_seq (s : State) (blk idx : Nat) (f : Bundle → Bundle) : (s.modBu blk idx f).seq = s.seq := rfl
@[simp] theorem State.modBu_mem (s : State) (blk idx : Nat) (f : Bundle → Bundle) : (s.modBu blk idx f).mem = s.mem := rfl
@[simp] theorem State.modBu_empties (s : State) (blk idx : Nat) (f : Bundle → Bundle) : (s.modBu blk idx f).empties = s.empties := rfl
@[simp] theorem State.modBu_poison (s : State) (blk idx : Nat) (f : Bundle → Bundle) : (s.modBu blk idx f).poison = s.poison := rfl
@[simp] theorem State.modBu_l2bad (s : State) (blk idx : Nat) (f : Bundle → Bundle) : (s.modBu blk idx f).l2bad = s.l2bad := rfl
@[simp] theorem State.modBu_touched (s : State) (blk idx : Nat) (f : Bundle → Bundle) : (s.modBu blk idx f).touched = s.touched := rfl
@[simp] theorem State.modBu_cores (s : State) (blk idx : Nat) (f : Bundle → Bundle) : (s.modBu blk idx f).cores = s.cores := rfl
@[simp] theorem State.modBu_far (s : State) (blk idx : Nat) (f : Bundle → Bundle) : (s.modBu blk idx f).far = s.far := rfl
@[simp] theorem State.modBu_quayTlb (s : State) (blk idx : Nat) (f : Bundle → Bundle) : (s.modBu blk idx f).quayTlb = s.quayTlb := rfl
@[simp] theorem State.modBu_wbufs (s : State) (blk idx : Nat) (f : Bundle → Bundle) : (s.modBu blk idx f).wbufs = s.wbufs := rfl
@[simp] theorem State.modBu_slices (s : State) (blk idx : Nat) (f : Bundle → Bundle) : (s.modBu blk idx f).slices = s.slices := rfl
@[simp] theorem State.modBu_threads (s : State) (blk idx : Nat) (f : Bundle → Bundle) : (s.modBu blk idx f).threads = s.threads := rfl
@[simp] theorem State.modBu_blocks (s : State) (blk idx : Nat) (f : Bundle → Bundle) : (s.modBu blk idx f).blocks = s.blocks := rfl
@[simp] theorem State.modBu_gangs (s : State) (blk idx : Nat) (f : Bundle → Bundle) : (s.modBu blk idx f).gangs = s.gangs := rfl
@[simp] theorem State.modBu_kernels (s : State) (blk idx : Nat) (f : Bundle → Bundle) : (s.modBu blk idx f).kernels = s.kernels := rfl
@[simp] theorem State.modBu_bars (s : State) (blk idx : Nat) (f : Bundle → Bundle) : (s.modBu blk idx f).bars = s.bars := rfl
@[simp] theorem State.modBu_cmds (s : State) (blk idx : Nat) (f : Bundle → Bundle) : (s.modBu blk idx f).cmds = s.cmds := rfl
@[simp] theorem State.modBu_shadows (s : State) (blk idx : Nat) (f : Bundle → Bundle) : (s.modBu blk idx f).shadows = s.shadows := rfl
@[simp] theorem State.modBu_feq (s : State) (blk idx : Nat) (f : Bundle → Bundle) : (s.modBu blk idx f).feq = s.feq := rfl
@[simp] theorem State.modBu_vds (s : State) (blk idx : Nat) (f : Bundle → Bundle) : (s.modBu blk idx f).vds = s.vds := rfl
@[simp] theorem State.modBu_parts (s : State) (blk idx : Nat) (f : Bundle → Bundle) : (s.modBu blk idx f).parts = s.parts := rfl
@[simp] theorem State.modBu_remap (s : State) (blk idx : Nat) (f : Bundle → Bundle) : (s.modBu blk idx f).remap = s.remap := rfl
@[simp] theorem State.modBu_owner (s : State) (blk idx : Nat) (f : Bundle → Bundle) : (s.modBu blk idx f).owner = s.owner := rfl
@[simp] theorem State.modBu_quads (s : State) (blk idx : Nat) (f : Bundle → Bundle) : (s.modBu blk idx f).quads = s.quads := rfl
@[simp] theorem State.modBu_ports (s : State) (blk idx : Nat) (f : Bundle → Bundle) : (s.modBu blk idx f).ports = s.ports := rfl
@[simp] theorem State.modBu_reqs (s : State) (blk idx : Nat) (f : Bundle → Bundle) : (s.modBu blk idx f).reqs = s.reqs := rfl
@[simp] theorem State.modBu_streams (s : State) (blk idx : Nat) (f : Bundle → Bundle) : (s.modBu blk idx f).streams = s.streams := rfl
@[simp] theorem State.modBu_hdm (s : State) (blk idx : Nat) (f : Bundle → Bundle) : (s.modBu blk idx f).hdm = s.hdm := rfl
@[simp] theorem State.modBu_scrub (s : State) (blk idx : Nat) (f : Bundle → Bundle) : (s.modBu blk idx f).scrub = s.scrub := rfl
@[simp] theorem State.modBu_ecc (s : State) (blk idx : Nat) (f : Bundle → Bundle) : (s.modBu blk idx f).ecc = s.ecc := rfl
@[simp] theorem State.modBu_engs (s : State) (blk idx : Nat) (f : Bundle → Bundle) : (s.modBu blk idx f).engs = s.engs := rfl
@[simp] theorem State.modBu_moves (s : State) (blk idx : Nat) (f : Bundle → Bundle) : (s.modBu blk idx f).moves = s.moves := rfl
@[simp] theorem State.modBu_boot (s : State) (blk idx : Nat) (f : Bundle → Bundle) : (s.modBu blk idx f).boot = s.boot := rfl
@[simp] theorem State.modBu_mons (s : State) (blk idx : Nat) (f : Bundle → Bundle) : (s.modBu blk idx f).mons = s.mons := rfl
@[simp] theorem State.modBu_mailboxes (s : State) (blk idx : Nat) (f : Bundle → Bundle) : (s.modBu blk idx f).mailboxes = s.mailboxes := rfl
@[simp] theorem State.modBu_out (s : State) (blk idx : Nat) (f : Bundle → Bundle) : (s.modBu blk idx f).out = s.out := rfl
@[simp] theorem State.modBu_held (s : State) (blk idx : Nat) (f : Bundle → Bundle) : (s.modBu blk idx f).held = s.held := rfl
@[simp] theorem State.modBu_posts (s : State) (blk idx : Nat) (f : Bundle → Bundle) : (s.modBu blk idx f).posts = s.posts := rfl
@[simp] theorem State.modBu_ringLast (s : State) (blk idx : Nat) (f : Bundle → Bundle) : (s.modBu blk idx f).ringLast = s.ringLast := rfl
@[simp] theorem State.modBu_deadSeals (s : State) (blk idx : Nat) (f : Bundle → Bundle) : (s.modBu blk idx f).deadSeals = s.deadSeals := rfl
@[simp] theorem State.modBu_issued (s : State) (blk idx : Nat) (f : Bundle → Bundle) : (s.modBu blk idx f).issued = s.issued := rfl
@[simp] theorem State.modBu_parting (s : State) (blk idx : Nat) (f : Bundle → Bundle) : (s.modBu blk idx f).parting = s.parting := rfl
@[simp] theorem State.modBu_retiring (s : State) (blk idx : Nat) (f : Bundle → Bundle) : (s.modBu blk idx f).retiring = s.retiring := rfl
@[simp] theorem State.modBu_compared (s : State) (blk idx : Nat) (f : Bundle → Bundle) : (s.modBu blk idx f).compared = s.compared := rfl

/-! ## modBk -/

@[simp] theorem State.modBk_clk (s : State) (id : Nat) (f : Block → Block) : (s.modBk id f).clk = s.clk := rfl
@[simp] theorem State.modBk_agenda (s : State) (id : Nat) (f : Block → Block) : (s.modBk id f).agenda = s.agenda := rfl
@[simp] theorem State.modBk_cursor (s : State) (id : Nat) (f : Block → Block) : (s.modBk id f).cursor = s.cursor := rfl
@[simp] theorem State.modBk_group (s : State) (id : Nat) (f : Block → Block) : (s.modBk id f).group = s.group := rfl
@[simp] theorem State.modBk_seq (s : State) (id : Nat) (f : Block → Block) : (s.modBk id f).seq = s.seq := rfl
@[simp] theorem State.modBk_mem (s : State) (id : Nat) (f : Block → Block) : (s.modBk id f).mem = s.mem := rfl
@[simp] theorem State.modBk_empties (s : State) (id : Nat) (f : Block → Block) : (s.modBk id f).empties = s.empties := rfl
@[simp] theorem State.modBk_poison (s : State) (id : Nat) (f : Block → Block) : (s.modBk id f).poison = s.poison := rfl
@[simp] theorem State.modBk_l2bad (s : State) (id : Nat) (f : Block → Block) : (s.modBk id f).l2bad = s.l2bad := rfl
@[simp] theorem State.modBk_touched (s : State) (id : Nat) (f : Block → Block) : (s.modBk id f).touched = s.touched := rfl
@[simp] theorem State.modBk_cores (s : State) (id : Nat) (f : Block → Block) : (s.modBk id f).cores = s.cores := rfl
@[simp] theorem State.modBk_far (s : State) (id : Nat) (f : Block → Block) : (s.modBk id f).far = s.far := rfl
@[simp] theorem State.modBk_quayTlb (s : State) (id : Nat) (f : Block → Block) : (s.modBk id f).quayTlb = s.quayTlb := rfl
@[simp] theorem State.modBk_wbufs (s : State) (id : Nat) (f : Block → Block) : (s.modBk id f).wbufs = s.wbufs := rfl
@[simp] theorem State.modBk_slices (s : State) (id : Nat) (f : Block → Block) : (s.modBk id f).slices = s.slices := rfl
@[simp] theorem State.modBk_threads (s : State) (id : Nat) (f : Block → Block) : (s.modBk id f).threads = s.threads := rfl
@[simp] theorem State.modBk_bundles (s : State) (id : Nat) (f : Block → Block) : (s.modBk id f).bundles = s.bundles := rfl
@[simp] theorem State.modBk_gangs (s : State) (id : Nat) (f : Block → Block) : (s.modBk id f).gangs = s.gangs := rfl
@[simp] theorem State.modBk_kernels (s : State) (id : Nat) (f : Block → Block) : (s.modBk id f).kernels = s.kernels := rfl
@[simp] theorem State.modBk_bars (s : State) (id : Nat) (f : Block → Block) : (s.modBk id f).bars = s.bars := rfl
@[simp] theorem State.modBk_cmds (s : State) (id : Nat) (f : Block → Block) : (s.modBk id f).cmds = s.cmds := rfl
@[simp] theorem State.modBk_shadows (s : State) (id : Nat) (f : Block → Block) : (s.modBk id f).shadows = s.shadows := rfl
@[simp] theorem State.modBk_feq (s : State) (id : Nat) (f : Block → Block) : (s.modBk id f).feq = s.feq := rfl
@[simp] theorem State.modBk_vds (s : State) (id : Nat) (f : Block → Block) : (s.modBk id f).vds = s.vds := rfl
@[simp] theorem State.modBk_parts (s : State) (id : Nat) (f : Block → Block) : (s.modBk id f).parts = s.parts := rfl
@[simp] theorem State.modBk_remap (s : State) (id : Nat) (f : Block → Block) : (s.modBk id f).remap = s.remap := rfl
@[simp] theorem State.modBk_owner (s : State) (id : Nat) (f : Block → Block) : (s.modBk id f).owner = s.owner := rfl
@[simp] theorem State.modBk_quads (s : State) (id : Nat) (f : Block → Block) : (s.modBk id f).quads = s.quads := rfl
@[simp] theorem State.modBk_ports (s : State) (id : Nat) (f : Block → Block) : (s.modBk id f).ports = s.ports := rfl
@[simp] theorem State.modBk_reqs (s : State) (id : Nat) (f : Block → Block) : (s.modBk id f).reqs = s.reqs := rfl
@[simp] theorem State.modBk_streams (s : State) (id : Nat) (f : Block → Block) : (s.modBk id f).streams = s.streams := rfl
@[simp] theorem State.modBk_hdm (s : State) (id : Nat) (f : Block → Block) : (s.modBk id f).hdm = s.hdm := rfl
@[simp] theorem State.modBk_scrub (s : State) (id : Nat) (f : Block → Block) : (s.modBk id f).scrub = s.scrub := rfl
@[simp] theorem State.modBk_ecc (s : State) (id : Nat) (f : Block → Block) : (s.modBk id f).ecc = s.ecc := rfl
@[simp] theorem State.modBk_engs (s : State) (id : Nat) (f : Block → Block) : (s.modBk id f).engs = s.engs := rfl
@[simp] theorem State.modBk_moves (s : State) (id : Nat) (f : Block → Block) : (s.modBk id f).moves = s.moves := rfl
@[simp] theorem State.modBk_boot (s : State) (id : Nat) (f : Block → Block) : (s.modBk id f).boot = s.boot := rfl
@[simp] theorem State.modBk_mons (s : State) (id : Nat) (f : Block → Block) : (s.modBk id f).mons = s.mons := rfl
@[simp] theorem State.modBk_mailboxes (s : State) (id : Nat) (f : Block → Block) : (s.modBk id f).mailboxes = s.mailboxes := rfl
@[simp] theorem State.modBk_out (s : State) (id : Nat) (f : Block → Block) : (s.modBk id f).out = s.out := rfl
@[simp] theorem State.modBk_held (s : State) (id : Nat) (f : Block → Block) : (s.modBk id f).held = s.held := rfl
@[simp] theorem State.modBk_posts (s : State) (id : Nat) (f : Block → Block) : (s.modBk id f).posts = s.posts := rfl
@[simp] theorem State.modBk_ringLast (s : State) (id : Nat) (f : Block → Block) : (s.modBk id f).ringLast = s.ringLast := rfl
@[simp] theorem State.modBk_deadSeals (s : State) (id : Nat) (f : Block → Block) : (s.modBk id f).deadSeals = s.deadSeals := rfl
@[simp] theorem State.modBk_issued (s : State) (id : Nat) (f : Block → Block) : (s.modBk id f).issued = s.issued := rfl
@[simp] theorem State.modBk_parting (s : State) (id : Nat) (f : Block → Block) : (s.modBk id f).parting = s.parting := rfl
@[simp] theorem State.modBk_retiring (s : State) (id : Nat) (f : Block → Block) : (s.modBk id f).retiring = s.retiring := rfl
@[simp] theorem State.modBk_compared (s : State) (id : Nat) (f : Block → Block) : (s.modBk id f).compared = s.compared := rfl

/-! ## modGa -/

@[simp] theorem State.modGa_clk (s : State) (id : Nat) (f : Gang → Gang) : (s.modGa id f).clk = s.clk := rfl
@[simp] theorem State.modGa_agenda (s : State) (id : Nat) (f : Gang → Gang) : (s.modGa id f).agenda = s.agenda := rfl
@[simp] theorem State.modGa_cursor (s : State) (id : Nat) (f : Gang → Gang) : (s.modGa id f).cursor = s.cursor := rfl
@[simp] theorem State.modGa_group (s : State) (id : Nat) (f : Gang → Gang) : (s.modGa id f).group = s.group := rfl
@[simp] theorem State.modGa_seq (s : State) (id : Nat) (f : Gang → Gang) : (s.modGa id f).seq = s.seq := rfl
@[simp] theorem State.modGa_mem (s : State) (id : Nat) (f : Gang → Gang) : (s.modGa id f).mem = s.mem := rfl
@[simp] theorem State.modGa_empties (s : State) (id : Nat) (f : Gang → Gang) : (s.modGa id f).empties = s.empties := rfl
@[simp] theorem State.modGa_poison (s : State) (id : Nat) (f : Gang → Gang) : (s.modGa id f).poison = s.poison := rfl
@[simp] theorem State.modGa_l2bad (s : State) (id : Nat) (f : Gang → Gang) : (s.modGa id f).l2bad = s.l2bad := rfl
@[simp] theorem State.modGa_touched (s : State) (id : Nat) (f : Gang → Gang) : (s.modGa id f).touched = s.touched := rfl
@[simp] theorem State.modGa_cores (s : State) (id : Nat) (f : Gang → Gang) : (s.modGa id f).cores = s.cores := rfl
@[simp] theorem State.modGa_far (s : State) (id : Nat) (f : Gang → Gang) : (s.modGa id f).far = s.far := rfl
@[simp] theorem State.modGa_quayTlb (s : State) (id : Nat) (f : Gang → Gang) : (s.modGa id f).quayTlb = s.quayTlb := rfl
@[simp] theorem State.modGa_wbufs (s : State) (id : Nat) (f : Gang → Gang) : (s.modGa id f).wbufs = s.wbufs := rfl
@[simp] theorem State.modGa_slices (s : State) (id : Nat) (f : Gang → Gang) : (s.modGa id f).slices = s.slices := rfl
@[simp] theorem State.modGa_threads (s : State) (id : Nat) (f : Gang → Gang) : (s.modGa id f).threads = s.threads := rfl
@[simp] theorem State.modGa_bundles (s : State) (id : Nat) (f : Gang → Gang) : (s.modGa id f).bundles = s.bundles := rfl
@[simp] theorem State.modGa_blocks (s : State) (id : Nat) (f : Gang → Gang) : (s.modGa id f).blocks = s.blocks := rfl
@[simp] theorem State.modGa_kernels (s : State) (id : Nat) (f : Gang → Gang) : (s.modGa id f).kernels = s.kernels := rfl
@[simp] theorem State.modGa_bars (s : State) (id : Nat) (f : Gang → Gang) : (s.modGa id f).bars = s.bars := rfl
@[simp] theorem State.modGa_cmds (s : State) (id : Nat) (f : Gang → Gang) : (s.modGa id f).cmds = s.cmds := rfl
@[simp] theorem State.modGa_shadows (s : State) (id : Nat) (f : Gang → Gang) : (s.modGa id f).shadows = s.shadows := rfl
@[simp] theorem State.modGa_feq (s : State) (id : Nat) (f : Gang → Gang) : (s.modGa id f).feq = s.feq := rfl
@[simp] theorem State.modGa_vds (s : State) (id : Nat) (f : Gang → Gang) : (s.modGa id f).vds = s.vds := rfl
@[simp] theorem State.modGa_parts (s : State) (id : Nat) (f : Gang → Gang) : (s.modGa id f).parts = s.parts := rfl
@[simp] theorem State.modGa_remap (s : State) (id : Nat) (f : Gang → Gang) : (s.modGa id f).remap = s.remap := rfl
@[simp] theorem State.modGa_owner (s : State) (id : Nat) (f : Gang → Gang) : (s.modGa id f).owner = s.owner := rfl
@[simp] theorem State.modGa_quads (s : State) (id : Nat) (f : Gang → Gang) : (s.modGa id f).quads = s.quads := rfl
@[simp] theorem State.modGa_ports (s : State) (id : Nat) (f : Gang → Gang) : (s.modGa id f).ports = s.ports := rfl
@[simp] theorem State.modGa_reqs (s : State) (id : Nat) (f : Gang → Gang) : (s.modGa id f).reqs = s.reqs := rfl
@[simp] theorem State.modGa_streams (s : State) (id : Nat) (f : Gang → Gang) : (s.modGa id f).streams = s.streams := rfl
@[simp] theorem State.modGa_hdm (s : State) (id : Nat) (f : Gang → Gang) : (s.modGa id f).hdm = s.hdm := rfl
@[simp] theorem State.modGa_scrub (s : State) (id : Nat) (f : Gang → Gang) : (s.modGa id f).scrub = s.scrub := rfl
@[simp] theorem State.modGa_ecc (s : State) (id : Nat) (f : Gang → Gang) : (s.modGa id f).ecc = s.ecc := rfl
@[simp] theorem State.modGa_engs (s : State) (id : Nat) (f : Gang → Gang) : (s.modGa id f).engs = s.engs := rfl
@[simp] theorem State.modGa_moves (s : State) (id : Nat) (f : Gang → Gang) : (s.modGa id f).moves = s.moves := rfl
@[simp] theorem State.modGa_boot (s : State) (id : Nat) (f : Gang → Gang) : (s.modGa id f).boot = s.boot := rfl
@[simp] theorem State.modGa_mons (s : State) (id : Nat) (f : Gang → Gang) : (s.modGa id f).mons = s.mons := rfl
@[simp] theorem State.modGa_mailboxes (s : State) (id : Nat) (f : Gang → Gang) : (s.modGa id f).mailboxes = s.mailboxes := rfl
@[simp] theorem State.modGa_out (s : State) (id : Nat) (f : Gang → Gang) : (s.modGa id f).out = s.out := rfl
@[simp] theorem State.modGa_held (s : State) (id : Nat) (f : Gang → Gang) : (s.modGa id f).held = s.held := rfl
@[simp] theorem State.modGa_posts (s : State) (id : Nat) (f : Gang → Gang) : (s.modGa id f).posts = s.posts := rfl
@[simp] theorem State.modGa_ringLast (s : State) (id : Nat) (f : Gang → Gang) : (s.modGa id f).ringLast = s.ringLast := rfl
@[simp] theorem State.modGa_deadSeals (s : State) (id : Nat) (f : Gang → Gang) : (s.modGa id f).deadSeals = s.deadSeals := rfl
@[simp] theorem State.modGa_issued (s : State) (id : Nat) (f : Gang → Gang) : (s.modGa id f).issued = s.issued := rfl
@[simp] theorem State.modGa_parting (s : State) (id : Nat) (f : Gang → Gang) : (s.modGa id f).parting = s.parting := rfl
@[simp] theorem State.modGa_retiring (s : State) (id : Nat) (f : Gang → Gang) : (s.modGa id f).retiring = s.retiring := rfl
@[simp] theorem State.modGa_compared (s : State) (id : Nat) (f : Gang → Gang) : (s.modGa id f).compared = s.compared := rfl

/-! ## modKe -/

@[simp] theorem State.modKe_clk (s : State) (id : Nat) (f : Kernel → Kernel) : (s.modKe id f).clk = s.clk := rfl
@[simp] theorem State.modKe_agenda (s : State) (id : Nat) (f : Kernel → Kernel) : (s.modKe id f).agenda = s.agenda := rfl
@[simp] theorem State.modKe_cursor (s : State) (id : Nat) (f : Kernel → Kernel) : (s.modKe id f).cursor = s.cursor := rfl
@[simp] theorem State.modKe_group (s : State) (id : Nat) (f : Kernel → Kernel) : (s.modKe id f).group = s.group := rfl
@[simp] theorem State.modKe_seq (s : State) (id : Nat) (f : Kernel → Kernel) : (s.modKe id f).seq = s.seq := rfl
@[simp] theorem State.modKe_mem (s : State) (id : Nat) (f : Kernel → Kernel) : (s.modKe id f).mem = s.mem := rfl
@[simp] theorem State.modKe_empties (s : State) (id : Nat) (f : Kernel → Kernel) : (s.modKe id f).empties = s.empties := rfl
@[simp] theorem State.modKe_poison (s : State) (id : Nat) (f : Kernel → Kernel) : (s.modKe id f).poison = s.poison := rfl
@[simp] theorem State.modKe_l2bad (s : State) (id : Nat) (f : Kernel → Kernel) : (s.modKe id f).l2bad = s.l2bad := rfl
@[simp] theorem State.modKe_touched (s : State) (id : Nat) (f : Kernel → Kernel) : (s.modKe id f).touched = s.touched := rfl
@[simp] theorem State.modKe_cores (s : State) (id : Nat) (f : Kernel → Kernel) : (s.modKe id f).cores = s.cores := rfl
@[simp] theorem State.modKe_far (s : State) (id : Nat) (f : Kernel → Kernel) : (s.modKe id f).far = s.far := rfl
@[simp] theorem State.modKe_quayTlb (s : State) (id : Nat) (f : Kernel → Kernel) : (s.modKe id f).quayTlb = s.quayTlb := rfl
@[simp] theorem State.modKe_wbufs (s : State) (id : Nat) (f : Kernel → Kernel) : (s.modKe id f).wbufs = s.wbufs := rfl
@[simp] theorem State.modKe_slices (s : State) (id : Nat) (f : Kernel → Kernel) : (s.modKe id f).slices = s.slices := rfl
@[simp] theorem State.modKe_threads (s : State) (id : Nat) (f : Kernel → Kernel) : (s.modKe id f).threads = s.threads := rfl
@[simp] theorem State.modKe_bundles (s : State) (id : Nat) (f : Kernel → Kernel) : (s.modKe id f).bundles = s.bundles := rfl
@[simp] theorem State.modKe_blocks (s : State) (id : Nat) (f : Kernel → Kernel) : (s.modKe id f).blocks = s.blocks := rfl
@[simp] theorem State.modKe_gangs (s : State) (id : Nat) (f : Kernel → Kernel) : (s.modKe id f).gangs = s.gangs := rfl
@[simp] theorem State.modKe_bars (s : State) (id : Nat) (f : Kernel → Kernel) : (s.modKe id f).bars = s.bars := rfl
@[simp] theorem State.modKe_cmds (s : State) (id : Nat) (f : Kernel → Kernel) : (s.modKe id f).cmds = s.cmds := rfl
@[simp] theorem State.modKe_shadows (s : State) (id : Nat) (f : Kernel → Kernel) : (s.modKe id f).shadows = s.shadows := rfl
@[simp] theorem State.modKe_feq (s : State) (id : Nat) (f : Kernel → Kernel) : (s.modKe id f).feq = s.feq := rfl
@[simp] theorem State.modKe_vds (s : State) (id : Nat) (f : Kernel → Kernel) : (s.modKe id f).vds = s.vds := rfl
@[simp] theorem State.modKe_parts (s : State) (id : Nat) (f : Kernel → Kernel) : (s.modKe id f).parts = s.parts := rfl
@[simp] theorem State.modKe_remap (s : State) (id : Nat) (f : Kernel → Kernel) : (s.modKe id f).remap = s.remap := rfl
@[simp] theorem State.modKe_owner (s : State) (id : Nat) (f : Kernel → Kernel) : (s.modKe id f).owner = s.owner := rfl
@[simp] theorem State.modKe_quads (s : State) (id : Nat) (f : Kernel → Kernel) : (s.modKe id f).quads = s.quads := rfl
@[simp] theorem State.modKe_ports (s : State) (id : Nat) (f : Kernel → Kernel) : (s.modKe id f).ports = s.ports := rfl
@[simp] theorem State.modKe_reqs (s : State) (id : Nat) (f : Kernel → Kernel) : (s.modKe id f).reqs = s.reqs := rfl
@[simp] theorem State.modKe_streams (s : State) (id : Nat) (f : Kernel → Kernel) : (s.modKe id f).streams = s.streams := rfl
@[simp] theorem State.modKe_hdm (s : State) (id : Nat) (f : Kernel → Kernel) : (s.modKe id f).hdm = s.hdm := rfl
@[simp] theorem State.modKe_scrub (s : State) (id : Nat) (f : Kernel → Kernel) : (s.modKe id f).scrub = s.scrub := rfl
@[simp] theorem State.modKe_ecc (s : State) (id : Nat) (f : Kernel → Kernel) : (s.modKe id f).ecc = s.ecc := rfl
@[simp] theorem State.modKe_engs (s : State) (id : Nat) (f : Kernel → Kernel) : (s.modKe id f).engs = s.engs := rfl
@[simp] theorem State.modKe_moves (s : State) (id : Nat) (f : Kernel → Kernel) : (s.modKe id f).moves = s.moves := rfl
@[simp] theorem State.modKe_boot (s : State) (id : Nat) (f : Kernel → Kernel) : (s.modKe id f).boot = s.boot := rfl
@[simp] theorem State.modKe_mons (s : State) (id : Nat) (f : Kernel → Kernel) : (s.modKe id f).mons = s.mons := rfl
@[simp] theorem State.modKe_mailboxes (s : State) (id : Nat) (f : Kernel → Kernel) : (s.modKe id f).mailboxes = s.mailboxes := rfl
@[simp] theorem State.modKe_out (s : State) (id : Nat) (f : Kernel → Kernel) : (s.modKe id f).out = s.out := rfl
@[simp] theorem State.modKe_held (s : State) (id : Nat) (f : Kernel → Kernel) : (s.modKe id f).held = s.held := rfl
@[simp] theorem State.modKe_posts (s : State) (id : Nat) (f : Kernel → Kernel) : (s.modKe id f).posts = s.posts := rfl
@[simp] theorem State.modKe_ringLast (s : State) (id : Nat) (f : Kernel → Kernel) : (s.modKe id f).ringLast = s.ringLast := rfl
@[simp] theorem State.modKe_deadSeals (s : State) (id : Nat) (f : Kernel → Kernel) : (s.modKe id f).deadSeals = s.deadSeals := rfl
@[simp] theorem State.modKe_issued (s : State) (id : Nat) (f : Kernel → Kernel) : (s.modKe id f).issued = s.issued := rfl
@[simp] theorem State.modKe_parting (s : State) (id : Nat) (f : Kernel → Kernel) : (s.modKe id f).parting = s.parting := rfl
@[simp] theorem State.modKe_retiring (s : State) (id : Nat) (f : Kernel → Kernel) : (s.modKe id f).retiring = s.retiring := rfl
@[simp] theorem State.modKe_compared (s : State) (id : Nat) (f : Kernel → Kernel) : (s.modKe id f).compared = s.compared := rfl

/-! ## modCo -/

@[simp] theorem State.modCo_clk (s : State) (c : Nat) (f : Core → Core) : (s.modCo c f).clk = s.clk := rfl
@[simp] theorem State.modCo_agenda (s : State) (c : Nat) (f : Core → Core) : (s.modCo c f).agenda = s.agenda := rfl
@[simp] theorem State.modCo_cursor (s : State) (c : Nat) (f : Core → Core) : (s.modCo c f).cursor = s.cursor := rfl
@[simp] theorem State.modCo_group (s : State) (c : Nat) (f : Core → Core) : (s.modCo c f).group = s.group := rfl
@[simp] theorem State.modCo_seq (s : State) (c : Nat) (f : Core → Core) : (s.modCo c f).seq = s.seq := rfl
@[simp] theorem State.modCo_mem (s : State) (c : Nat) (f : Core → Core) : (s.modCo c f).mem = s.mem := rfl
@[simp] theorem State.modCo_empties (s : State) (c : Nat) (f : Core → Core) : (s.modCo c f).empties = s.empties := rfl
@[simp] theorem State.modCo_poison (s : State) (c : Nat) (f : Core → Core) : (s.modCo c f).poison = s.poison := rfl
@[simp] theorem State.modCo_l2bad (s : State) (c : Nat) (f : Core → Core) : (s.modCo c f).l2bad = s.l2bad := rfl
@[simp] theorem State.modCo_touched (s : State) (c : Nat) (f : Core → Core) : (s.modCo c f).touched = s.touched := rfl
@[simp] theorem State.modCo_far (s : State) (c : Nat) (f : Core → Core) : (s.modCo c f).far = s.far := rfl
@[simp] theorem State.modCo_quayTlb (s : State) (c : Nat) (f : Core → Core) : (s.modCo c f).quayTlb = s.quayTlb := rfl
@[simp] theorem State.modCo_wbufs (s : State) (c : Nat) (f : Core → Core) : (s.modCo c f).wbufs = s.wbufs := rfl
@[simp] theorem State.modCo_slices (s : State) (c : Nat) (f : Core → Core) : (s.modCo c f).slices = s.slices := rfl
@[simp] theorem State.modCo_threads (s : State) (c : Nat) (f : Core → Core) : (s.modCo c f).threads = s.threads := rfl
@[simp] theorem State.modCo_bundles (s : State) (c : Nat) (f : Core → Core) : (s.modCo c f).bundles = s.bundles := rfl
@[simp] theorem State.modCo_blocks (s : State) (c : Nat) (f : Core → Core) : (s.modCo c f).blocks = s.blocks := rfl
@[simp] theorem State.modCo_gangs (s : State) (c : Nat) (f : Core → Core) : (s.modCo c f).gangs = s.gangs := rfl
@[simp] theorem State.modCo_kernels (s : State) (c : Nat) (f : Core → Core) : (s.modCo c f).kernels = s.kernels := rfl
@[simp] theorem State.modCo_bars (s : State) (c : Nat) (f : Core → Core) : (s.modCo c f).bars = s.bars := rfl
@[simp] theorem State.modCo_cmds (s : State) (c : Nat) (f : Core → Core) : (s.modCo c f).cmds = s.cmds := rfl
@[simp] theorem State.modCo_shadows (s : State) (c : Nat) (f : Core → Core) : (s.modCo c f).shadows = s.shadows := rfl
@[simp] theorem State.modCo_feq (s : State) (c : Nat) (f : Core → Core) : (s.modCo c f).feq = s.feq := rfl
@[simp] theorem State.modCo_vds (s : State) (c : Nat) (f : Core → Core) : (s.modCo c f).vds = s.vds := rfl
@[simp] theorem State.modCo_parts (s : State) (c : Nat) (f : Core → Core) : (s.modCo c f).parts = s.parts := rfl
@[simp] theorem State.modCo_remap (s : State) (c : Nat) (f : Core → Core) : (s.modCo c f).remap = s.remap := rfl
@[simp] theorem State.modCo_owner (s : State) (c : Nat) (f : Core → Core) : (s.modCo c f).owner = s.owner := rfl
@[simp] theorem State.modCo_quads (s : State) (c : Nat) (f : Core → Core) : (s.modCo c f).quads = s.quads := rfl
@[simp] theorem State.modCo_ports (s : State) (c : Nat) (f : Core → Core) : (s.modCo c f).ports = s.ports := rfl
@[simp] theorem State.modCo_reqs (s : State) (c : Nat) (f : Core → Core) : (s.modCo c f).reqs = s.reqs := rfl
@[simp] theorem State.modCo_streams (s : State) (c : Nat) (f : Core → Core) : (s.modCo c f).streams = s.streams := rfl
@[simp] theorem State.modCo_hdm (s : State) (c : Nat) (f : Core → Core) : (s.modCo c f).hdm = s.hdm := rfl
@[simp] theorem State.modCo_scrub (s : State) (c : Nat) (f : Core → Core) : (s.modCo c f).scrub = s.scrub := rfl
@[simp] theorem State.modCo_ecc (s : State) (c : Nat) (f : Core → Core) : (s.modCo c f).ecc = s.ecc := rfl
@[simp] theorem State.modCo_engs (s : State) (c : Nat) (f : Core → Core) : (s.modCo c f).engs = s.engs := rfl
@[simp] theorem State.modCo_moves (s : State) (c : Nat) (f : Core → Core) : (s.modCo c f).moves = s.moves := rfl
@[simp] theorem State.modCo_boot (s : State) (c : Nat) (f : Core → Core) : (s.modCo c f).boot = s.boot := rfl
@[simp] theorem State.modCo_mons (s : State) (c : Nat) (f : Core → Core) : (s.modCo c f).mons = s.mons := rfl
@[simp] theorem State.modCo_mailboxes (s : State) (c : Nat) (f : Core → Core) : (s.modCo c f).mailboxes = s.mailboxes := rfl
@[simp] theorem State.modCo_out (s : State) (c : Nat) (f : Core → Core) : (s.modCo c f).out = s.out := rfl
@[simp] theorem State.modCo_held (s : State) (c : Nat) (f : Core → Core) : (s.modCo c f).held = s.held := rfl
@[simp] theorem State.modCo_posts (s : State) (c : Nat) (f : Core → Core) : (s.modCo c f).posts = s.posts := rfl
@[simp] theorem State.modCo_ringLast (s : State) (c : Nat) (f : Core → Core) : (s.modCo c f).ringLast = s.ringLast := rfl
@[simp] theorem State.modCo_deadSeals (s : State) (c : Nat) (f : Core → Core) : (s.modCo c f).deadSeals = s.deadSeals := rfl
@[simp] theorem State.modCo_issued (s : State) (c : Nat) (f : Core → Core) : (s.modCo c f).issued = s.issued := rfl
@[simp] theorem State.modCo_parting (s : State) (c : Nat) (f : Core → Core) : (s.modCo c f).parting = s.parting := rfl
@[simp] theorem State.modCo_retiring (s : State) (c : Nat) (f : Core → Core) : (s.modCo c f).retiring = s.retiring := rfl
@[simp] theorem State.modCo_compared (s : State) (c : Nat) (f : Core → Core) : (s.modCo c f).compared = s.compared := rfl

/-! ## modVd -/

@[simp] theorem State.modVd_clk (s : State) (id : Nat) (f : Vd → Vd) : (s.modVd id f).clk = s.clk := rfl
@[simp] theorem State.modVd_agenda (s : State) (id : Nat) (f : Vd → Vd) : (s.modVd id f).agenda = s.agenda := rfl
@[simp] theorem State.modVd_cursor (s : State) (id : Nat) (f : Vd → Vd) : (s.modVd id f).cursor = s.cursor := rfl
@[simp] theorem State.modVd_group (s : State) (id : Nat) (f : Vd → Vd) : (s.modVd id f).group = s.group := rfl
@[simp] theorem State.modVd_seq (s : State) (id : Nat) (f : Vd → Vd) : (s.modVd id f).seq = s.seq := rfl
@[simp] theorem State.modVd_mem (s : State) (id : Nat) (f : Vd → Vd) : (s.modVd id f).mem = s.mem := rfl
@[simp] theorem State.modVd_empties (s : State) (id : Nat) (f : Vd → Vd) : (s.modVd id f).empties = s.empties := rfl
@[simp] theorem State.modVd_poison (s : State) (id : Nat) (f : Vd → Vd) : (s.modVd id f).poison = s.poison := rfl
@[simp] theorem State.modVd_l2bad (s : State) (id : Nat) (f : Vd → Vd) : (s.modVd id f).l2bad = s.l2bad := rfl
@[simp] theorem State.modVd_touched (s : State) (id : Nat) (f : Vd → Vd) : (s.modVd id f).touched = s.touched := rfl
@[simp] theorem State.modVd_cores (s : State) (id : Nat) (f : Vd → Vd) : (s.modVd id f).cores = s.cores := rfl
@[simp] theorem State.modVd_far (s : State) (id : Nat) (f : Vd → Vd) : (s.modVd id f).far = s.far := rfl
@[simp] theorem State.modVd_quayTlb (s : State) (id : Nat) (f : Vd → Vd) : (s.modVd id f).quayTlb = s.quayTlb := rfl
@[simp] theorem State.modVd_wbufs (s : State) (id : Nat) (f : Vd → Vd) : (s.modVd id f).wbufs = s.wbufs := rfl
@[simp] theorem State.modVd_slices (s : State) (id : Nat) (f : Vd → Vd) : (s.modVd id f).slices = s.slices := rfl
@[simp] theorem State.modVd_threads (s : State) (id : Nat) (f : Vd → Vd) : (s.modVd id f).threads = s.threads := rfl
@[simp] theorem State.modVd_bundles (s : State) (id : Nat) (f : Vd → Vd) : (s.modVd id f).bundles = s.bundles := rfl
@[simp] theorem State.modVd_blocks (s : State) (id : Nat) (f : Vd → Vd) : (s.modVd id f).blocks = s.blocks := rfl
@[simp] theorem State.modVd_gangs (s : State) (id : Nat) (f : Vd → Vd) : (s.modVd id f).gangs = s.gangs := rfl
@[simp] theorem State.modVd_kernels (s : State) (id : Nat) (f : Vd → Vd) : (s.modVd id f).kernels = s.kernels := rfl
@[simp] theorem State.modVd_bars (s : State) (id : Nat) (f : Vd → Vd) : (s.modVd id f).bars = s.bars := rfl
@[simp] theorem State.modVd_cmds (s : State) (id : Nat) (f : Vd → Vd) : (s.modVd id f).cmds = s.cmds := rfl
@[simp] theorem State.modVd_shadows (s : State) (id : Nat) (f : Vd → Vd) : (s.modVd id f).shadows = s.shadows := rfl
@[simp] theorem State.modVd_feq (s : State) (id : Nat) (f : Vd → Vd) : (s.modVd id f).feq = s.feq := rfl
@[simp] theorem State.modVd_parts (s : State) (id : Nat) (f : Vd → Vd) : (s.modVd id f).parts = s.parts := rfl
@[simp] theorem State.modVd_remap (s : State) (id : Nat) (f : Vd → Vd) : (s.modVd id f).remap = s.remap := rfl
@[simp] theorem State.modVd_owner (s : State) (id : Nat) (f : Vd → Vd) : (s.modVd id f).owner = s.owner := rfl
@[simp] theorem State.modVd_quads (s : State) (id : Nat) (f : Vd → Vd) : (s.modVd id f).quads = s.quads := rfl
@[simp] theorem State.modVd_ports (s : State) (id : Nat) (f : Vd → Vd) : (s.modVd id f).ports = s.ports := rfl
@[simp] theorem State.modVd_reqs (s : State) (id : Nat) (f : Vd → Vd) : (s.modVd id f).reqs = s.reqs := rfl
@[simp] theorem State.modVd_streams (s : State) (id : Nat) (f : Vd → Vd) : (s.modVd id f).streams = s.streams := rfl
@[simp] theorem State.modVd_hdm (s : State) (id : Nat) (f : Vd → Vd) : (s.modVd id f).hdm = s.hdm := rfl
@[simp] theorem State.modVd_scrub (s : State) (id : Nat) (f : Vd → Vd) : (s.modVd id f).scrub = s.scrub := rfl
@[simp] theorem State.modVd_ecc (s : State) (id : Nat) (f : Vd → Vd) : (s.modVd id f).ecc = s.ecc := rfl
@[simp] theorem State.modVd_engs (s : State) (id : Nat) (f : Vd → Vd) : (s.modVd id f).engs = s.engs := rfl
@[simp] theorem State.modVd_moves (s : State) (id : Nat) (f : Vd → Vd) : (s.modVd id f).moves = s.moves := rfl
@[simp] theorem State.modVd_boot (s : State) (id : Nat) (f : Vd → Vd) : (s.modVd id f).boot = s.boot := rfl
@[simp] theorem State.modVd_mons (s : State) (id : Nat) (f : Vd → Vd) : (s.modVd id f).mons = s.mons := rfl
@[simp] theorem State.modVd_mailboxes (s : State) (id : Nat) (f : Vd → Vd) : (s.modVd id f).mailboxes = s.mailboxes := rfl
@[simp] theorem State.modVd_out (s : State) (id : Nat) (f : Vd → Vd) : (s.modVd id f).out = s.out := rfl
@[simp] theorem State.modVd_held (s : State) (id : Nat) (f : Vd → Vd) : (s.modVd id f).held = s.held := rfl
@[simp] theorem State.modVd_posts (s : State) (id : Nat) (f : Vd → Vd) : (s.modVd id f).posts = s.posts := rfl
@[simp] theorem State.modVd_ringLast (s : State) (id : Nat) (f : Vd → Vd) : (s.modVd id f).ringLast = s.ringLast := rfl
@[simp] theorem State.modVd_deadSeals (s : State) (id : Nat) (f : Vd → Vd) : (s.modVd id f).deadSeals = s.deadSeals := rfl
@[simp] theorem State.modVd_issued (s : State) (id : Nat) (f : Vd → Vd) : (s.modVd id f).issued = s.issued := rfl
@[simp] theorem State.modVd_parting (s : State) (id : Nat) (f : Vd → Vd) : (s.modVd id f).parting = s.parting := rfl
@[simp] theorem State.modVd_retiring (s : State) (id : Nat) (f : Vd → Vd) : (s.modVd id f).retiring = s.retiring := rfl
@[simp] theorem State.modVd_compared (s : State) (id : Nat) (f : Vd → Vd) : (s.modVd id f).compared = s.compared := rfl

/-! ## modCmd -/

@[simp] theorem State.modCmd_clk (s : State) (id : Nat) (f : Cmd → Cmd) : (s.modCmd id f).clk = s.clk := rfl
@[simp] theorem State.modCmd_agenda (s : State) (id : Nat) (f : Cmd → Cmd) : (s.modCmd id f).agenda = s.agenda := rfl
@[simp] theorem State.modCmd_cursor (s : State) (id : Nat) (f : Cmd → Cmd) : (s.modCmd id f).cursor = s.cursor := rfl
@[simp] theorem State.modCmd_group (s : State) (id : Nat) (f : Cmd → Cmd) : (s.modCmd id f).group = s.group := rfl
@[simp] theorem State.modCmd_seq (s : State) (id : Nat) (f : Cmd → Cmd) : (s.modCmd id f).seq = s.seq := rfl
@[simp] theorem State.modCmd_mem (s : State) (id : Nat) (f : Cmd → Cmd) : (s.modCmd id f).mem = s.mem := rfl
@[simp] theorem State.modCmd_empties (s : State) (id : Nat) (f : Cmd → Cmd) : (s.modCmd id f).empties = s.empties := rfl
@[simp] theorem State.modCmd_poison (s : State) (id : Nat) (f : Cmd → Cmd) : (s.modCmd id f).poison = s.poison := rfl
@[simp] theorem State.modCmd_l2bad (s : State) (id : Nat) (f : Cmd → Cmd) : (s.modCmd id f).l2bad = s.l2bad := rfl
@[simp] theorem State.modCmd_touched (s : State) (id : Nat) (f : Cmd → Cmd) : (s.modCmd id f).touched = s.touched := rfl
@[simp] theorem State.modCmd_cores (s : State) (id : Nat) (f : Cmd → Cmd) : (s.modCmd id f).cores = s.cores := rfl
@[simp] theorem State.modCmd_far (s : State) (id : Nat) (f : Cmd → Cmd) : (s.modCmd id f).far = s.far := rfl
@[simp] theorem State.modCmd_quayTlb (s : State) (id : Nat) (f : Cmd → Cmd) : (s.modCmd id f).quayTlb = s.quayTlb := rfl
@[simp] theorem State.modCmd_wbufs (s : State) (id : Nat) (f : Cmd → Cmd) : (s.modCmd id f).wbufs = s.wbufs := rfl
@[simp] theorem State.modCmd_slices (s : State) (id : Nat) (f : Cmd → Cmd) : (s.modCmd id f).slices = s.slices := rfl
@[simp] theorem State.modCmd_threads (s : State) (id : Nat) (f : Cmd → Cmd) : (s.modCmd id f).threads = s.threads := rfl
@[simp] theorem State.modCmd_bundles (s : State) (id : Nat) (f : Cmd → Cmd) : (s.modCmd id f).bundles = s.bundles := rfl
@[simp] theorem State.modCmd_blocks (s : State) (id : Nat) (f : Cmd → Cmd) : (s.modCmd id f).blocks = s.blocks := rfl
@[simp] theorem State.modCmd_gangs (s : State) (id : Nat) (f : Cmd → Cmd) : (s.modCmd id f).gangs = s.gangs := rfl
@[simp] theorem State.modCmd_kernels (s : State) (id : Nat) (f : Cmd → Cmd) : (s.modCmd id f).kernels = s.kernels := rfl
@[simp] theorem State.modCmd_bars (s : State) (id : Nat) (f : Cmd → Cmd) : (s.modCmd id f).bars = s.bars := rfl
@[simp] theorem State.modCmd_shadows (s : State) (id : Nat) (f : Cmd → Cmd) : (s.modCmd id f).shadows = s.shadows := rfl
@[simp] theorem State.modCmd_feq (s : State) (id : Nat) (f : Cmd → Cmd) : (s.modCmd id f).feq = s.feq := rfl
@[simp] theorem State.modCmd_vds (s : State) (id : Nat) (f : Cmd → Cmd) : (s.modCmd id f).vds = s.vds := rfl
@[simp] theorem State.modCmd_parts (s : State) (id : Nat) (f : Cmd → Cmd) : (s.modCmd id f).parts = s.parts := rfl
@[simp] theorem State.modCmd_remap (s : State) (id : Nat) (f : Cmd → Cmd) : (s.modCmd id f).remap = s.remap := rfl
@[simp] theorem State.modCmd_owner (s : State) (id : Nat) (f : Cmd → Cmd) : (s.modCmd id f).owner = s.owner := rfl
@[simp] theorem State.modCmd_quads (s : State) (id : Nat) (f : Cmd → Cmd) : (s.modCmd id f).quads = s.quads := rfl
@[simp] theorem State.modCmd_ports (s : State) (id : Nat) (f : Cmd → Cmd) : (s.modCmd id f).ports = s.ports := rfl
@[simp] theorem State.modCmd_reqs (s : State) (id : Nat) (f : Cmd → Cmd) : (s.modCmd id f).reqs = s.reqs := rfl
@[simp] theorem State.modCmd_streams (s : State) (id : Nat) (f : Cmd → Cmd) : (s.modCmd id f).streams = s.streams := rfl
@[simp] theorem State.modCmd_hdm (s : State) (id : Nat) (f : Cmd → Cmd) : (s.modCmd id f).hdm = s.hdm := rfl
@[simp] theorem State.modCmd_scrub (s : State) (id : Nat) (f : Cmd → Cmd) : (s.modCmd id f).scrub = s.scrub := rfl
@[simp] theorem State.modCmd_ecc (s : State) (id : Nat) (f : Cmd → Cmd) : (s.modCmd id f).ecc = s.ecc := rfl
@[simp] theorem State.modCmd_engs (s : State) (id : Nat) (f : Cmd → Cmd) : (s.modCmd id f).engs = s.engs := rfl
@[simp] theorem State.modCmd_moves (s : State) (id : Nat) (f : Cmd → Cmd) : (s.modCmd id f).moves = s.moves := rfl
@[simp] theorem State.modCmd_boot (s : State) (id : Nat) (f : Cmd → Cmd) : (s.modCmd id f).boot = s.boot := rfl
@[simp] theorem State.modCmd_mons (s : State) (id : Nat) (f : Cmd → Cmd) : (s.modCmd id f).mons = s.mons := rfl
@[simp] theorem State.modCmd_mailboxes (s : State) (id : Nat) (f : Cmd → Cmd) : (s.modCmd id f).mailboxes = s.mailboxes := rfl
@[simp] theorem State.modCmd_out (s : State) (id : Nat) (f : Cmd → Cmd) : (s.modCmd id f).out = s.out := rfl
@[simp] theorem State.modCmd_held (s : State) (id : Nat) (f : Cmd → Cmd) : (s.modCmd id f).held = s.held := rfl
@[simp] theorem State.modCmd_posts (s : State) (id : Nat) (f : Cmd → Cmd) : (s.modCmd id f).posts = s.posts := rfl
@[simp] theorem State.modCmd_ringLast (s : State) (id : Nat) (f : Cmd → Cmd) : (s.modCmd id f).ringLast = s.ringLast := rfl
@[simp] theorem State.modCmd_deadSeals (s : State) (id : Nat) (f : Cmd → Cmd) : (s.modCmd id f).deadSeals = s.deadSeals := rfl
@[simp] theorem State.modCmd_issued (s : State) (id : Nat) (f : Cmd → Cmd) : (s.modCmd id f).issued = s.issued := rfl
@[simp] theorem State.modCmd_parting (s : State) (id : Nat) (f : Cmd → Cmd) : (s.modCmd id f).parting = s.parting := rfl
@[simp] theorem State.modCmd_retiring (s : State) (id : Nat) (f : Cmd → Cmd) : (s.modCmd id f).retiring = s.retiring := rfl
@[simp] theorem State.modCmd_compared (s : State) (id : Nat) (f : Cmd → Cmd) : (s.modCmd id f).compared = s.compared := rfl

/-! ## push -/

@[simp] theorem State.push_clk (s : State) (e : Event) : (s.push e).clk = s.clk := rfl
@[simp] theorem State.push_cursor (s : State) (e : Event) : (s.push e).cursor = s.cursor := rfl
@[simp] theorem State.push_group (s : State) (e : Event) : (s.push e).group = s.group := rfl
@[simp] theorem State.push_seq (s : State) (e : Event) : (s.push e).seq = s.seq := rfl
@[simp] theorem State.push_mem (s : State) (e : Event) : (s.push e).mem = s.mem := rfl
@[simp] theorem State.push_empties (s : State) (e : Event) : (s.push e).empties = s.empties := rfl
@[simp] theorem State.push_poison (s : State) (e : Event) : (s.push e).poison = s.poison := rfl
@[simp] theorem State.push_l2bad (s : State) (e : Event) : (s.push e).l2bad = s.l2bad := rfl
@[simp] theorem State.push_touched (s : State) (e : Event) : (s.push e).touched = s.touched := rfl
@[simp] theorem State.push_cores (s : State) (e : Event) : (s.push e).cores = s.cores := rfl
@[simp] theorem State.push_far (s : State) (e : Event) : (s.push e).far = s.far := rfl
@[simp] theorem State.push_quayTlb (s : State) (e : Event) : (s.push e).quayTlb = s.quayTlb := rfl
@[simp] theorem State.push_wbufs (s : State) (e : Event) : (s.push e).wbufs = s.wbufs := rfl
@[simp] theorem State.push_slices (s : State) (e : Event) : (s.push e).slices = s.slices := rfl
@[simp] theorem State.push_threads (s : State) (e : Event) : (s.push e).threads = s.threads := rfl
@[simp] theorem State.push_bundles (s : State) (e : Event) : (s.push e).bundles = s.bundles := rfl
@[simp] theorem State.push_blocks (s : State) (e : Event) : (s.push e).blocks = s.blocks := rfl
@[simp] theorem State.push_gangs (s : State) (e : Event) : (s.push e).gangs = s.gangs := rfl
@[simp] theorem State.push_kernels (s : State) (e : Event) : (s.push e).kernels = s.kernels := rfl
@[simp] theorem State.push_bars (s : State) (e : Event) : (s.push e).bars = s.bars := rfl
@[simp] theorem State.push_cmds (s : State) (e : Event) : (s.push e).cmds = s.cmds := rfl
@[simp] theorem State.push_shadows (s : State) (e : Event) : (s.push e).shadows = s.shadows := rfl
@[simp] theorem State.push_feq (s : State) (e : Event) : (s.push e).feq = s.feq := rfl
@[simp] theorem State.push_vds (s : State) (e : Event) : (s.push e).vds = s.vds := rfl
@[simp] theorem State.push_parts (s : State) (e : Event) : (s.push e).parts = s.parts := rfl
@[simp] theorem State.push_remap (s : State) (e : Event) : (s.push e).remap = s.remap := rfl
@[simp] theorem State.push_owner (s : State) (e : Event) : (s.push e).owner = s.owner := rfl
@[simp] theorem State.push_quads (s : State) (e : Event) : (s.push e).quads = s.quads := rfl
@[simp] theorem State.push_ports (s : State) (e : Event) : (s.push e).ports = s.ports := rfl
@[simp] theorem State.push_reqs (s : State) (e : Event) : (s.push e).reqs = s.reqs := rfl
@[simp] theorem State.push_streams (s : State) (e : Event) : (s.push e).streams = s.streams := rfl
@[simp] theorem State.push_hdm (s : State) (e : Event) : (s.push e).hdm = s.hdm := rfl
@[simp] theorem State.push_scrub (s : State) (e : Event) : (s.push e).scrub = s.scrub := rfl
@[simp] theorem State.push_ecc (s : State) (e : Event) : (s.push e).ecc = s.ecc := rfl
@[simp] theorem State.push_engs (s : State) (e : Event) : (s.push e).engs = s.engs := rfl
@[simp] theorem State.push_moves (s : State) (e : Event) : (s.push e).moves = s.moves := rfl
@[simp] theorem State.push_boot (s : State) (e : Event) : (s.push e).boot = s.boot := rfl
@[simp] theorem State.push_mons (s : State) (e : Event) : (s.push e).mons = s.mons := rfl
@[simp] theorem State.push_mailboxes (s : State) (e : Event) : (s.push e).mailboxes = s.mailboxes := rfl
@[simp] theorem State.push_out (s : State) (e : Event) : (s.push e).out = s.out := rfl
@[simp] theorem State.push_held (s : State) (e : Event) : (s.push e).held = s.held := rfl
@[simp] theorem State.push_posts (s : State) (e : Event) : (s.push e).posts = s.posts := rfl
@[simp] theorem State.push_ringLast (s : State) (e : Event) : (s.push e).ringLast = s.ringLast := rfl
@[simp] theorem State.push_deadSeals (s : State) (e : Event) : (s.push e).deadSeals = s.deadSeals := rfl
@[simp] theorem State.push_issued (s : State) (e : Event) : (s.push e).issued = s.issued := rfl
@[simp] theorem State.push_parting (s : State) (e : Event) : (s.push e).parting = s.parting := rfl
@[simp] theorem State.push_retiring (s : State) (e : Event) : (s.push e).retiring = s.retiring := rfl
@[simp] theorem State.push_compared (s : State) (e : Event) : (s.push e).compared = s.compared := rfl

/-! ## emit -/

@[simp] theorem State.emit_clk (s : State) (o : Out) : (s.emit o).clk = s.clk := rfl
@[simp] theorem State.emit_agenda (s : State) (o : Out) : (s.emit o).agenda = s.agenda := rfl
@[simp] theorem State.emit_cursor (s : State) (o : Out) : (s.emit o).cursor = s.cursor := rfl
@[simp] theorem State.emit_group (s : State) (o : Out) : (s.emit o).group = s.group := rfl
@[simp] theorem State.emit_seq (s : State) (o : Out) : (s.emit o).seq = s.seq := rfl
@[simp] theorem State.emit_mem (s : State) (o : Out) : (s.emit o).mem = s.mem := rfl
@[simp] theorem State.emit_empties (s : State) (o : Out) : (s.emit o).empties = s.empties := rfl
@[simp] theorem State.emit_poison (s : State) (o : Out) : (s.emit o).poison = s.poison := rfl
@[simp] theorem State.emit_l2bad (s : State) (o : Out) : (s.emit o).l2bad = s.l2bad := rfl
@[simp] theorem State.emit_touched (s : State) (o : Out) : (s.emit o).touched = s.touched := rfl
@[simp] theorem State.emit_cores (s : State) (o : Out) : (s.emit o).cores = s.cores := rfl
@[simp] theorem State.emit_far (s : State) (o : Out) : (s.emit o).far = s.far := rfl
@[simp] theorem State.emit_quayTlb (s : State) (o : Out) : (s.emit o).quayTlb = s.quayTlb := rfl
@[simp] theorem State.emit_wbufs (s : State) (o : Out) : (s.emit o).wbufs = s.wbufs := rfl
@[simp] theorem State.emit_slices (s : State) (o : Out) : (s.emit o).slices = s.slices := rfl
@[simp] theorem State.emit_threads (s : State) (o : Out) : (s.emit o).threads = s.threads := rfl
@[simp] theorem State.emit_bundles (s : State) (o : Out) : (s.emit o).bundles = s.bundles := rfl
@[simp] theorem State.emit_blocks (s : State) (o : Out) : (s.emit o).blocks = s.blocks := rfl
@[simp] theorem State.emit_gangs (s : State) (o : Out) : (s.emit o).gangs = s.gangs := rfl
@[simp] theorem State.emit_kernels (s : State) (o : Out) : (s.emit o).kernels = s.kernels := rfl
@[simp] theorem State.emit_bars (s : State) (o : Out) : (s.emit o).bars = s.bars := rfl
@[simp] theorem State.emit_cmds (s : State) (o : Out) : (s.emit o).cmds = s.cmds := rfl
@[simp] theorem State.emit_shadows (s : State) (o : Out) : (s.emit o).shadows = s.shadows := rfl
@[simp] theorem State.emit_feq (s : State) (o : Out) : (s.emit o).feq = s.feq := rfl
@[simp] theorem State.emit_vds (s : State) (o : Out) : (s.emit o).vds = s.vds := rfl
@[simp] theorem State.emit_parts (s : State) (o : Out) : (s.emit o).parts = s.parts := rfl
@[simp] theorem State.emit_remap (s : State) (o : Out) : (s.emit o).remap = s.remap := rfl
@[simp] theorem State.emit_owner (s : State) (o : Out) : (s.emit o).owner = s.owner := rfl
@[simp] theorem State.emit_quads (s : State) (o : Out) : (s.emit o).quads = s.quads := rfl
@[simp] theorem State.emit_ports (s : State) (o : Out) : (s.emit o).ports = s.ports := rfl
@[simp] theorem State.emit_reqs (s : State) (o : Out) : (s.emit o).reqs = s.reqs := rfl
@[simp] theorem State.emit_streams (s : State) (o : Out) : (s.emit o).streams = s.streams := rfl
@[simp] theorem State.emit_hdm (s : State) (o : Out) : (s.emit o).hdm = s.hdm := rfl
@[simp] theorem State.emit_scrub (s : State) (o : Out) : (s.emit o).scrub = s.scrub := rfl
@[simp] theorem State.emit_ecc (s : State) (o : Out) : (s.emit o).ecc = s.ecc := rfl
@[simp] theorem State.emit_engs (s : State) (o : Out) : (s.emit o).engs = s.engs := rfl
@[simp] theorem State.emit_moves (s : State) (o : Out) : (s.emit o).moves = s.moves := rfl
@[simp] theorem State.emit_boot (s : State) (o : Out) : (s.emit o).boot = s.boot := rfl
@[simp] theorem State.emit_mons (s : State) (o : Out) : (s.emit o).mons = s.mons := rfl
@[simp] theorem State.emit_mailboxes (s : State) (o : Out) : (s.emit o).mailboxes = s.mailboxes := rfl
@[simp] theorem State.emit_held (s : State) (o : Out) : (s.emit o).held = s.held := rfl
@[simp] theorem State.emit_posts (s : State) (o : Out) : (s.emit o).posts = s.posts := rfl
@[simp] theorem State.emit_ringLast (s : State) (o : Out) : (s.emit o).ringLast = s.ringLast := rfl
@[simp] theorem State.emit_deadSeals (s : State) (o : Out) : (s.emit o).deadSeals = s.deadSeals := rfl
@[simp] theorem State.emit_issued (s : State) (o : Out) : (s.emit o).issued = s.issued := rfl
@[simp] theorem State.emit_parting (s : State) (o : Out) : (s.emit o).parting = s.parting := rfl
@[simp] theorem State.emit_retiring (s : State) (o : Out) : (s.emit o).retiring = s.retiring := rfl
@[simp] theorem State.emit_compared (s : State) (o : Out) : (s.emit o).compared = s.compared := rfl

/-! ## latch -/

@[simp] theorem State.latch_clk (s : State) (k : MonKey) : (s.latch k).clk = s.clk := rfl
@[simp] theorem State.latch_agenda (s : State) (k : MonKey) : (s.latch k).agenda = s.agenda := rfl
@[simp] theorem State.latch_cursor (s : State) (k : MonKey) : (s.latch k).cursor = s.cursor := rfl
@[simp] theorem State.latch_group (s : State) (k : MonKey) : (s.latch k).group = s.group := rfl
@[simp] theorem State.latch_seq (s : State) (k : MonKey) : (s.latch k).seq = s.seq := rfl
@[simp] theorem State.latch_mem (s : State) (k : MonKey) : (s.latch k).mem = s.mem := rfl
@[simp] theorem State.latch_empties (s : State) (k : MonKey) : (s.latch k).empties = s.empties := rfl
@[simp] theorem State.latch_poison (s : State) (k : MonKey) : (s.latch k).poison = s.poison := rfl
@[simp] theorem State.latch_l2bad (s : State) (k : MonKey) : (s.latch k).l2bad = s.l2bad := rfl
@[simp] theorem State.latch_touched (s : State) (k : MonKey) : (s.latch k).touched = s.touched := rfl
@[simp] theorem State.latch_cores (s : State) (k : MonKey) : (s.latch k).cores = s.cores := rfl
@[simp] theorem State.latch_far (s : State) (k : MonKey) : (s.latch k).far = s.far := rfl
@[simp] theorem State.latch_quayTlb (s : State) (k : MonKey) : (s.latch k).quayTlb = s.quayTlb := rfl
@[simp] theorem State.latch_wbufs (s : State) (k : MonKey) : (s.latch k).wbufs = s.wbufs := rfl
@[simp] theorem State.latch_slices (s : State) (k : MonKey) : (s.latch k).slices = s.slices := rfl
@[simp] theorem State.latch_bundles (s : State) (k : MonKey) : (s.latch k).bundles = s.bundles := rfl
@[simp] theorem State.latch_blocks (s : State) (k : MonKey) : (s.latch k).blocks = s.blocks := rfl
@[simp] theorem State.latch_gangs (s : State) (k : MonKey) : (s.latch k).gangs = s.gangs := rfl
@[simp] theorem State.latch_kernels (s : State) (k : MonKey) : (s.latch k).kernels = s.kernels := rfl
@[simp] theorem State.latch_bars (s : State) (k : MonKey) : (s.latch k).bars = s.bars := rfl
@[simp] theorem State.latch_cmds (s : State) (k : MonKey) : (s.latch k).cmds = s.cmds := rfl
@[simp] theorem State.latch_shadows (s : State) (k : MonKey) : (s.latch k).shadows = s.shadows := rfl
@[simp] theorem State.latch_feq (s : State) (k : MonKey) : (s.latch k).feq = s.feq := rfl
@[simp] theorem State.latch_vds (s : State) (k : MonKey) : (s.latch k).vds = s.vds := rfl
@[simp] theorem State.latch_parts (s : State) (k : MonKey) : (s.latch k).parts = s.parts := rfl
@[simp] theorem State.latch_remap (s : State) (k : MonKey) : (s.latch k).remap = s.remap := rfl
@[simp] theorem State.latch_owner (s : State) (k : MonKey) : (s.latch k).owner = s.owner := rfl
@[simp] theorem State.latch_quads (s : State) (k : MonKey) : (s.latch k).quads = s.quads := rfl
@[simp] theorem State.latch_ports (s : State) (k : MonKey) : (s.latch k).ports = s.ports := rfl
@[simp] theorem State.latch_reqs (s : State) (k : MonKey) : (s.latch k).reqs = s.reqs := rfl
@[simp] theorem State.latch_streams (s : State) (k : MonKey) : (s.latch k).streams = s.streams := rfl
@[simp] theorem State.latch_hdm (s : State) (k : MonKey) : (s.latch k).hdm = s.hdm := rfl
@[simp] theorem State.latch_scrub (s : State) (k : MonKey) : (s.latch k).scrub = s.scrub := rfl
@[simp] theorem State.latch_ecc (s : State) (k : MonKey) : (s.latch k).ecc = s.ecc := rfl
@[simp] theorem State.latch_engs (s : State) (k : MonKey) : (s.latch k).engs = s.engs := rfl
@[simp] theorem State.latch_moves (s : State) (k : MonKey) : (s.latch k).moves = s.moves := rfl
@[simp] theorem State.latch_boot (s : State) (k : MonKey) : (s.latch k).boot = s.boot := rfl
@[simp] theorem State.latch_mons (s : State) (k : MonKey) : (s.latch k).mons = s.mons := rfl
@[simp] theorem State.latch_mailboxes (s : State) (k : MonKey) : (s.latch k).mailboxes = s.mailboxes := rfl
@[simp] theorem State.latch_out (s : State) (k : MonKey) : (s.latch k).out = s.out := rfl
@[simp] theorem State.latch_held (s : State) (k : MonKey) : (s.latch k).held = s.held := rfl
@[simp] theorem State.latch_posts (s : State) (k : MonKey) : (s.latch k).posts = s.posts := rfl
@[simp] theorem State.latch_ringLast (s : State) (k : MonKey) : (s.latch k).ringLast = s.ringLast := rfl
@[simp] theorem State.latch_deadSeals (s : State) (k : MonKey) : (s.latch k).deadSeals = s.deadSeals := rfl
@[simp] theorem State.latch_issued (s : State) (k : MonKey) : (s.latch k).issued = s.issued := rfl
@[simp] theorem State.latch_parting (s : State) (k : MonKey) : (s.latch k).parting = s.parting := rfl
@[simp] theorem State.latch_retiring (s : State) (k : MonKey) : (s.latch k).retiring = s.retiring := rfl
@[simp] theorem State.latch_compared (s : State) (k : MonKey) : (s.latch k).compared = s.compared := rfl

/-! ## touch -/

@[simp] theorem State.touch_clk (s : State) (ma : Nat) : (s.touch ma).clk = s.clk := rfl
@[simp] theorem State.touch_agenda (s : State) (ma : Nat) : (s.touch ma).agenda = s.agenda := rfl
@[simp] theorem State.touch_cursor (s : State) (ma : Nat) : (s.touch ma).cursor = s.cursor := rfl
@[simp] theorem State.touch_group (s : State) (ma : Nat) : (s.touch ma).group = s.group := rfl
@[simp] theorem State.touch_seq (s : State) (ma : Nat) : (s.touch ma).seq = s.seq := rfl
@[simp] theorem State.touch_mem (s : State) (ma : Nat) : (s.touch ma).mem = s.mem := rfl
@[simp] theorem State.touch_empties (s : State) (ma : Nat) : (s.touch ma).empties = s.empties := rfl
@[simp] theorem State.touch_poison (s : State) (ma : Nat) : (s.touch ma).poison = s.poison := rfl
@[simp] theorem State.touch_l2bad (s : State) (ma : Nat) : (s.touch ma).l2bad = s.l2bad := rfl
@[simp] theorem State.touch_cores (s : State) (ma : Nat) : (s.touch ma).cores = s.cores := rfl
@[simp] theorem State.touch_far (s : State) (ma : Nat) : (s.touch ma).far = s.far := rfl
@[simp] theorem State.touch_quayTlb (s : State) (ma : Nat) : (s.touch ma).quayTlb = s.quayTlb := rfl
@[simp] theorem State.touch_wbufs (s : State) (ma : Nat) : (s.touch ma).wbufs = s.wbufs := rfl
@[simp] theorem State.touch_slices (s : State) (ma : Nat) : (s.touch ma).slices = s.slices := rfl
@[simp] theorem State.touch_threads (s : State) (ma : Nat) : (s.touch ma).threads = s.threads := rfl
@[simp] theorem State.touch_bundles (s : State) (ma : Nat) : (s.touch ma).bundles = s.bundles := rfl
@[simp] theorem State.touch_blocks (s : State) (ma : Nat) : (s.touch ma).blocks = s.blocks := rfl
@[simp] theorem State.touch_gangs (s : State) (ma : Nat) : (s.touch ma).gangs = s.gangs := rfl
@[simp] theorem State.touch_kernels (s : State) (ma : Nat) : (s.touch ma).kernels = s.kernels := rfl
@[simp] theorem State.touch_bars (s : State) (ma : Nat) : (s.touch ma).bars = s.bars := rfl
@[simp] theorem State.touch_cmds (s : State) (ma : Nat) : (s.touch ma).cmds = s.cmds := rfl
@[simp] theorem State.touch_shadows (s : State) (ma : Nat) : (s.touch ma).shadows = s.shadows := rfl
@[simp] theorem State.touch_feq (s : State) (ma : Nat) : (s.touch ma).feq = s.feq := rfl
@[simp] theorem State.touch_vds (s : State) (ma : Nat) : (s.touch ma).vds = s.vds := rfl
@[simp] theorem State.touch_parts (s : State) (ma : Nat) : (s.touch ma).parts = s.parts := rfl
@[simp] theorem State.touch_remap (s : State) (ma : Nat) : (s.touch ma).remap = s.remap := rfl
@[simp] theorem State.touch_owner (s : State) (ma : Nat) : (s.touch ma).owner = s.owner := rfl
@[simp] theorem State.touch_quads (s : State) (ma : Nat) : (s.touch ma).quads = s.quads := rfl
@[simp] theorem State.touch_ports (s : State) (ma : Nat) : (s.touch ma).ports = s.ports := rfl
@[simp] theorem State.touch_reqs (s : State) (ma : Nat) : (s.touch ma).reqs = s.reqs := rfl
@[simp] theorem State.touch_streams (s : State) (ma : Nat) : (s.touch ma).streams = s.streams := rfl
@[simp] theorem State.touch_hdm (s : State) (ma : Nat) : (s.touch ma).hdm = s.hdm := rfl
@[simp] theorem State.touch_scrub (s : State) (ma : Nat) : (s.touch ma).scrub = s.scrub := rfl
@[simp] theorem State.touch_ecc (s : State) (ma : Nat) : (s.touch ma).ecc = s.ecc := rfl
@[simp] theorem State.touch_engs (s : State) (ma : Nat) : (s.touch ma).engs = s.engs := rfl
@[simp] theorem State.touch_moves (s : State) (ma : Nat) : (s.touch ma).moves = s.moves := rfl
@[simp] theorem State.touch_boot (s : State) (ma : Nat) : (s.touch ma).boot = s.boot := rfl
@[simp] theorem State.touch_mons (s : State) (ma : Nat) : (s.touch ma).mons = s.mons := rfl
@[simp] theorem State.touch_mailboxes (s : State) (ma : Nat) : (s.touch ma).mailboxes = s.mailboxes := rfl
@[simp] theorem State.touch_out (s : State) (ma : Nat) : (s.touch ma).out = s.out := rfl
@[simp] theorem State.touch_held (s : State) (ma : Nat) : (s.touch ma).held = s.held := rfl
@[simp] theorem State.touch_posts (s : State) (ma : Nat) : (s.touch ma).posts = s.posts := rfl
@[simp] theorem State.touch_ringLast (s : State) (ma : Nat) : (s.touch ma).ringLast = s.ringLast := rfl
@[simp] theorem State.touch_deadSeals (s : State) (ma : Nat) : (s.touch ma).deadSeals = s.deadSeals := rfl
@[simp] theorem State.touch_issued (s : State) (ma : Nat) : (s.touch ma).issued = s.issued := rfl
@[simp] theorem State.touch_parting (s : State) (ma : Nat) : (s.touch ma).parting = s.parting := rfl
@[simp] theorem State.touch_retiring (s : State) (ma : Nat) : (s.touch ma).retiring = s.retiring := rfl
@[simp] theorem State.touch_compared (s : State) (ma : Nat) : (s.touch ma).compared = s.compared := rfl

end Sys2Proof.Machine
end

