-- ==== Sys2Proof/Laws/Issue.lean ====
section
/-! SUPPORT. What issuing does to a group of one active thread: one lemma for each way to issue. -/

namespace Sys2Proof.Machine

open Sys2Proof.Safety

/-- A VD without Undertow performs the group at once. -/
theorem State.undertow_plain {s : State} (h : s.shadowed = false) (f : Form) (run : State → State) :
    s.undertow f run = run s := by
  simp [State.undertow, h]

/-- No trap of R78 steps 4 and 5: the registers are in the window and the predicate stack has room, or an entry, where the
form needs one. -/
theorem State.earlyTrap_none {s : State} {t : TRef} {f : Form} (hw : windowTrap (s.buOf t) f.regs = none)
    (hp : f.pushes = true → (s.th t).stack.length < 16) (hn : f.needsTop = true → (s.th t).stack ≠ []) :
    s.earlyTrap f t = none := by
  unfold State.earlyTrap
  rw [hw]
  have h1 : (f.pushes && decide ((s.th t).stack.length ≥ 16)) = false := by
    cases hf : f.pushes
    · rfl
    · simp [hp hf]
  have h2 : (f.needsTop && (s.th t).stack.isEmpty) = false := by
    cases hf : f.needsTop
    · rfl
    · simp [hn hf]
  simp only [h1, h2]
  rfl

/-- An instruction that closes no region: the thread performs its body. -/
theorem State.issue_alone {s : State} {t : TRef} {f : Form} {body : State → TRef → Act} (h : Alone s t)
    (he : s.earlyTrap f t = none) (hc : f.closes = false) (hr : (s.buOf t).badRegs t.lane f.reads = false) :
    s.issue f body = .next (State.perform f t (body s t)) := by
  simp only [State.issue, State.undertow_plain h.plain, h.group, List.foldl_cons, List.foldl_nil]
  simp [State.issueOne, h.live, he, h.active, hc, hr]

/-- One that closes the region: its body is performed once the region has closed. -/
theorem State.issue_alone_closes {s : State} {t : TRef} {f : Form} {body : State → TRef → Act} (h : Alone s t)
    (he : s.earlyTrap f t = none) (hc : f.closes = true) (hn : f.late = false) (hl : (s.closeRegion t).live t = true)
    (hr : ((s.closeRegion t).buOf t).badRegs t.lane f.reads = false) :
    s.issue f body = .next (State.perform f t (body (s.closeRegion t) t)) := by
  simp only [State.issue, State.undertow_plain h.plain, h.group, List.foldl_cons, List.foldl_nil]
  simp [State.issueOne, h.live, he, h.active, hc, hn, hl, hr]

/-- A group operation of one thread that closes no region. -/
theorem State.issueGroup_alone {s : State} {t : TRef} {f : Form} {body : State → TRef → List TRef → Act} (h : Alone s t)
    (he : s.earlyTrap f t = none) (hc : f.closes = false) (hr : (s.buOf t).badRegs t.lane f.reads = false) :
    s.issueGroup f body = .next (match body s t [t] with
      | .next s => s.finish t false
      | .jump s pc => State.perform f t (.jump s pc)
      | .trap s cause val => s.trap t cause val
      | .page s va level kind => s.pageFault t va level kind
      | .poison s va => s.consume t va
      | .park s p => State.perform f t (.park s p)
      | .gone s => s) := by
  simp only [State.issueGroup, State.undertow_plain h.plain]
  have hsv : s.survivors f = [t] := by simp [State.survivors, h.group, h.live, he]
  simp only [State.groupRun, hsv]
  simp [h.group, h.active, h.live, hc, hr]
  try cases body s t [t] <;> rfl

/-- A group operation of one thread that closes its region. -/
theorem State.issueGroup_alone_closes {s : State} {t : TRef} {f : Form} {body : State → TRef → List TRef → Act}
    (h : Alone s t) (he : s.earlyTrap f t = none) (hc : f.closes = true) (hl : (s.closeRegion t).live t = true)
    (hr : ((s.closeRegion t).buOf t).badRegs t.lane f.reads = false) :
    s.issueGroup f body = .next (match body (s.closeRegion t) t [t] with
      | .next s => s.finish t true
      | .jump s pc => State.perform f t (.jump s pc)
      | .trap s cause val => s.trap t cause val
      | .page s va level kind => s.pageFault t va level kind
      | .poison s va => s.consume t va
      | .park s p => State.perform f t (.park s p)
      | .gone s => s) := by
  simp only [State.issueGroup, State.undertow_plain h.plain]
  have hsv : s.survivors f = [t] := by simp [State.survivors, h.group, h.live, he]
  simp only [State.groupRun, hsv]
  simp [h.group, h.active, hl, hc, hr]
  try cases body (s.closeRegion t) t [t] <;> rfl

/-- A thread steps past an instruction that closes no region, or one that closes it. -/
theorem State.finish_open (s : State) (t : TRef) : s.finish t false = past s t := rfl
theorem State.finish_closed (s : State) (t : TRef) : s.finish t true = pastRegion s t := rfl

/-- An instruction that writes one register. -/
theorem State.alu_alone {s : State} {t : TRef} {d : Nat} {reads : List (Nat × Nat)} {r : State → TRef → Word}
    (h : Alone s t) (ho : Readable s t ((d, 1) :: reads) reads) :
    s.alu d reads r = .next (past (s.setReg t d (r s t)) t) :=
  State.issue_alone h (State.earlyTrap_none ho.window (by simp) (by simp)) rfl ho.sound

/-- One that writes a pair. -/
theorem State.alu64_alone {s : State} {t : TRef} {d : Nat} {reads : List (Nat × Nat)} {r : State → TRef → DWord}
    (h : Alone s t) (ho : Readable s t ((d, 2) :: reads) reads) :
    s.alu64 d reads r = .next (past (s.setPair t d (r s t)) t) :=
  State.issue_alone h (State.earlyTrap_none ho.window (by simp) (by simp)) rfl ho.sound

end Sys2Proof.Machine
end

