-- ==== Sys2Proof/Laws/Lookup.lean ====
section
/-! SUPPORT. Looking up what has been updated: threads, bundles and blocks after a change of one of them, and registers after
a write. -/

namespace Sys2Proof.Machine

/-! ## One record of a list -/

/-- The first match after a change that keeps the keys of what matches: the changed match. -/
theorem find_map_same {α : Type} {l : List α} {p : α → Bool} {f : α → α} (hf : ∀ x ∈ l, p x = true → p (f x) = true) :
    (l.map fun x => if p x then f x else x).find? p = (l.find? p).map f := by
  induction l with
  | nil => rfl
  | cons x r ih =>
    have ih := ih fun y hy => hf y (List.mem_cons_of_mem _ hy)
    by_cases h : p x = true
    · simp [h, hf x List.mem_cons_self h]
    · simpa [h] using ih

/-- The first match of another key: as before. -/
theorem find_map_other {α : Type} {l : List α} {p q : α → Bool} {f : α → α} (hf : ∀ x ∈ l, p x = true → q x = false)
    (hg : ∀ x ∈ l, p x = true → q (f x) = false) :
    (l.map fun x => if p x then f x else x).find? q = l.find? q := by
  induction l with
  | nil => rfl
  | cons x r ih =>
    have ih := ih (fun y hy => hf y (List.mem_cons_of_mem _ hy)) fun y hy => hg y (List.mem_cons_of_mem _ hy)
    by_cases h : p x = true
    · simp only [List.map_cons, h, if_true, List.find?_cons, hf x List.mem_cons_self h, hg x List.mem_cons_self h]
      exact ih
    · simp only [List.map_cons, h, List.find?_cons]
      simp only [Bool.false_eq_true, if_false, ih]

/-! ## Threads -/

/-- A live thread stands in the list. -/
theorem State.find_of_live {s : State} {t : TRef} (h : s.live t = true) :
    s.threads.find? (fun x => x.ref == t) = some (s.th t) := by
  unfold State.live State.th at h
  unfold State.th
  cases hf : s.threads.find? fun x => x.ref == t with
  | none => rw [hf] at h; exact absurd h (by simp)
  | some x => rfl

/-- A live thread has the name that it is looked up by. -/
theorem State.th_ref {s : State} {t : TRef} (h : s.live t = true) : (s.th t).ref = t := by
  have := List.find?_some (State.find_of_live h)
  simpa using this

/-- The thread changed. -/
theorem State.th_modTh_same {s : State} {t : TRef} {f : Thread → Thread} (h : s.live t = true) (hf : ∀ x, (f x).ref = x.ref) :
    (s.modTh t f).th t = f (s.th t) := by
  have h1 : (s.modTh t f).threads.find? (fun x => x.ref == t) = (s.threads.find? fun x => x.ref == t).map f :=
    find_map_same fun x _ hx => by rw [hf x]; exact hx
  rw [State.th, h1, State.find_of_live h]
  rfl

/-- Every other thread is as before. -/
theorem State.th_modTh_other {s : State} {t u : TRef} {f : Thread → Thread} (hu : u ≠ t) (hf : ∀ x, (f x).ref = x.ref) :
    (s.modTh t f).th u = s.th u := by
  have h1 : (s.modTh t f).threads.find? (fun x => x.ref == u) = s.threads.find? fun x => x.ref == u := by
    refine find_map_other (fun x _ hx => ?_) fun x _ hx => ?_
    · rw [beq_iff_eq.mp hx]; exact beq_false_of_ne hu.symm
    · rw [hf x, beq_iff_eq.mp hx]; exact beq_false_of_ne hu.symm
  rw [State.th, h1]
  rfl

/-! ## Bundles -/

/-- The bundle changed. -/
theorem State.bu_modBu_same {s : State} {blk idx : Nat} {f : Bundle → Bundle} (h : ∃ b ∈ s.bundles, b.blk = blk ∧ b.idx = idx)
    (hf : ∀ b, (f b).blk = b.blk ∧ (f b).idx = b.idx) : (s.modBu blk idx f).bu blk idx = f (s.bu blk idx) := by
  have h1 : (s.modBu blk idx f).bundles.find? (fun x => x.blk == blk && x.idx == idx) =
      (s.bundles.find? fun x => x.blk == blk && x.idx == idx).map f :=
    find_map_same fun x _ hx => by rw [(hf x).1, (hf x).2]; exact hx
  have h2 : (s.bundles.find? fun x => x.blk == blk && x.idx == idx).isSome := by
    obtain ⟨b, hb, hk, hi⟩ := h
    exact List.find?_isSome.mpr ⟨b, hb, by simp [hk, hi]⟩
  obtain ⟨b, hb⟩ := Option.isSome_iff_exists.mp h2
  simp only [State.bu, h1, hb, Option.map_some, Option.getD_some]

/-- Every other bundle is as before. -/
theorem State.bu_modBu_other {s : State} {blk idx blk' idx' : Nat} {f : Bundle → Bundle} (hn : ¬(blk' = blk ∧ idx' = idx))
    (hf : ∀ b, (f b).blk = b.blk ∧ (f b).idx = b.idx) : (s.modBu blk idx f).bu blk' idx' = s.bu blk' idx' := by
  have key : ∀ x : Bundle, (x.blk == blk && x.idx == idx) = true → (x.blk == blk' && x.idx == idx') = false := by
    intro x hx
    rw [Bool.and_eq_true, beq_iff_eq, beq_iff_eq] at hx
    rw [hx.1, hx.2, Bool.eq_false_iff]
    intro h
    rw [Bool.and_eq_true, beq_iff_eq, beq_iff_eq] at h
    exact hn ⟨h.1.symm, h.2.symm⟩
  have h1 : (s.modBu blk idx f).bundles.find? (fun x => x.blk == blk' && x.idx == idx') =
      s.bundles.find? fun x => x.blk == blk' && x.idx == idx' := by
    refine find_map_other (fun x _ hx => key x hx) fun x _ hx => ?_
    rw [(hf x).1, (hf x).2]
    exact key x hx
  simp only [State.bu, h1]

/-- Changes of threads leave bundles, and changes of bundles leave threads. -/
theorem State.bu_modTh (s : State) (t : TRef) (f : Thread → Thread) (blk idx : Nat) : (s.modTh t f).bu blk idx = s.bu blk idx :=
  rfl
theorem State.buOf_modTh (s : State) (t u : TRef) (f : Thread → Thread) : (s.modTh t f).buOf u = s.buOf u := rfl
theorem State.th_modBu (s : State) (blk idx : Nat) (f : Bundle → Bundle) (t : TRef) : (s.modBu blk idx f).th t = s.th t := rfl
theorem State.bk_modTh (s : State) (t : TRef) (f : Thread → Thread) (blk : Nat) : (s.modTh t f).bk blk = s.bk blk := rfl
theorem State.bk_modBu (s : State) (blk idx : Nat) (f : Bundle → Bundle) (k : Nat) : (s.modBu blk idx f).bk k = s.bk k := rfl

/-! ## Blocks -/

/-- The block changed. -/
theorem State.bk_modBk_same {s : State} {id : Nat} {f : Block → Block} (h : s.hasBk id = true) (hf : ∀ b, (f b).id = b.id) :
    (s.modBk id f).bk id = f (s.bk id) := by
  have h1 : (s.modBk id f).blocks.find? (fun x => x.id == id) = (s.blocks.find? fun x => x.id == id).map f :=
    find_map_same fun x _ hx => by rw [hf x]; exact hx
  have h2 : (s.blocks.find? fun x => x.id == id).isSome := by
    obtain ⟨b, hb, hk⟩ := List.any_eq_true.mp h
    exact List.find?_isSome.mpr ⟨b, hb, hk⟩
  obtain ⟨b, hb⟩ := Option.isSome_iff_exists.mp h2
  simp only [State.bk, h1, hb, Option.map_some, Option.getD_some]

/-- Every other block is as before. -/
theorem State.bk_modBk_other {s : State} {id k : Nat} {f : Block → Block} (hn : k ≠ id) (hf : ∀ b, (f b).id = b.id) :
    (s.modBk id f).bk k = s.bk k := by
  have h1 : (s.modBk id f).blocks.find? (fun x => x.id == k) = s.blocks.find? fun x => x.id == k := by
    refine find_map_other (fun x _ hx => ?_) fun x _ hx => ?_
    · rw [beq_iff_eq.mp hx]; exact beq_false_of_ne hn.symm
    · rw [hf x, beq_iff_eq.mp hx]; exact beq_false_of_ne hn.symm
  simp only [State.bk, h1]

/-! ## Registers -/

/-- The register written is read, where the rows have it. -/
theorem Bundle.reg_setReg_self {b : Bundle} {lane p : Nat} (v : Word) (hl : lane < b.rf.length)
    (hp : p < (b.rf.getD lane []).length) : (b.setReg lane p v).reg lane p = v := by
  unfold Bundle.setReg Bundle.reg
  rw [List.getD_eq_getElem?_getD, List.getElem?_eq_getElem hl] at hp
  simp only [Option.getD_some] at hp
  simp [List.getD_eq_getElem?_getD, List.getElem?_eq_getElem hl, hp]

/-- Every other register of the bundle is as before. -/
theorem Bundle.reg_setReg_other (b : Bundle) {lane p lane' p' : Nat} (v : Word) (h : ¬(lane' = lane ∧ p' = p)) :
    (b.setReg lane p v).reg lane' p' = b.reg lane' p' := by
  unfold Bundle.setReg Bundle.reg
  simp only [List.getD_eq_getElem?_getD, List.getElem?_modify]
  by_cases hl : lane = lane'
  · subst hl
    have hp : p ≠ p' := fun e => h ⟨rfl, e.symm⟩
    cases b.rf[lane]? with
    | none => rfl
    | some r => simp [hp]
  · cases b.rf[lane']? <;> simp [hl]

/-- With no sidecar attached, a register write is only that. -/
theorem Bundle.write_plain (b : Bundle) (lane p : Nat) (v : Word) (h : attached b.viewCk b.viewAcc = false) :
    b.write lane p v = b.setReg lane p v := by
  simp [Bundle.write, h]

end Sys2Proof.Machine
end

