-- ==== Sys2Proof/Laws/Memory.lean ====
section
/-! SUPPORT. Memory: a byte read after a byte written, and the canonical form, which every memory operation keeps. -/

namespace Sys2Proof.Machine

open Sys2Proof.Safety

/-! ## The canonical form -/

/-- A cell in front of a canonical list: nonzero, and below the next. -/
theorem Memory.wf_cons {k : Nat} {b : Byte} {r : List Host.Cell} :
    Memory.wf ((k, b) :: r) = true ↔ b ≠ 0 ∧ (∀ c ∈ r.head?, k < c.1) ∧ Memory.wf r = true := by
  cases r with
  | nil => simp [Memory.wf]
  | cons c r => obtain ⟨k', b'⟩ := c; simp [Memory.wf, and_assoc, and_left_comm]

/-- The rest of a canonical list is canonical. -/
theorem Memory.wf_tail {c : Host.Cell} {r : List Host.Cell} (h : Memory.wf (c :: r) = true) : Memory.wf r = true :=
  (Memory.wf_cons.mp h).2.2

/-- In a canonical list the first address is the least. -/
theorem Memory.wf_lt {k : Nat} {b : Byte} {r : List Host.Cell} (h : Memory.wf ((k, b) :: r) = true) :
    ∀ c ∈ r, k < c.1 := by
  induction r generalizing k b with
  | nil => simp
  | cons d r ih =>
    obtain ⟨k', b'⟩ := d
    obtain ⟨-, h1, h2⟩ := Memory.wf_cons.mp h
    have h3 : k < k' := h1 (k', b') rfl
    intro c hc
    rcases List.mem_cons.mp hc with rfl | hc
    · exact h3
    · exact Nat.lt_trans h3 (ih h2 c hc)

/-- A cell before all of a canonical list's keeps it canonical. -/
theorem Memory.wf_of {k : Nat} {b : Byte} {r : List Host.Cell} (hb : b ≠ 0) (hk : ∀ c ∈ r, k < c.1)
    (h : Memory.wf r = true) : Memory.wf ((k, b) :: r) = true :=
  Memory.wf_cons.mpr ⟨hb, fun c hc => hk c (List.mem_of_mem_head? hc), h⟩

/-- The three places where a byte can go. -/
theorem cellSet_lt {k a : Nat} (b v : Byte) (r : List Host.Cell) (h : a < k) :
    cellSet ((k, b) :: r) a v = if v = 0 then (k, b) :: r else (a, v) :: (k, b) :: r := if_pos h

theorem cellSet_eq (a : Nat) (b v : Byte) (r : List Host.Cell) :
    cellSet ((a, b) :: r) a v = if v = 0 then r else (a, v) :: r := by
  rw [cellSet, if_neg (Nat.lt_irrefl a), if_pos rfl]

theorem cellSet_gt {k a : Nat} (b v : Byte) (r : List Host.Cell) (h : k < a) :
    cellSet ((k, b) :: r) a v = (k, b) :: cellSet r a v := by
  rw [cellSet, if_neg (by omega), if_neg (by omega)]

/-- What `cellSet` lists: the address written, or what was listed before. -/
theorem cellSet_mem {m : List Host.Cell} {a : Nat} {v : Byte} {c : Host.Cell} (h : c ∈ cellSet m a v) :
    c.1 = a ∨ c ∈ m := by
  induction m with
  | nil =>
    rw [cellSet] at h
    split at h
    · exact .inr h
    · exact .inl (by rw [List.mem_singleton.mp h])
  | cons d r ih =>
    obtain ⟨k, b⟩ := d
    rcases Nat.lt_trichotomy a k with hk | rfl | hk
    · rw [cellSet_lt b v r hk] at h
      split at h
      · exact .inr h
      · exact (List.mem_cons.mp h).imp (fun h => by rw [h]) id
    · rw [cellSet_eq] at h
      split at h
      · exact .inr (List.mem_cons_of_mem _ h)
      · exact (List.mem_cons.mp h).imp (fun h => by rw [h]) (List.mem_cons_of_mem _)
    · rw [cellSet_gt b v r hk] at h
      rcases List.mem_cons.mp h with rfl | h
      · exact .inr List.mem_cons_self
      · exact (ih h).imp id (List.mem_cons_of_mem _)

/-- Writing a byte keeps the canonical form. -/
theorem cellSet_wf {m : List Host.Cell} (a : Nat) (v : Byte) (h : Memory.wf m = true) :
    Memory.wf (cellSet m a v) = true := by
  induction m with
  | nil =>
    rw [cellSet]
    split
    · rfl
    · next hv => exact Memory.wf_of hv (fun _ h => nomatch h) rfl
  | cons d r ih =>
    obtain ⟨k, b⟩ := d
    have hlt := Memory.wf_lt h
    obtain ⟨hb, -, hr⟩ := Memory.wf_cons.mp h
    rcases Nat.lt_trichotomy a k with hk | rfl | hk
    · rw [cellSet_lt b v r hk]
      split
      · exact h
      · next hv =>
        refine Memory.wf_of hv (fun c hc => ?_) h
        rcases List.mem_cons.mp hc with rfl | hc
        · exact hk
        · exact Nat.lt_trans hk (hlt c hc)
    · rw [cellSet_eq]
      split
      · exact hr
      · next hv => exact Memory.wf_of hv hlt hr
    · rw [cellSet_gt b v r hk]
      refine Memory.wf_of hb (fun c hc => ?_) (ih hr)
      rcases cellSet_mem hc with h3 | hc
      · omega
      · exact hlt c hc

/-- Writing bytes keeps it. -/
theorem writeCells_wf {m : List Host.Cell} (a n v : Nat) (h : Memory.wf m = true) :
    Memory.wf (writeCells m a n v) = true := by
  induction n generalizing m a v with
  | zero => exact h
  | succ n ih => exact ih _ _ (cellSet_wf _ _ h)

/-- Listing some of the cells keeps it. -/
theorem filter_wf {m : List Host.Cell} (p : Host.Cell → Bool) (h : Memory.wf m = true) :
    Memory.wf (m.filter p) = true := by
  induction m with
  | nil => rfl
  | cons d r ih =>
    obtain ⟨k, b⟩ := d
    have hr := ih (Memory.wf_tail h)
    by_cases hp : p (k, b) = true
    · rw [List.filter_cons_of_pos hp]
      exact Memory.wf_of (Memory.wf_cons.mp h).1 (fun c hc => Memory.wf_lt h c (List.mem_filter.mp hc).1) hr
    · rwa [List.filter_cons_of_neg hp]

/-- Zeroing a range keeps it. -/
theorem zeroCells_wf {m : List Host.Cell} (lo hi : Nat) (h : Memory.wf m = true) : Memory.wf (zeroCells m lo hi) = true :=
  filter_wf _ h

/-- A block's image is canonical. -/
theorem imageCells_wf (img : List Byte) : Memory.wf (imageCells img) = true := writeCells_wf _ _ _ rfl

/-- A word placed with its tables keeps it. -/
theorem loadedMem_wf {m : List Host.Cell} (w : Nat) (h : Memory.wf m = true) : Memory.wf (loadedMem m w) = true :=
  writeCells_wf _ _ _ (writeCells_wf _ _ _ (writeCells_wf _ _ _ (writeCells_wf _ _ _ (writeCells_wf _ _ _ h))))

/-! ## A byte read after a byte written -/

/-- The three places where a byte can stand. -/
theorem cellGet_lt {k a : Nat} (b : Byte) (r : List Host.Cell) (h : a < k) : cellGet ((k, b) :: r) a = 0 := if_pos h

theorem cellGet_eq (a : Nat) (b : Byte) (r : List Host.Cell) : cellGet ((a, b) :: r) a = b := by
  rw [cellGet, if_neg (Nat.lt_irrefl a), if_pos rfl]

theorem cellGet_gt {k a : Nat} (b : Byte) (r : List Host.Cell) (h : k < a) : cellGet ((k, b) :: r) a = cellGet r a := by
  rw [cellGet, if_neg (by omega), if_neg (by omega)]

/-- An address below every listed one reads as zero. -/
theorem cellGet_below {m : List Host.Cell} {a : Nat} (h : ∀ c ∈ m, a < c.1) : cellGet m a = 0 := by
  cases m with
  | nil => rfl
  | cons d r => exact cellGet_lt d.2 r (h d List.mem_cons_self)

/-- The byte written is read. -/
theorem cellGet_cellSet_self {m : List Host.Cell} (a : Nat) (v : Byte) (h : Memory.wf m = true) :
    cellGet (cellSet m a v) a = v := by
  induction m with
  | nil =>
    rw [cellSet]
    split
    · next hv => exact hv.symm
    · exact cellGet_eq a v []
  | cons d r ih =>
    obtain ⟨k, b⟩ := d
    rcases Nat.lt_trichotomy a k with hk | rfl | hk
    · rw [cellSet_lt b v r hk]
      split
      · next hv => rw [cellGet_lt b r hk, hv]
      · exact cellGet_eq _ _ _
    · rw [cellSet_eq]
      split
      · next hv => rw [cellGet_below (Memory.wf_lt h), hv]
      · exact cellGet_eq _ _ _
    · rw [cellSet_gt b v r hk, cellGet_gt _ _ hk]
      exact ih (Memory.wf_tail h)

/-- Every other byte reads as before. -/
theorem cellGet_cellSet_other {m : List Host.Cell} (a : Nat) (v : Byte) {x : Nat} (hx : x ≠ a) (h : Memory.wf m = true) :
    cellGet (cellSet m a v) x = cellGet m x := by
  have head (r : List Host.Cell) (hr : x < a → cellGet r x = 0) : cellGet ((a, v) :: r) x = cellGet r x := by
    rcases Nat.lt_or_gt_of_ne hx with h1 | h1
    · rw [cellGet_lt _ _ h1, hr h1]
    · exact cellGet_gt _ _ h1
  induction m with
  | nil =>
    rw [cellSet]
    split
    · rfl
    · exact head [] fun _ => rfl
  | cons d r ih =>
    obtain ⟨k, b⟩ := d
    have hlt := Memory.wf_lt h
    rcases Nat.lt_trichotomy a k with hk | rfl | hk
    · rw [cellSet_lt b v r hk]
      split
      · rfl
      · exact head _ fun h1 => cellGet_lt b r (Nat.lt_trans h1 hk)
    · have hr : x < a → cellGet r x = 0 := fun h1 => cellGet_below fun c hc => Nat.lt_trans h1 (hlt c hc)
      have ho : cellGet ((a, b) :: r) x = cellGet r x := by
        rcases Nat.lt_or_gt_of_ne hx with h1 | h1
        · rw [cellGet_lt _ _ h1, hr h1]
        · exact cellGet_gt _ _ h1
      rw [cellSet_eq, ho]
      split
      · rfl
      · exact head r hr
    · rw [cellSet_gt b v r hk]
      rcases Nat.lt_trichotomy x k with h1 | rfl | h1
      · rw [cellGet_lt _ _ h1, cellGet_lt _ _ h1]
      · rw [cellGet_eq, cellGet_eq]
      · rw [cellGet_gt _ _ h1, cellGet_gt _ _ h1]
        exact ih (Memory.wf_tail h)

/-! ## The state's memories -/

/-- Nothing listed is canonical: the machine after reset. -/
theorem reset_memoryWf : MemoryWf State.reset := ⟨rfl, fun _ h => nomatch h⟩

/-- An update that leaves device memory and the blocks alone. -/
theorem MemoryWf.of_same {s s' : State} (h : MemoryWf s) (hm : s'.mem = s.mem) (hb : s'.blocks = s.blocks) : MemoryWf s' := by
  unfold MemoryWf
  rw [hm, hb]
  exact h

/-- A change of one block that keeps its bytes canonical. -/
theorem MemoryWf.modBk {s : State} (h : MemoryWf s) (id : Nat) {f : Block → Block}
    (hf : ∀ b, Memory.wf b.mem = true → Memory.wf (f b).mem = true) : MemoryWf (s.modBk id f) := by
  refine ⟨h.1, fun b hb => ?_⟩
  obtain ⟨c, hc, rfl⟩ := List.mem_map.mp hb
  by_cases hid : (c.id == id) = true
  · rw [if_pos hid]; exact hf c (h.2 c hc)
  · rw [if_neg hid]; exact h.2 c hc

/-- A fold of updates that each keep the form. -/
theorem MemoryWf.foldl {α : Type} {f : State → α → State} (hf : ∀ s a, MemoryWf s → MemoryWf (f s a)) (l : List α) {s : State}
    (h : MemoryWf s) : MemoryWf (l.foldl f s) := by
  induction l generalizing s with
  | nil => exact h
  | cons a r ih => exact ih (hf s a h)

/-- A monitor's latch, the touched bitmap and full/empty bits leave the bytes alone. -/
theorem MemoryWf.latch {s : State} (h : MemoryWf s) (k : MonKey) : MemoryWf (s.latch k) := h
theorem MemoryWf.latchCore {s : State} (h : MemoryWf s) (core vd line : Nat) : MemoryWf (s.latchCore core vd line) := h
theorem MemoryWf.touch {s : State} (h : MemoryWf s) (ma : Nat) : MemoryWf (s.touch ma) := h
theorem MemoryWf.setFeDev {s : State} (h : MemoryWf s) (ma : Nat) (full : Bool) : MemoryWf (s.setFeDev ma full) := h
theorem MemoryWf.setFeScr {s : State} (h : MemoryWf s) (blk off : Nat) (full : Bool) : MemoryWf (s.setFeScr blk off full) :=
  MemoryWf.modBk h blk fun _ hb => hb
theorem MemoryWf.modTh {s : State} (h : MemoryWf s) (t : TRef) (f : Thread → Thread) : MemoryWf (s.modTh t f) := h
theorem MemoryWf.modBu {s : State} (h : MemoryWf s) (blk idx : Nat) (f : Bundle → Bundle) : MemoryWf (s.modBu blk idx f) := h
theorem MemoryWf.modCo {s : State} (h : MemoryWf s) (core : Nat) (f : Core → Core) : MemoryWf (s.modCo core f) := h
theorem MemoryWf.setReg {s : State} (h : MemoryWf s) (t : TRef) (d : Nat) (v : Word) : MemoryWf (s.setReg t d v) := h

/-- A write at a home slice, a scrub, a page-in's fill and a write at an array keep the form. -/
theorem MemoryWf.homeWrite {s : State} (h : MemoryWf s) (vd gpa ma n v : Nat) : MemoryWf (s.homeWrite vd gpa ma n v) :=
  ⟨writeCells_wf _ _ _ h.1, h.2⟩

theorem MemoryWf.scrubRange {s : State} (h : MemoryWf s) (ma len : Nat) : MemoryWf (s.scrubRange ma len) :=
  ⟨zeroCells_wf _ _ h.1, h.2⟩

theorem MemoryWf.clearWhole {s : State} (h : MemoryWf s) (ma n : Nat) : MemoryWf (s.clearWhole ma n) := by
  dsimp only [State.clearWhole]
  split
  · exact h
  · exact h

theorem MemoryWf.clearSector {s : State} (h : MemoryWf s) (ma : Nat) : MemoryWf (s.clearSector ma) := MemoryWf.clearWhole h _ _

theorem MemoryWf.scrWrite {s : State} (h : MemoryWf s) (blk off n v : Nat) : MemoryWf (s.scrWrite blk off n v) :=
  MemoryWf.latch (MemoryWf.modBk h blk fun _ hb => writeCells_wf _ _ _ hb) _

/-- A change of a meter, and requests at the meters, leave the bytes alone. -/
theorem MemoryWf.modSlice {s : State} (h : MemoryWf s) (die sl : Nat) (f : Slice → Slice) : MemoryWf (s.modSlice die sl f) := by
  dsimp only [State.modSlice]
  split
  · exact h
  · exact h

theorem MemoryWf.charge {s : State} (h : MemoryWf s) (vd ma : Nat) : MemoryWf (s.charge vd ma) := MemoryWf.modSlice h _ _ _
theorem MemoryWf.chargeNow {s : State} (h : MemoryWf s) (vd ma : Nat) : MemoryWf (s.chargeNow vd ma) :=
  MemoryWf.modSlice h _ _ _

/-- An update that gives device memory other bytes. -/
theorem MemoryWf.of_mem {s s' : State} (h : MemoryWf s) {m : List Host.Cell} (hw : Memory.wf m = true) (hm : s'.mem = m)
    (hb : s'.blocks = s.blocks) : MemoryWf s' := by
  unfold MemoryWf
  rw [hm, hb]
  exact ⟨hw, h.2⟩

/-- The words that an unnoticed error changes keep the form. -/
theorem MemoryWf.upsetWords {s : State} (h : MemoryWf s) (ma k v : Nat) : MemoryWf (s.upsetWords ma k v) :=
  MemoryWf.of_mem h (writeCells_wf ma (8 * k) _ h.1) rfl rfl

theorem fillCells_wf {m : List Host.Cell} (ma n : Nat) (data : List Byte) (h : Memory.wf m = true) :
    Memory.wf (fillCells m ma n data) = true := writeCells_wf _ _ _ (zeroCells_wf _ _ h)

theorem MemoryWf.fillFrame {s : State} (h : MemoryWf s) (vd gpa ma : Nat) (data bits : List Byte) :
    MemoryWf (s.fillFrame vd gpa ma data bits) := by
  rw [State.fillFrame]
  refine MemoryWf.foldl (fun _ _ h => MemoryWf.latch (MemoryWf.charge h _ _) _) _ (s := State.touch _ ma) ?_
  exact MemoryWf.of_mem h (fillCells_wf ma 65536 data h.1) (by rw [State.touch_mem]) (by rw [State.touch_blocks])

end Sys2Proof.Machine
end

