-- ==== Sys2Proof/Tests/Slice0.lean ====
section
/-! SUPPORT. The model's own tests: ill-formed terms that each check refuses, words of the spec's encodings, and single steps
with the results that the spec's worked examples give. -/

namespace Sys2Proof.Tests

set_option Elab.async false

open Sys2Proof.Machine Sys2Proof.Safety

/-! ## Ill-formed terms, one for each check (R29, R51, R54, R62 to R76) -/

theorem test_wf_range : (Instr.add 5 6 128).wellFormed = false ∧ (Instr.movi 3 (2 ^ 19)).wellFormed = false := by decide
theorem test_wf_pair : (Instr.addd 5 6 8).wellFormed = false ∧ (Instr.ldd 8 11 0 0 0).wellFormed = false := by decide
theorem test_wf_quad : (Instr.ldq 6 10 0 0 0).wellFormed = false ∧ (Instr.mmaq 34 40).wellFormed = false := by decide
theorem test_wf_field : (Instr.bfeN32 4 5 30 2).wellFormed = false ∧ (Instr.bfi 4 5 30 1).wellFormed = true := by decide
theorem test_wf_compare : (Instr.cmp 6 0 1 2 2).wellFormed = false ∧ (Instr.cmp 10 0 1 2 0).wellFormed = false := by decide
theorem test_wf_compare_mode : (Instr.cmp 2 3 1 2 0).wellFormed = false ∧ (Instr.cmpi 2 3 1 2).wellFormed = false := by decide
theorem test_wf_mfs : (Instr.mfs 4 0x00E).wellFormed = false ∧ (Instr.mfs 5 0x010).wellFormed = false := by decide
theorem test_wf_mts : (Instr.mts 4 0x000).wellFormed = false ∧ (Instr.mts 4 0x100).wellFormed = true := by decide
theorem test_wf_rounding : (Instr.cvtF32S32 2 3 7).wellFormed = false ∧ (Instr.frnd 2 3 7).wellFormed = false := by decide
theorem test_wf_policy : (Instr.ldw 4 2 0 6 2).wellFormed = false ∧ (Instr.std 6 10 1 7).wellFormed = false := by decide
theorem test_wf_reduction : (Instr.atadd 10 10 5 1 0).wellFormed = false ∧ (Instr.atadd 10 10 5 0 0).wellFormed = true := by
  decide
theorem test_wf_branch : (Instr.br 3 0 2).wellFormed = false ∧ (Instr.jr 3 0 8).wellFormed = false := by decide
theorem test_wf_scope : (Instr.fence 0 6).wellFormed = false ∧ (Instr.setscope 6).wellFormed = false := by decide
theorem test_wf_bar : (Instr.bar 1 4).wellFormed = false ∧ (Instr.bar 5 0).wellFormed = false ∧
    (Instr.bar 0 15).wellFormed = true := by decide

/-! ## Words written out from the spec's encodings, one or more for each family -/

/-- ALU, UNARY and the immediates: the worked words of R76 and of the integer chapter. -/
theorem test_word_add : decode 0x042860E0 = .ok (.add 5 6 7) := rfl
theorem test_word_mov : decode (0x02 * 2 ^ 26 + 9 * 2 ^ 19 + 8 * 2 ^ 12) = .ok (.mov 9 8) := rfl
theorem test_word_lui : decode 0x241891A3 = .ok (.lui 3 0x91A3) := rfl
theorem test_word_shri : decode 0x1C387403 = .ok (.shri 7 7 3) := rfl
theorem test_word_bfe : decode 0x28205503 = .ok (.bfeS32 4 5 8 3) := rfl
/-- Compares and the predicate stack. -/
theorem test_word_cmp : decode 0x2C801040 = .ok (.cmp 2 0 1 2 0) := rfl
theorem test_word_ballot : decode 0x34184007 = .ok (.ballot 3 4) := rfl
/-- Affine, special registers, across the lanes. -/
theorem test_word_aadd : decode 0x380CC800 = .ok (.aadd 3 3 2) := rfl
theorem test_word_aget : decode 0x39C00002 = .ok (.aget 0 2) := rfl
theorem test_word_mts : decode 0x4000A81A = .ok (.mts 10 0x01A) := rfl
theorem test_word_redadd : decode 0x44488005 = .ok (.redadd 9 8) := rfl
/-- Conversions, F32, F64, H2 and long latency. -/
theorem test_word_cvt : decode 0x48103B0A = .ok (.cvtE4m3F32 2 3 5 1 0) := rfl
theorem test_word_fadd : decode (0x13 * 2 ^ 26 + 4 * 2 ^ 19 + 5 * 2 ^ 12 + 6 * 2 ^ 5) = .ok (.faddF32 4 5 6) := rfl
theorem test_word_fadd_f64 : decode (0x14 * 2 ^ 26 + 4 * 2 ^ 19 + 6 * 2 ^ 12 + 8 * 2 ^ 5) = .ok (.faddF64 4 6 8) := rfl
theorem test_word_f2mul : decode 0x54082072 = .ok (.f2mul 1 2 3 1) := rfl
theorem test_word_fdiv : decode 0x5C2050C4 = .ok (.fdiv 4 5 6 2 0) := rfl
theorem test_word_div : decode 0x601840A3 = .ok (.div 3 4 5 1 1) := rfl
/-- Modular. -/
theorem test_word_mtom : decode 0x68202003 = .ok (.mtom 4 2) := rfl
theorem test_word_bflyc : decode 0x6840C006 = .ok (.bflyc 8 12) := rfl
/-- Engines. -/
theorem test_word_mma : decode 0xEC020500 = .ok (.mma 32 40) := rfl
theorem test_word_mspa : decode 0xEC820502 = .ok (.mspa 16 32 40) := rfl
theorem test_word_tsum : decode 0xEC02C510 = .ok (.tsum 44 40) := rfl
theorem test_word_put : decode 0xEC02C50C = .ok (.put 44 40) := rfl
/-- Loads, stores, atomics. -/
theorem test_word_ldd : decode 0x8040AF13 = .ok (.ldd 8 10 30 1 3) := rfl
theorem test_word_std : decode 0x9430A0C0 = .ok (.std 6 10 1 4) := rfl
theorem test_word_atcas : decode 0xC4C0A381 = .ok (.atcas 24 10 28 0 1) := rfl
/-- Full/empty. -/
theorem test_word_feldw : decode 0xC8202002 = .ok (.feldw 4 2 0 2) := rfl
theorem test_word_feset : decode 0xD800A0A1 = .ok (.feset 10 5) := rfl
/-- Branches and jumps. -/
theorem test_word_br : decode 0xDDFFFFFF = .ok (.br 1 1 8388607) := rfl
theorem test_word_jr : decode 0xE4808000 = .ok (.jr 0 1 8) := rfl
/-- SYNC, THREAD, SYSTEM. -/
theorem test_word_fence : decode 0xF0022000 = .ok (.fence 2 2) := rfl
theorem test_word_bwaitt : decode 0xF01A80E7 = .ok (.bwaitt 3 40 7) := rfl
theorem test_word_qpush : decode 0xF000310D = .ok (.qpush 3 8) := rfl
theorem test_word_spawn : decode 0xF400A180 = .ok (.spawn 10 12) := rfl
theorem test_word_trap : decode 0xF8024680 = .ok (.trap 36 52) := rfl
theorem test_word_rdcyc : decode 0xF8300005 = .ok (.rdcyc 6) := rfl
/-- Words that the spec rejects: no ALU function 0x1F, a reserved bit, a policy, a field beyond the word. -/
theorem test_word_illegal : (decode 0x0400001F).isOk = false ∧ (decode 0xF002A000).isOk = false ∧
    (decode 0x7C202062).isOk = false ∧ (decode 0x1C387423).isOk = false ∧ (decode 0).isOk = false ∧
    (decode 0xFFFFFFFF).isOk = false := by decide
/-- The encoder gives the spec's words. -/
theorem test_encode : encode (.ldd 8 10 30 1 3) = 0x8040AF13 ∧ encode (.trap 36 52) = 0xF8024680 ∧
    encode (.mspa 16 32 40) = 0xEC820502 := by decide

/-! ## Single steps -/

/-- The thread that a test runs. -/
def t0 : TRef := { blk := 3, bun := 0, lane := 0 }

/-- A state whose next step runs a word, with registers of the thread set. -/
noncomputable def loaded (w : Nat) (rs : List (Nat × Nat)) : State :=
  rs.foldl (fun s r => s.setReg t0 r.1 (BitVec.ofNat 32 r.2)) (State.reset.withFetchWord 32 w)

/-- Whether an outcome is a next state with a property. -/
def nextIs (o : Host.Outcome State Fault Refusal) (p : State → Bool) : Bool :=
  match o with
  | .next s => p s
  | _ => false

/-- A register after the step of a word. -/
noncomputable def gives (w : Nat) (rs : List (Nat × Nat)) (d v : Nat) : Bool :=
  nextIs (step (loaded w rs)) fun s => (s.reg t0 d).toNat == v && (s.th t0).pc == dw (codeAddr + 4)

/-- R113: a sum wraps. -/
theorem test_add_wraps : gives (encode (.add 5 6 7)) [(6, 0xFFFFFFFF), (7, 2)] 5 1 = true := by decide +kernel
/-- R113: BSEL's example. -/
theorem test_bsel : gives (encode (.bsel 5 6 7)) [(6, 0x80), (7, 0x2C00)] 5 0xFF80 = true := by decide +kernel
/-- R113: MAD reads vd before it writes it. -/
theorem test_mad : gives (encode (.mad 5 6 6)) [(5, 7), (6, 3)] 5 16 = true := by decide +kernel
/-- R113: an arithmetic shift by 32 or more fills with the sign. -/
theorem test_sra : gives (encode (.sra 5 6 7)) [(6, 0x80000000), (7, 40)] 5 0xFFFFFFFF = true := by decide +kernel
/-- R114: a pair that is its own source. -/
theorem test_addd : gives (encode (.addd 6 6 6)) [(6, 0x80000000), (7, 1)] 7 3 = true := by decide +kernel
/-- R115: the absolute value of the least number. -/
theorem test_abs : gives (encode (.abs 5 6)) [(6, 0x80000000)] 5 0x80000000 = true := by decide +kernel
theorem test_clz : gives (encode (.clz 5 6)) [(6, 0)] 5 32 = true := by decide +kernel
/-- R116: the LI sequence's last word, ADDI −392. -/
theorem test_addi : gives 0x0C183E78 [(3, 0x12345800)] 3 0x12345678 = true := by decide +kernel
theorem test_lui : gives 0x241891A3 [] 3 0x12346000 = true := by decide +kernel
/-- R117: the example of BFE. -/
theorem test_bfe : gives (encode (.bfeS32 5 6 4 7)) [(6, 0xA50)] 5 0xFFFFFFA5 = true := by decide +kernel
theorem test_bfe_n : gives (encode (.bfeN32 5 6 4 7)) [(6, 0xA50)] 5 0xA5 = true := by decide +kernel
/-- R118, R119: a compare pushes. -/
theorem test_cmp : nextIs (step (loaded 0x2C801040 [(1, 0xFFFFFFFF), (2, 0)])) (fun s => (s.th t0).stack == [true]) = true := by
  decide +kernel
/-- R133: the third packing conversion of the chapter: 0.5 above 1.0 and −2.0. -/
theorem test_cvt_pk : gives 0x4830C18A [(6, 0xC0380000), (12, 0x3F000000)] 6 0x30C03800 = true := by decide +kernel
/-- R133: the fourth: 470 saturates, with OF and NX. -/
theorem test_cvt_sat : nextIs (step (loaded 0x4830D18A [(6, 0x30C03800), (13, 0x43EB0000)]))
    (fun s => (s.reg t0 6).toNat == 0x7E30C038 && (s.th t0).fpcsr != 0) = true := by decide +kernel
/-- R140: the example of F2MUL. -/
theorem test_f2mul : gives 0x54082072 [(2, 0x40003F80), (3, 0x3F004040)] 1 0x3F804040 = true := by decide +kernel
/-- R137: 1.0 + 3.0. -/
theorem test_fadd : gives (encode (.faddF32 4 5 6)) [(5, 0x3F800000), (6, 0x40400000)] 4 0x40800000 = true := by decide +kernel
/-- R144: the rows of the table, as pending results. -/
noncomputable def pends (i : Instr) (rs : List (Nat × Nat)) (v : Nat) : Bool :=
  nextIs (step (loaded (encode i) rs)) fun s => (s.th t0).pending.map (fun p => p.vals) == [[BitVec.ofNat 32 v]]
theorem test_div : pends (.div 3 4 5 1 0) [(4, 0xFFFFFFF9), (5, 2)] 0xFFFFFFFD = true := by decide +kernel
theorem test_div_zero : pends (.div 3 4 5 1 0) [(4, 7), (5, 0)] 0xFFFFFFFF = true := by decide +kernel
theorem test_rem : pends (.rem 3 4 5 1 0) [(4, 0xFFFFFFF9), (5, 2)] 0xFFFFFFFF = true := by decide +kernel
theorem test_rem_n : pends (.rem 3 4 5 1 1) [(4, 7), (5, 0)] 7 = true := by decide +kernel
/-- R107, R143: 1/3 in RNE. -/
theorem test_fdiv : pends (.fdiv 4 5 6 2 0) [(5, 0x3F800000), (6, 0x40400000)] 0x3EAAAAAB = true := by decide +kernel
/-- R147: the table for q = 13. -/
noncomputable def modulo (w : Nat) (rs : List (Nat × Nat)) (d v : Nat) : Bool :=
  nextIs (step ((loaded w rs).modBu 3 0 fun b => { b with modq := 13, modqi := 0x4EC4EC4EC4EC4EC5 }))
    fun s => (s.pair t0 d).toNat == v
theorem test_mtom : modulo 0x68202003 [(2, 5)] 4 2 = true := by decide +kernel
theorem test_mmulm : modulo 0x682040C2 [(4, 2), (6, 8)] 4 1 = true := by decide +kernel
theorem test_mfromm : modulo 0x68204004 [(4, 1)] 4 9 = true := by decide +kernel
theorem test_bflyc : modulo 0x6840C006 [(8, 4), (10, 5), (12, 6)] 8 1 = true := by decide +kernel
theorem test_bflyg : modulo 0x6840C007 [(8, 4), (10, 5), (12, 6)] 10 11 = true := by decide +kernel
theorem test_mredb : modulo 0x68210008 [(16, 3), (18, 1)] 4 6 = true := by decide +kernel
/-- R40: what MTS makes of MODQ 13. -/
theorem test_mts_modq : nextIs (step (loaded 0x4000A81A [(10, 13)]))
    (fun s => (s.buOf t0).modq == 13 && (s.buOf t0).modqi * 13 == -1) = true := by decide +kernel
/-- R123: ASETB's example, and AGET in lane 0. -/
theorem test_asetb : nextIs (step (loaded (encode (.asetb 4 10)) [(10, 0x20000)]))
    (fun s => (s.buOf t0).affine 4 == (dw 0x20000, 0)) = true := by decide +kernel
/-- R59: the backward branch of the encoding chapter, by one block. -/
theorem test_br : nextIs (step ((loaded 0xDDFFFFFF []).modTh t0 fun x => { x with stack := [true] }))
    (fun s => (s.th t0).pc == dw (codeAddr - 64) && (s.th t0).stack == []) = true := by decide +kernel
/-- R77, R400, R401: an illegal word enters the handler, with the word as TRAPVAL. -/
theorem test_illegal : nextIs (step (loaded 0x0400001F [])) (fun s => (s.th t0).pc == dw handlerAddr &&
    (s.th t0).trapCause == 1 && (s.th t0).trapPc == dw codeAddr && (s.th t0).trapVal == dw 0x0400001F) = true := by
  decide +kernel
/-- R404: TRAP's code, and the resuming TRET. -/
theorem test_trap : nextIs (step (loaded 0xF8024680 [])) (fun s => (s.th t0).trapCause == 0x11 &&
    (s.th t0).trapVal == dw (36 * 128 + 52)) = true := by decide +kernel
theorem test_tret : nextIs (step ((loaded (encode .tret) []).modTh t0 fun x =>
      { x with trapSave := some [true], trapPc := dw 0x50040 }))
    (fun s => (s.th t0).pc == dw 0x50040 && (s.th t0).stack == [true] && (s.th t0).trapSave == none) = true := by
  decide +kernel
/-- R40: a privileged special register. -/
theorem test_priv : nextIs (step (loaded (encode (.mfs 4 0x100)) [])) (fun s => (s.th t0).trapVal == dw 0x100 &&
    (s.th t0).trapCause == BitVec.ofNat 8 causePriv) = true := by decide +kernel
/-- R216: a misaligned store. -/
theorem test_align : nextIs (step (loaded (encode (.stw 4 2 0 0)) [(2, 0x50002)])) (fun s => (s.th t0).trapVal == dw 0x50002 &&
    (s.th t0).trapCause == BitVec.ofNat 8 causeAlignData) = true := by decide +kernel
/-- R222, R409: a .vol store reaches memory at once; a default one waits. -/
theorem test_store_vol : nextIs (step (loaded (encode (.stw 4 2 1 3)) [(2, 0x50200), (4, 0x11223344)]))
    (fun s => readCells s.mem 0x50204 4 == 0x11223344) = true := by decide +kernel
theorem test_store_waits : nextIs (step ((loaded (encode (.stw 4 2 1 0)) [(2, 0x50200), (4, 0x11223344)]).modBk 3 fun b =>
      { b with rbuf := 1 }))
    (fun s => readCells s.mem 0x50204 4 == 0 && (s.th t0).stores.length == 1) = true := by decide +kernel
/-- R221: a word comes back extended. -/
theorem test_ldbs : nextIs (step ({ loaded (encode (.ldbs 4 2 0 3 0)) [(2, 0x50200)] with
      mem := cellSet (loaded (encode (.ldbs 4 2 0 3 0)) []).mem 0x50200 0x80 }))
    (fun s => (s.th t0).pending.map (fun p => p.vals) == [[0xFFFFFF80]]) = true := by decide +kernel
/-- R224: an atomic on memory. -/
theorem test_atadd : nextIs (step (loaded (encode (.atadd 2 2 5 0 0)) [(2, 0x50200), (5, 7)]))
    (fun s => readCells s.mem 0x50200 4 == 7) = true := by decide +kernel
/-- R240: FECLR empties three words. -/
theorem test_feclr : nextIs (step (loaded (encode (.feclr 2 5)) [(2, 0x50200), (5, 3)]))
    (fun s => s.empties == [0x50200, 0x50208, 0x50210]) = true := by decide +kernel
/-- R276, R277: the last thread's end ends its bundle and block. -/
theorem test_exit : nextIs (step (loaded (encode .exit) [])) (fun s => s.bundles.isEmpty && s.blocks.isEmpty) = true := by
  decide +kernel
/-- R361: AES-256-GCM on a zero key, IV and block, from the standard's published vectors. -/
theorem test_gcm : (gcmSeal 0 0 [] (List.replicate 16 0)).2 = 0xd0d1c8a799996bf0265b98b5d48ab919 := by decide +kernel
/-- R386: SHA-512 of the standard's three-letter example, its first bytes. -/
theorem test_sha : (sha [0x61, 0x62, 0x63]).toNat % 2 ^ 64 = 0xBA7A6193A135AFDD := by decide +kernel

end Sys2Proof.Tests
end

