-- ==== Sys2Proof/Tests/WitnessCore.lean ====
section
/-! SUPPORT. Witnesses of the statements about instructions that compute, move and load: for each, concrete states and operands
that meet its hypotheses together. -/

namespace Sys2Proof.Tests

set_option Elab.async false

open Sys2Proof.Machine Sys2Proof.Safety

/-! ## The state at an instruction -/

/-- One active thread about to perform an instruction, with registers set. Its block has 64 KiB of scratchpad and a region store
buffer of 16 entries. -/
noncomputable def base (rs : List (Nat × Nat)) : State :=
  { (loaded 0 rs).modBk 3 fun b => { b with sb := 65536, rbuf := 1 } with group := { refs := [t0], pc := dw codeAddr } }

/-- The pair of a global address, and of a scratchpad offset, in v2. -/
def inPage (x : Nat) : List (Nat × Nat) := [(2, 0x50000 + x)]
def inScr (x : Nat) : List (Nat × Nat) := [(2, x), (3, 0xF0000)]

/-- `Alone`, `Readable` and `Closes` from what the kernel can evaluate. -/
theorem alone_of {s : State} {t : TRef}
    (h : (s.group.refs == [t] && s.live t && !s.shadowed && (s.th t).active) = true) : Alone s t := by
  simp only [Bool.and_eq_true, Bool.not_eq_true', beq_iff_eq] at h
  exact { group := h.1.1.1, live := h.1.1.2, plain := h.1.2, active := h.2 }

theorem sole_of {s : State} {t : TRef} (h : (s.group.refs == [t] && s.live t && !s.shadowed) = true) : Sole s t := by
  simp only [Bool.and_eq_true, Bool.not_eq_true', beq_iff_eq] at h
  exact { group := h.1.1, live := h.1.2, plain := h.2 }

theorem readable_of {s : State} {t : TRef} {rs ds : List (Nat × Nat)}
    (h : ((windowTrap (s.buOf t) rs).isNone && !(s.buOf t).badRegs t.lane ds) = true) : Readable s t rs ds := by
  simp only [Bool.and_eq_true, Bool.not_eq_true', Option.isNone_iff_eq_none] at h
  exact { window := h.1, sound := h.2 }

theorem closes_of {s : State} {t : TRef} {rs ds : List (Nat × Nat)}
    (h : ((windowTrap (s.buOf t) rs).isNone && (s.closeRegion t).live t && !((s.closeRegion t).buOf t).badRegs t.lane ds) = true) :
    Closes s t rs ds := by
  simp only [Bool.and_eq_true, Bool.not_eq_true', Option.isNone_iff_eq_none] at h
  exact { window := h.1.1, live := h.1.2, sound := h.2 }

/-- The place that an access reaches. -/
def placeOf (r : Reach) : Option Loc :=
  match r with
  | .at_ _ l => some l
  | .act _ => none

theorem reach_of {r : Reach} {l : Loc} (h : placeOf r = some l) : ∃ s2, r = .at_ s2 l := by
  cases r with
  | at_ s m => exact ⟨s, by simp only [placeOf, Option.some.injEq] at h; rw [h]⟩
  | act a => exact nomatch h

/-- A place reached, with a check of the state that the translation leaves. -/
theorem reach_with {r : Reach} {l : Loc} {p : State → Bool}
    (h : (match r with | .at_ s m => m == l && p s | .act _ => false) = true) : ∃ s2, r = .at_ s2 l ∧ p s2 = true := by
  cases r with
  | at_ s m =>
    simp only [Bool.and_eq_true, beq_iff_eq] at h
    exact ⟨s, by rw [h.1], h.2⟩
  | act a => exact nomatch h

/-- The release steps complete at once, with a check of the state that they leave. -/
def releasedAnd (s : State) (t : TRef) (p : State → Bool) : Bool :=
  (s.releaseStep t (s.th t).scope.toNat).2 && p (s.releaseStep t (s.th t).scope.toNat).1

theorem released_of {s : State} {t : TRef} {p : State → Bool} (h : releasedAnd s t p = true) :
    ∃ s3, Claims.Released s t s3 ∧ p s3 = true := by
  simp only [releasedAnd, Bool.and_eq_true] at h
  exact ⟨_, Prod.ext rfl h.1, h.2⟩

theorem any_some {α : Type} {o : Option α} {p : α → Bool} (h : o.any p = true) : ∃ x, o = some x ∧ p x = true := by
  cases o with
  | none => exact nomatch h
  | some x => exact ⟨x, rfl, h⟩

/-! ## Integer, compare, affine and special instructions -/

/-- The hypotheses of the register instructions, at the window's highest registers: v127, the pair v126, the quad v124. -/
theorem wit_AluResults : Alone (base []) t0 ∧ Readable (base []) t0 [(127, 1), (0, 1), (127, 1)] [(0, 1), (127, 1)] ∧
    Readable (base []) t0 [(127, 1), (0, 1), (5, 1), (127, 1)] [(0, 1), (5, 1), (127, 1)] := by
  refine ⟨alone_of ?_, readable_of ?_, readable_of ?_⟩ <;> decide +kernel

theorem wit_PairAndImmediateResults : Alone (base []) t0 ∧
    Readable (base []) t0 [(126, 2), (0, 2), (126, 2)] [(0, 2), (126, 2)] ∧
    Readable (base []) t0 [(126, 2), (0, 2), (127, 1)] [(0, 2), (127, 1)] ∧ Readable (base []) t0 [(127, 1), (0, 1)] [(0, 1)] ∧
    Readable (base []) t0 [(126, 2), (0, 2)] [(0, 2)] ∧ Readable (base []) t0 [(127, 1), (126, 2)] [(126, 2)] ∧
    Readable (base []) t0 [(127, 1)] [] ∧ Readable (base []) t0 [(5, 1), (6, 1), (5, 1)] [(6, 1), (5, 1)] ∧
    (4095 < 2 ^ 12 ∧ 31 < 2 ^ 5 ∧ 31 + (0 + 1) ≤ 32 ∧ 0 + (31 + 1) ≤ 32 ∧ 524287 < 2 ^ 19) := by
  refine ⟨alone_of ?_, readable_of ?_, readable_of ?_, readable_of ?_, readable_of ?_, readable_of ?_, readable_of ?_,
    readable_of ?_, ?_⟩ <;> decide +kernel

/-- A thread with a predicate stack. -/
noncomputable def stacked (st : List Bool) : State := (base []).modTh t0 fun x => { x with stack := st }

theorem wit_CompareResults_push : Sole (stacked []) t0 ∧ cmpAllowed 12 0 0 = true ∧ cmpAllowed 11 0 5 = true ∧
    ((stacked []).th t0).active = true ∧ ((stacked []).th t0).stack.length < 16 ∧
    Readable (stacked []) t0 [(2, 2), (4, 2)] [(2, 2), (4, 2)] ∧ Readable (stacked []) t0 [(1, 1)] [(1, 1)] := by
  refine ⟨sole_of ?_, ?_, ?_, ?_, ?_, readable_of ?_, readable_of ?_⟩ <;> decide +kernel
theorem wit_CompareResults_enclosed : Sole (stacked [false, true]) t0 ∧ cmpAllowed 2 1 0 = true ∧
    ((stacked [false, true]).th t0).stack ≠ [] ∧ (((stacked [false, true]).th t0).stack.drop 1).all id = true ∧
    Readable (stacked [false, true]) t0 [(1, 1), (2, 1)] [(1, 1), (2, 1)] := by
  refine ⟨sole_of ?_, ?_, ?_, ?_, readable_of ?_⟩ <;> decide +kernel
theorem wit_CompareResults_outside : Sole (stacked [true, false]) t0 ∧ cmpAllowed 2 2 0 = true ∧
    (((stacked [true, false]).th t0).stack.drop 1).all id = false ∧ ((stacked [true, false]).th t0).stack ≠ [] ∧
    windowTrap ((stacked [true, false]).buOf t0) [(1, 1), (2, 1)] = none := by
  refine ⟨sole_of ?_, ?_⟩ <;> decide +kernel

theorem wit_CompareResults_inactive : Sole (stacked [false]) t0 ∧ ((stacked [false]).th t0).active = false ∧
    ((stacked [false]).th t0).stack.length < 16 ∧ cmpAllowed 2 0 0 = true ∧
    windowTrap ((stacked [false]).buOf t0) [(1, 1), (2, 1)] = none ∧ Sole (stacked (List.replicate 16 true)) t0 ∧
    16 ≤ ((stacked (List.replicate 16 true)).th t0).stack.length ∧
    windowTrap ((stacked (List.replicate 16 true)).buOf t0) [(1, 1), (2, 1)] = none ∧ cmpAllowed 2 1 0 = true ∧ cmpAllowed 2 2 0 = true ∧
    ((stacked []).th t0).stack = [] ∧ windowTrap ((stacked []).buOf t0) [(1, 1), (2, 1)] = none := by
  refine ⟨sole_of ?_, ?_, ?_, ?_, ?_, sole_of ?_, ?_⟩ <;> decide +kernel

theorem wit_PredicateStack : Sole (stacked [true]) t0 ∧ ((stacked [true]).th t0).stack ≠ [] ∧
    ((stacked [true]).th t0).active = true ∧ Readable (stacked [true]) t0 [(5, 1)] [] ∧
    ((stacked (List.replicate 15 true)).th t0).stack.length < 16 ∧
    Sole (stacked (List.replicate 15 true)) t0 ∧ Readable (stacked (List.replicate 15 true)) t0 [(5, 1)] [(5, 1)] := by
  refine ⟨sole_of ?_, ?_, ?_, readable_of ?_, ?_, sole_of ?_, readable_of ?_⟩ <;> decide +kernel

theorem wit_AffineResults : Alone (base []) t0 ∧ Closes (base []) t0 [] [] ∧ Closes (base []) t0 [(126, 2)] [(126, 2)] ∧
    Closes (base []) t0 [(127, 1)] [(127, 1)] ∧ Readable (base []) t0 [(126, 2)] [] ∧ 63 < 2 ^ 6 ∧ 1023 < 2 ^ 10 := by
  refine ⟨alone_of ?_, closes_of ?_, closes_of ?_, closes_of ?_, readable_of ?_, ?_⟩ <;> decide +kernel

theorem wit_SpecialReads : Alone (base []) t0 ∧ Readable (base []) t0 [(127, 1)] [] ∧ Readable (base []) t0 [(126, 2)] [] := by
  refine ⟨alone_of ?_, readable_of ?_, readable_of ?_⟩ <;> decide +kernel

/-- A value of 5 goes to SCOPE and RM, 6 traps; MODQ takes an odd and an even value. -/
theorem wit_SpecialRegisterWrites : Alone (base [(4, 5)]) t0 ∧ Closes (base [(4, 5)]) t0 [(4, 1)] [(4, 1)] ∧
    (((base [(4, 5)]).closeRegion t0).reg t0 4).toNat % 8 < 6 ∧ Closes (base [(4, 5)]) t0 [(4, 2)] [(4, 2)] ∧
    (((base [(4, 5)]).closeRegion t0).pair t0 4).getLsbD 0 = true ∧ Readable (base [(4, 5)]) t0 [(4, 1)] [(4, 1)] := by
  refine ⟨alone_of ?_, closes_of ?_, ?_, closes_of ?_, ?_, readable_of ?_⟩ <;> decide +kernel
theorem wit_SpecialRegisterWrites_trap : Alone (base [(4, 6)]) t0 ∧ Closes (base [(4, 6)]) t0 [(4, 1)] [(4, 1)] ∧
    6 ≤ (((base [(4, 6)]).closeRegion t0).reg t0 4).toNat % 8 ∧
    (((base [(4, 6)]).closeRegion t0).pair t0 4).getLsbD 0 = false ∧ 0x100 ≤ 0x1FF ∧ 0x1FF < 0x200 := by
  refine ⟨alone_of ?_, closes_of ?_, ?_⟩ <;> decide +kernel

/-! ## Across the lanes -/

/-- Two threads of one bundle in a round, the second inactive. -/
noncomputable def inRound : State :=
  let s := base []
  let t1 : TRef := { t0 with lane := 1 }
  { s with
    threads := s.threads ++ [{ s.th t0 with ref := t1, stack := [false] }]
    group := { refs := [t0, t1], pc := dw codeAddr, round := true } }

theorem wit_round : InRound inRound 3 0 [t0, { t0 with lane := 1 }] where
  group := by decide +kernel
  round := by decide +kernel
  ordered := by decide
  mates := by decide
  live := by decide +kernel
  stores := by decide +kernel
  plain := by decide +kernel
  bundle := by decide +kernel
  rows := by decide +kernel
  sound := by decide +kernel
  bare := by decide +kernel

theorem wit_ConvergentResults : windowTrap (inRound.bu 3 0) [(127, 1), (0, 1), (5, 1)] = none ∧
    windowTrap (inRound.bu 3 0) [(127, 1), (0, 1)] = none ∧ windowTrap (inRound.bu 3 0) [(5, 1)] = none ∧
    (∀ t ∈ [t0, { t0 with lane := 1 }], (inRound.th t).stack.length < 16) := by
  decide +kernel
theorem wit_ConvergentResults_parks : (base []).group.refs = [t0] ∧ (base []).group.round = false ∧ convergent .bsync = true := by
  refine ⟨?_, ?_, rfl⟩ <;> decide +kernel

/-! ## Floating point and modular arithmetic -/

theorem wit_FloatResults : Alone (base []) t0 ∧ Readable (base []) t0 [(5, 1), (6, 1), (7, 1)] [(6, 1), (7, 1)] ∧
    Readable (base []) t0 [(4, 2), (6, 2), (8, 2)] [(6, 2), (8, 2)] ∧
    Readable (base []) t0 [(4, 2), (6, 2), (8, 2), (4, 2)] [(6, 2), (8, 2), (4, 2)] ∧
    Readable (base []) t0 [(4, 2), (6, 2)] [(6, 2)] ∧ Readable (base []) t0 [(5, 1), (6, 2)] [(6, 2)] := by
  refine ⟨alone_of ?_, readable_of ?_, readable_of ?_, readable_of ?_, readable_of ?_, readable_of ?_⟩ <;> decide +kernel

theorem wit_ConversionResults : Alone (base []) t0 ∧ Readable (base []) t0 [(5, 1), (6, 1)] [(6, 1)] ∧
    Readable (base []) t0 [(4, 2), (6, 2)] [(6, 2)] ∧ Readable (base []) t0 [(5, 1), (6, 1), (5, 1)] [(6, 1), (5, 1)] ∧
    Readable (base []) t0 [(4, 2), (7, 1)] [(7, 1)] ∧ Readable (base []) t0 [(5, 1), (6, 2)] [(6, 2)] ∧ 1 < 2 := by
  refine ⟨alone_of ?_, readable_of ?_, readable_of ?_, readable_of ?_, readable_of ?_, readable_of ?_, ?_⟩ <;> decide +kernel

theorem wit_PackedHalves : Alone (base []) t0 ∧ Readable (base []) t0 [(5, 1), (6, 1), (7, 1)] [(6, 1), (7, 1)] ∧
    Readable (base []) t0 [(5, 1), (6, 1), (7, 1), (5, 1)] [(6, 1), (7, 1), (5, 1)] ∧
    Readable (base []) t0 [(5, 1), (6, 1)] [(6, 1)] := by
  refine ⟨alone_of ?_, readable_of ?_, readable_of ?_, readable_of ?_⟩ <;> decide +kernel

/-- The greatest finite pattern of f16, and the least positive value of e4m3. -/
theorem wit_RoundingKeepsFormatValues : 0x7BFF < 2 ^ fmtW .f16 ∧ modeRne.rbits < 65536 ∧ 0x7BFF % signBit .f16 ≤ maxPattern .f16 := by
  decide
theorem wit_TruncationIsTight : 0 < 1 ∧ 0 ≤ maxPattern .e4m3 ∧ Claims.magnitude .e4m3 0 * 2 ^ 0 ≤ 1 := by decide

theorem wit_LongLatencyResults : Alone (base []) t0 ∧ Readable (base []) t0 [(4, 2), (6, 2)] [(6, 2)] ∧
    Readable (base []) t0 [(4, 1), (6, 1)] [(6, 1)] ∧ Readable (base []) t0 [(4, 2), (6, 2), (8, 2)] [(6, 2), (8, 2)] ∧
    Readable (base []) t0 [(4, 1), (6, 1), (7, 1)] [(6, 1), (7, 1)] := by
  refine ⟨alone_of ?_, readable_of ?_, readable_of ?_, readable_of ?_, readable_of ?_⟩ <;> decide +kernel
theorem wit_LongLatencyResults_write : (((base []).modTh t0 fun x => { x with pending :=
    [{ dst := 4, vals := [7], window := 1 }] }).th t0).pending[0]? = some { dst := 4, vals := [7], window := 1 } := by decide +kernel

/-- MODQ 13, and the least and the first value beyond the range. -/
noncomputable def withQ (q : Nat) : State := (base []).modBu 3 0 fun b => { b with modq := dw q }
theorem wit_ModularArithmetic : Alone (withQ 3) t0 ∧ ((withQ 3).buOf t0).modq.toNat % 2 = 1 ∧ 3 ≤ ((withQ 3).buOf t0).modq.toNat ∧
    ((withQ 3).buOf t0).modq.toNat < 2 ^ 62 ∧ Readable (withQ 3) t0 [(4, 2), (6, 2), (8, 2)] [(6, 2), (8, 2)] ∧
    Readable (withQ 3) t0 [(4, 2), (6, 2)] [(6, 2)] ∧ Readable (withQ 3) t0 [(4, 2), (8, 4)] [(8, 4)] ∧
    Readable (withQ 3) t0 [(4, 4), (4, 4), (8, 2)] [(4, 4), (8, 2)] ∧ Readable (withQ 3) t0 [(4, 4), (8, 2), (10, 2)] [(8, 2), (10, 2)] := by
  refine ⟨alone_of ?_, ?_, ?_, ?_, readable_of ?_, readable_of ?_, readable_of ?_, readable_of ?_, readable_of ?_⟩ <;> decide
    +kernel
theorem wit_ModularArithmetic_traps : Alone (withQ 0) t0 ∧ ((withQ 0).buOf t0).modq.toNat % 2 = 0 ∧
    ((withQ 1).buOf t0).modq.toNat < 3 ∧ 2 ^ 62 ≤ ((withQ (2 ^ 62 + 1)).buOf t0).modq.toNat ∧
    Readable (withQ 0) t0 [(4, 4), (4, 4), (8, 2)] [(4, 4), (8, 2)] := by
  refine ⟨alone_of ?_, ?_, ?_, ?_, readable_of ?_⟩ <;> decide +kernel

/-! ## Loads, stores, atomics -/

/-- A word in the page, and the last word of the block's scratchpad. -/
theorem wit_LoadResults : Alone (base (inPage 0x200)) t0 ∧ Claims.Access (base (inPage 0x200)) t0 0 [(4, 1), (2, 2)] [(2, 2)] ∧
    Claims.Access (base (inPage 0x200)) t0 4 [(4, 1), (2, 2)] [(2, 2)] ∧
    (∃ s2, (base (inPage 0x200)).reach t0 (Claims.addressOf (base (inPage 0x200)) t0 2 0 4) 4 4 .read =
      .at_ s2 (.dev 1 0x50200 0x50200)) ∧
    (∃ s2, (base (inScr 0xFFFC)).reach t0 (Claims.addressOf (base (inScr 0xFFFC)) t0 2 0 4) 4 4 .read =
      .at_ s2 (.scr 3 0xFFFC false)) ∧
    ((base (inScr 0xFFFC)).locRead 0 (.scr 3 0xFFFC false) 4 .l1).2.2 = false := by
  refine ⟨alone_of ?_, readable_of ?_, closes_of ?_, reach_of ?_, reach_of ?_, ?_⟩ <;> decide +kernel

/-- An own store that covers the word. -/
noncomputable def stored : State := (base (inPage 0x200)).modTh t0 fun x =>
  { x with stores := [{ loc := .dev 1 0x50200 0x50200, size := 4, data := 7, pol := 0, vpage := 5, pageVa := 0x50000, pageSize := 65536 }] }
theorem wit_LoadResults_own : Alone stored t0 ∧ (bufView (stored.th t0).stores (.dev 1 0x50200 0x50200) 4).1 = 2 ^ 4 - 1 := by
  refine ⟨alone_of ?_, ?_⟩ <;> decide +kernel

theorem wit_StoreBuffered : Alone (base (inPage 0x200)) t0 ∧
    Readable (base (inPage 0x200)) t0 [(4, 4), (2, 2)] [(4, 4), (2, 2)] ∧
    (∃ s2, (base (inPage 0x200)).reach t0 (Claims.addressOf (base (inPage 0x200)) t0 2 0 16) 16 16 .write =
      .at_ s2 (.dev 1 0x50200 0x50200)) ∧
    ((base (inPage 0x200)).th t0).stores.length < 16 * ((base (inPage 0x200)).bkOf t0).rbuf := by
  refine ⟨alone_of ?_, readable_of ?_, reach_of ?_, ?_⟩ <;> decide +kernel

theorem wit_StorePerformed : Alone (base (inPage 0x200)) t0 ∧
    Closes (base (inPage 0x200)) t0 [(4, 1), (2, 2)] [(4, 1), (2, 2)] ∧
    ∃ s2, ((base (inPage 0x200)).closeRegion t0).reach t0 (Claims.addressOf ((base (inPage 0x200)).closeRegion t0) t0 2 0 4) 4 4
      .write = .at_ s2 (.dev 1 0x50200 0x50200) ∧ (!(s2.performStore 0 (.dev 1 0x50200 0x50200) 4 7 .home).2 &&
        releasedAnd s2 t0 fun s => !(s.performStore 0 (.dev 1 0x50200 0x50200) 4 7 .l1).2) = true := by
  refine ⟨alone_of ?_, closes_of ?_, reach_with (p := fun s2 => !(s2.performStore 0 (.dev 1 0x50200 0x50200) 4 7 .home).2 &&
    releasedAnd s2 t0 fun s => !(s.performStore 0 (.dev 1 0x50200 0x50200) 4 7 .l1).2) ?_⟩ <;> decide +kernel

theorem wit_RegionCommits : Alone stored t0 ∧ ∃ s', Claims.performAll t0 (stored.th t0).stores
    (stored.modTh t0 fun x => ({ x with stores := [] } : Thread).beginRegion) = some s' ∧ s'.live t0 = true := by
  have h : ((Claims.performAll t0 (stored.th t0).stores
    (stored.modTh t0 fun x => ({ x with stores := [] } : Thread).beginRegion)).any fun s' => s'.live t0) = true := by decide +kernel
  obtain ⟨s', h1, h2⟩ := any_some h
  exact ⟨alone_of (by decide +kernel), s', h1, h2⟩

theorem wit_RegionCommits_sound : Alone stored t0 ∧ Claims.Sound stored :=
  ⟨alone_of (by decide +kernel),
    { sectors := by decide +kernel, words := by decide +kernel, far := by decide +kernel, l1 := by decide +kernel,
      arrays := by decide +kernel }⟩

theorem wit_Atomics : Alone (base (inPage 0x200)) t0 ∧
    Closes (base (inPage 0x200)) t0 [(2, 2), (5, 1)] [(2, 2), (5, 1)] ∧
    Closes (base (inPage 0x200)) t0 [(8, 2), (2, 2), (12, 4)] [(2, 2), (12, 4)] ∧
    (∃ s2, ((base (inPage 0x200)).closeRegion t0).reach t0 (((base (inPage 0x200)).closeRegion t0).pair t0 2) 4 4 .write =
      .at_ s2 (.dev 1 0x50200 0x50200)) ∧
    ((base (inPage 0x200)).rmw t0 (.dev 1 0x50200 0x50200) 4 fun old => some (old + 1)).2.2 = false := by
  refine ⟨alone_of ?_, closes_of ?_, closes_of ?_, reach_of ?_, ?_⟩ <;> decide +kernel
theorem wit_Atomics_performed : (base []).scrPoisoned 3 0xFFFC 4 = false ∧
    ((base []).modBk 3 fun b => { b with poison := [0xFFF8] }).scrPoisoned 3 0xFFFC 4 = true ∧
    Memory.wf (((base []).beyond 0 1 0xA04 true).charge 1 0x50200).mem = true ∧
    (((base []).beyond 0 1 0xA04 true).charge 1 0x50200).devPoisoned 0x50200 4 = false := by
  decide +kernel

theorem wit_MisalignedTraps : Alone (base (inPage 0x201)) t0 ∧
    (Claims.addressOf (base (inPage 0x201)) t0 2 0 2).toNat % 2 ≠ 0 ∧
    Claims.Access (base (inPage 0x201)) t0 5 [(4, 1), (2, 2)] [(2, 2)] ∧
    Claims.Access (base (inPage 0x201)) t0 3 [(4, 1), (2, 2)] [(4, 1), (2, 2)] ∧
    (((base (inPage 0x201)).closeRegion t0).pair t0 2).toNat % (4 * (0 + 1)) ≠ 0 ∧
    Closes (base (inPage 0x201)) t0 [(2, 2), (5, 1)] [(2, 2), (5, 1)] := by
  refine ⟨alone_of ?_, ?_, readable_of ?_, closes_of ?_, ?_, closes_of ?_⟩ <;> decide +kernel

theorem wit_MisalignedTraps_words : Closes (base (inPage 0x201)) t0 [(8, 1), (2, 2), (12, 2)] [(2, 2), (12, 2)] ∧
    Closes (base (inPage 0x201)) t0 [(2, 2), (12, 4)] [(2, 2), (12, 4)] ∧
    Readable (base (inPage 0x201)) t0 [(4, 2), (2, 2)] [(2, 2)] ∧ Closes (base (inPage 0x201)) t0 [(4, 2), (2, 2)] [(2, 2)] ∧
    Closes (base (inPage 0x201)) t0 [(4, 2), (2, 2)] [(4, 2), (2, 2)] ∧
    (Claims.addressOf (base (inPage 0x201)) t0 2 0 8).toNat % 8 ≠ 0 ∧
    (Claims.addressOf ((base (inPage 0x201)).closeRegion t0) t0 2 0 8).toNat % 8 ≠ 0 ∧
    ((base (inPage 0x201)).th t0).stack.length < 16 ∧ (((base (inPage 0x201)).closeRegion t0).pair t0 2).toNat % 512 ≠ 0 ∧
    Closes (base ((5, 64) :: inPage 0x201)) t0 [(2, 2), (5, 1)] [(2, 2), (5, 1)] ∧
    (((base ((5, 64) :: inPage 0x201)).closeRegion t0).reg t0 5).toNat = 64 := by
  refine ⟨closes_of ?_, closes_of ?_, readable_of ?_, closes_of ?_, closes_of ?_, ?_, ?_, ?_, ?_, closes_of ?_, ?_⟩ <;> decide +kernel

/-- The boundaries of the regions, which the clauses share out. -/
theorem wit_Regions : 0xEFFFFFFFFFFFF + 1 ≤ 0xF000000000000 ∧ 0xF000000000000 < 0xEFFFFFFFFFFFF + 2 ∧
    0xF00000000FFFC - 0xF000000000000 + 4 ≤ ((base []).bk 3).sb ∧
    ((base []).bk 3).sb < 0xF00000000FFFC - 0xF000000000000 + 8 ∧ 0xF000000100000 < 0xF000100000000 ∧
    0xF000100000000 + 2 ^ 24 ≤ 2 ^ 52 - 1 := by
  decide +kernel

/-- A gang of two that has started, whose second block has ended; one that has not; and none. -/
noncomputable def ganged (started : Bool) : State :=
  { base [] with gangs := (base []).gangs.map fun g => { g with size := 2, started := started } }
theorem wit_Regions_remote : 65536 + 1 ≤ 2 ^ 20 ∧ ((ganged true).bk 3).sb < 65532 + 8 ∧ 65532 + 4 ≤ ((ganged true).bk 3).sb ∧
    (ganged true).hasGa ((ganged true).bk 3).gang = true ∧ ((ganged true).ga ((ganged true).bk 3).gang).size = 2 ∧
    ((ganged true).ga ((ganged true).bk 3).gang).started = true ∧
    ((ganged false).ga ((ganged false).bk 3).gang).started = false ∧
    ({ base [] with gangs := [] } : State).hasGa ((base []).bk 3).gang = false ∧
    ((ganged true).blocks.find? fun y => y.gang == ((ganged true).bk 3).gang && y.gangIdx == 0).isSome = true ∧
    ((ganged true).blocks.find? fun y => y.gang == ((ganged true).bk 3).gang && y.gangIdx == 1).isNone = true := by
  decide +kernel

theorem wit_ReadsBack : 0 < (base []).cores.length ∧ 124 % 128 + 4 ≤ 128 ∧ Memory.wf (base []).mem = true := by
  decide +kernel

/-! ## What instructions leave as it is -/

theorem wit_EarlyChecks : windowTrap (((base []).modBu 3 0 fun b => { b with alloc := 16 }).buOf t0) [(16, 1), (0, 1), (1, 1)] =
    some 16 ∧ Sole ((base []).modBu 3 0 fun b => { b with alloc := 16 }) t0 ∧ Sole (stacked [false]) t0 ∧
    ((stacked [false]).th t0).active = false ∧ windowTrap ((stacked [false]).buOf t0) [(5, 1), (6, 1), (7, 1)] = none ∧
    127 < ((base []).buOf t0).alloc - ((base []).buOf t0).base := by
  refine ⟨?_, sole_of ?_, sole_of ?_, ?_⟩ <;> decide +kernel

theorem wit_AluFrame : t0.lane < 32 ∧ attached ((base []).buOf t0).viewCk ((base []).buOf t0).viewAcc = false ∧
    ((base []).buOf t0).rf.length = 32 ∧ (∀ r ∈ ((base []).buOf t0).rf, r.length = ((base []).buOf t0).alloc) ∧
    (base []).group.refs.Nodup ∧ ∃ z ∈ (base []).bundles, z.blk = t0.blk ∧ z.idx = t0.bun := by
  decide +kernel

theorem wit_StoreFrame : Alone (base (inScr 8)) t0 ∧ Closes (base (inScr 8)) t0 [(4, 1), (2, 2)] [(4, 1), (2, 2)] ∧
    (∃ s2, ((base (inScr 8)).closeRegion t0).reach t0 (Claims.addressOf ((base (inScr 8)).closeRegion t0) t0 2 0 4) 4 4 .write =
      .at_ s2 (.scr 3 8 false)) ∧
    (base (inScr 8)).scrPoisoned 3 8 4 = false ∧ Memory.wf ((base (inScr 8)).bk 3).mem = true := by
  refine ⟨alone_of ?_, closes_of ?_, reach_of ?_, ?_⟩ <;> decide +kernel
theorem wit_StoreFrame_device : (base (inPage 0x200)).l1Line 0 1 (0x50200 / 128) = none ∧
    (base (inPage 0x200)).farLine 0 1 (0x50200 / 128) = none ∧ (base (inPage 0x200)).devPoisoned 0x50200 4 = false ∧
    Memory.wf (base (inPage 0x200)).mem = true := by
  decide +kernel

end Sys2Proof.Tests
end

