-- ==== Sys2Proof/Tests/WitnessSync.lean ====
section
/-! SUPPORT. Witnesses of the statements about host loads, full/empty words, synchronisation, control flow, threads, traps and
engines. -/

namespace Sys2Proof.Tests

set_option Elab.async false

open Sys2Proof.Machine Sys2Proof.Safety

/-! ## Host memory -/

/-- A thread whose v2 names a page of an aperture on port 0. -/
noncomputable def hosted : State :=
  let s := base [(2, 0x60000)]
  ({ s with
      mem := writeCells s.mem (0x40000 + 8 * 6) 8 (leafEntry (2 ^ 47))
      ports := [{ up := true }] ++ s.ports.drop 1 } : State).modVd 1 fun v =>
    { v with aps := [(0, { v := true, rd := true, wr := true, aop := true, gbase := 2 ^ 26, glen := 1, haddr := 1 })] }
theorem wit_HostLoads : Alone hosted t0 ∧ Claims.Access hosted t0 0 [(4, 1), (2, 2)] [(2, 2)] ∧
    ∃ s2, hosted.reach t0 (Claims.addressOf hosted t0 2 0 4) 4 4 .read = .at_ s2 (.host 1 0 (2 ^ 47)) ∧
      ((bufView (s2.th t0).stores (.host 1 0 (2 ^ 47)) 4).1 != 2 ^ 4 - 1 && (s2.l1Line 0 1 (2 ^ 47 / 128)).isNone &&
        s2.hostFree 1 0 (2 ^ 47)) = true := by
  refine ⟨alone_of ?_, readable_of ?_, reach_with (p := fun s2 => (bufView (s2.th t0).stores (.host 1 0 (2 ^ 47)) 4).1 != 2 ^ 4 - 1 &&
    (s2.l1Line 0 1 (2 ^ 47 / 128)).isNone && s2.hostFree 1 0 (2 ^ 47)) ?_⟩ <;> decide +kernel

/-- The same thread with its line in the L1, whole. -/
noncomputable def hostLine : CLine := { vd := 1, line := 2 ^ 47 / 128, ma := none, data := 0xAB, valid := BitVec.allOnes 128, dirty := 0 }
theorem wit_HostLoads_line : ∃ s2, (hosted.modCo 0 fun c => { c with l1 := [hostLine] }).reach t0
      (Claims.addressOf (hosted.modCo 0 fun c => { c with l1 := [hostLine] }) t0 2 0 4) 4 4 .read = .at_ s2 (.host 1 0 (2 ^ 47)) ∧
    ((bufView (s2.th t0).stores (.host 1 0 (2 ^ 47)) 4).1 != 2 ^ 4 - 1 && s2.l1Line (s2.coreOf t0) 1 (2 ^ 47 / 128) == some hostLine &&
      !hostLine.bad (2 ^ 47 % 128) 4 && hostLine.has (2 ^ 47 % 128) 4) = true :=
  reach_with (p := fun s2 => (bufView (s2.th t0).stores (.host 1 0 (2 ^ 47)) 4).1 != 2 ^ 4 - 1 &&
    s2.l1Line (s2.coreOf t0) 1 (2 ^ 47 / 128) == some hostLine && !hostLine.bad (2 ^ 47 % 128) 4 && hostLine.has (2 ^ 47 % 128) 4)
    (by decide +kernel)
/-- An atomic on that page, in an aperture with AOP and in one without. -/
noncomputable def hostAop (aop : Bool) : State :=
  hosted.modVd 1 fun v => { v with aps := v.aps.map fun a => (a.1, { a.2 with aop := aop }) }
theorem wit_Atomics_host (aop : Bool) : Alone (hostAop aop) t0 ∧ Closes (hostAop aop) t0 [(4, 1), (2, 2), (5, 1)] [(2, 2), (5, 1)] ∧
    Closes (hostAop aop) t0 [(4, 1), (2, 2), (8, 2)] [(2, 2), (8, 2)] ∧
    ∃ s2, ((hostAop aop).closeRegion t0).reach t0 (((hostAop aop).closeRegion t0).pair t0 2) 4 4 .write =
      .at_ s2 (.host 1 0 (2 ^ 47)) ∧ (s2.hostFree 1 0 (2 ^ 47) && ((assocGet 0 (s2.vd 1).aps).getD {}).aop == aop) = true := by
  cases aop <;> refine ⟨alone_of ?_, closes_of ?_, closes_of ?_, reach_with (p := fun s2 => s2.hostFree 1 0 (2 ^ 47) &&
    ((assocGet 0 (s2.vd 1).aps).getD {}).aop == _) ?_⟩ <;> decide +kernel

/-! ## Full/empty words -/

/-- A FULL word at v2, and the same word EMPTY. -/
noncomputable def full : State := base (inPage 0x200)
noncomputable def empty : State := { full with empties := [0x50200] }
/-- The word is sound and has the bit. -/
def soundFe (bit : Bool) (s0 : State) : Bool :=
  let s := s0.feBefore (s0.coreOf t0) (.dev 1 0x50200 0x50200) 8
  !s.fePoisoned (.dev 1 0x50200 0x50200) 8 && s.feBit (.dev 1 0x50200 0x50200) == bit
/-- The loads at the FULL word; the stores at the EMPTY one, with their release steps complete. -/
theorem wit_FullEmptyResults : Alone full t0 ∧ Claims.FeAccess .feldw full t0 4 2 ∧ Claims.FeAccess .feldc full t0 4 2 ∧
    (∃ s2, full.reach t0 (Claims.addressOf full t0 2 0 8) 8 8 .read = .at_ s2 (.dev 1 0x50200 0x50200) ∧ soundFe true s2 = true) ∧
    (∃ s2, (full.closeRegion t0).reach t0 (Claims.addressOf (full.closeRegion t0) t0 2 0 8) 8 8 .write =
      .at_ s2 (.dev 1 0x50200 0x50200) ∧ soundFe true s2 = true) ∧
    Claims.onDevice (.dev 1 0x50200 0x50200) ∧ (full.th t0).stack.length < 16 := by
  refine ⟨alone_of ?_, readable_of ?_, closes_of ?_, reach_with ?_, reach_with ?_, (by intro _ _ _ h; cases h), ?_⟩ <;>
    decide +kernel
theorem wit_FullEmptyAtOnce : Alone empty t0 ∧ Claims.FeAccess .festf empty t0 4 2 ∧
    Closes empty t0 [(4, 2), (2, 2)] [(4, 2), (2, 2)] ∧
    (∃ s2, (empty.closeRegion t0).reach t0 (Claims.addressOf (empty.closeRegion t0) t0 2 0 8) 8 8 .write =
      .at_ s2 (.dev 1 0x50200 0x50200) ∧ releasedAnd s2 t0 (soundFe false) = true) ∧ (empty.th t0).stack.length < 16 := by
  refine ⟨alone_of ?_, closes_of ?_, closes_of ?_, reach_with (p := fun s => releasedAnd s t0 (soundFe false)) ?_, ?_⟩ <;>
    decide +kernel
/-- The last word of a 512-byte block: a run of one fits, a run of two leaves the block; none and 65 are no run. -/
theorem wit_FullEmptyBlocks : Closes (base (inPage 0x3F8)) t0 [(2, 2), (5, 1)] [(2, 2), (5, 1)] ∧
    0x503F8 / 8 % 64 + 1 ≤ 64 ∧ 64 < 0x503F8 / 8 % 64 + 2 ∧ (64 < 65 ∧ 0 < 1) ∧
    (((base (inPage 0x3F8)).closeRegion t0).pair t0 2).toNat = 0x503F8 ∧
    (∃ s2, ((base (inPage 0x3F8)).closeRegion t0).reach t0 (((base (inPage 0x3F8)).closeRegion t0).pair t0 2) 8 8 .write =
      .at_ s2 (.dev 1 0x503F8 0x503F8) ∧ releasedAnd s2 t0 (fun s => !(s.feBefore 0 (.dev 1 0x503F8 0x503F8) 8).fePoisoned (.dev 1 0x503F8 0x503F8) 8) = true) ∧
    Closes full t0 [(4, 2), (2, 2)] [(2, 2)] ∧
    (∃ s2, (full.closeRegion t0).reach t0 ((full.closeRegion t0).pair t0 2) 512 512 .read = .at_ s2 (.dev 1 0x50200 0x50200) ∧
      (!(s2.feBefore 0 (.dev 1 0x50200 0x50200) 512).fePoisoned (.dev 1 0x50200 0x50200) 512) = true) := by
  refine ⟨closes_of ?_, ?_, ?_, ?_, ?_, reach_with (p := fun s2 => releasedAnd s2 t0 fun s =>
    !(s.feBefore 0 (.dev 1 0x503F8 0x503F8) 8).fePoisoned (.dev 1 0x503F8 0x503F8) 8) ?_, closes_of ?_, reach_with ?_⟩ <;> decide +kernel
/-- A woken FELDW, with a count of 0 and of 1, at an EMPTY and at a FULL word. -/
def woken (k : FeKind) (n : Nat) : FeWait :=
  { ref := t0, kind := k, loc := .dev 1 0x50200 0x50200, va := 0x50200, data := 0, dst := 4, la := 0, count := n, place := .woken true }
noncomputable def waiting (s : State) (e : FeWait) : State := { s with feq := [e] }
theorem wit_FullEmptyServed : (waiting empty (woken .feldw 0)).feq.find? (fun x => x.ref == t0) = some (woken .feldw 0) ∧
    (waiting empty (woken .feldw 1)).running 3 = true ∧
    (∃ s2, (waiting empty (woken .feldw 0)).reach t0 0x50200 8 8 .read = .at_ s2 (.dev 1 0x50200 0x50200) ∧ soundFe false s2 = true) ∧
    (∃ s2, (waiting full (woken .feldw 0)).reach t0 0x50200 8 8 .read = .at_ s2 (.dev 1 0x50200 0x50200) ∧ soundFe true s2 = true) ∧
    FeKind.feldw.holds false = false ∧ FeKind.feldw.holds true = true := by
  refine ⟨?_, ?_, reach_with ?_, reach_with ?_, ?_⟩ <;> decide +kernel

/-! ## Fences, the monitor, barriers, queues -/

/-- A thread whose release at SYS waits for no read any more. -/
noncomputable def releasing : State := (base []).modTh t0 fun x => { x with relTags := some [] }
theorem wit_Fences : Alone (base []) t0 ∧ Closes (base []) t0 [] [] ∧ 5 < 6 ∧
    (((base []).closeRegion t0).releaseStep t0 5).2 = true ∧ (releasing.th t0).relTags = some [] ∧
    (releasing.releaseStep t0 5).2 = true := by
  refine ⟨alone_of ?_, closes_of ?_, ?_⟩ <;> decide +kernel

noncomputable def watching (p : Park) (e : Bool) : State :=
  (base (inPage 0x200)).modTh t0 fun x => { x with monitor := some { key := .dev 1 0xA04, event := e }, park := p }
theorem wit_Waiting : Alone full t0 ∧ Readable full t0 [(2, 2)] [(2, 2)] ∧
    (∃ s2, full.reach t0 (full.pair t0 2) 1 1 .read = .at_ s2 (.dev 1 0x50200 0x50200)) ∧ Readable full t0 [(4, 1), (5, 1)] [(5, 1)] ∧
    (full.th t0).monitor = none ∧ ((watching .running true).th t0).monitor = some { key := .dev 1 0xA04, event := true } ∧
    ((watching (.mwait (some 0) 4) false).th t0).park = .mwait (some 0) 4 ∧
    ((watching (.yielding 3) false).th t0).park = .yielding 3 ∧ ((watching (.sleep 0) false).th t0).park = .sleep 0 ∧
    Alone (watching (.sleep 0) false) t0 := by
  refine ⟨alone_of ?_, readable_of ?_, reach_of ?_, readable_of ?_, ?_, ?_, ?_, ?_, ?_, alone_of ?_⟩ <;> decide +kernel

/-- An arrival barrier for two at scratchpad offset 0, and one that is malformed. -/
noncomputable def barred (narr : Nat) : State := (base (inScr 0)).modBk 3 fun b => { b with mem := writeCells b.mem 0 2 narr }
theorem wit_BarrierUpdates : (barred 2).hasBk 3 = true ∧ Memory.wf ((barred 2).bk 3).mem = true ∧
    barBad ((barred 2).scrRead 3 0 16) = false := by
  decide +kernel
theorem wit_BarrierInstructions : Alone (barred 2) t0 ∧ Closes (barred 2) t0 [(4, 1), (2, 2), (5, 1)] [(2, 2), (5, 1)] ∧
    Closes (barred 2) t0 [(2, 2), (5, 1)] [(2, 2), (5, 1)] ∧
    (∃ s2, ((barred 2).closeRegion t0).reach t0 (((barred 2).closeRegion t0).pair t0 2) 16 16 .write = .at_ s2 (.scr 3 0 false) ∧
      (!s2.scrPoisoned 3 0 16 && !barBad (s2.scrRead 3 0 16) && releasedAnd s2 t0 fun _ => true) = true) ∧
    (∃ s2, ((barred 0).closeRegion t0).reach t0 (((barred 0).closeRegion t0).pair t0 2) 16 16 .write = .at_ s2 (.scr 3 0 false) ∧
      (!s2.scrPoisoned 3 0 16 && barBad (s2.scrRead 3 0 16)) = true) := by
  refine ⟨alone_of ?_, closes_of ?_, closes_of ?_, reach_with (p := fun s2 => !s2.scrPoisoned 3 0 16 &&
    !barBad (s2.scrRead 3 0 16) && releasedAnd s2 t0 fun _ => true) ?_, reach_with ?_⟩ <;> decide +kernel
theorem wit_BarrierInstructions_limit :
    (((barred 2).modTh t0 fun x => { x with park := .bwait 3 0 false (some 0) 4 }).th t0).park = .bwait 3 0 false (some 0) 4 := by
  decide +kernel

/-- A queue of one slot at offset 0, with `n` handles. -/
noncomputable def queued (n : Nat) : State :=
  (base []).modBk 3 fun b => { b with mem := writeCells b.mem 0 8 (1 + 2 ^ 24 * n + 2 ^ 56 * 0x80), queues := [0] }
theorem wit_QueueOperations : (queued 1).hasBk 3 = true ∧ Memory.wf ((queued 1).bk 3).mem = true ∧
    0 < Claims.qByte (queued 1) 3 0 0 ∧ Claims.qByte (queued 1) 3 0 0 ≤ 128 ∧
    Claims.qByte (queued 1) 3 0 2 < Claims.qByte (queued 1) 3 0 0 ∧ Claims.qByte (queued 1) 3 0 3 ≤ Claims.qByte (queued 1) 3 0 0 ∧
    ((queued 0).qPush 3 0 0 7).isSome = true ∧ ((queued 1).qPop 3 0).isSome = true := by
  decide +kernel
theorem wit_queue (n : Nat) (h : ((((queued n).closeRegion t0).bk 3).queues[0]? == some 0 &&
    !((queued n).closeRegion t0).queueBad 3 0 0 && !((queued n).closeRegion t0).scrPoisoned 3 0
      (48 + 9 * ((Claims.qByte ((queued n).closeRegion t0) 3 0 0 + 7) / 8 * 8))) = true) :
    Claims.Queue ((queued n).closeRegion t0) t0 0 0 := by
  simp only [Bool.and_eq_true, Bool.not_eq_true', beq_iff_eq] at h
  exact { place := h.1.1, formed := h.1.2, sound := h.2 }
theorem wit_QueueInstructions : Alone (queued 0) t0 ∧ Claims.Queue ((queued 0).closeRegion t0) t0 0 0 ∧
    Closes (queued 0) t0 [(8, 2)] [(8, 2)] ∧ Closes (queued 0) t0 [(8, 2)] [] ∧ ((queued 0).th t0).stack.length < 16 ∧
    (∃ s2, Claims.Released ((queued 0).closeRegion t0) t0 s2 ∧ (s2.qPush 3 0 0 7).isSome = true) ∧
    ((queued 0).closeRegion t0).qPop 3 0 = none := by
  refine ⟨alone_of ?_, wit_queue 0 ?_, closes_of ?_, closes_of ?_, ?_, released_of ?_, ?_⟩ <;> decide +kernel
theorem wit_QueueInstructions_full : Alone (queued 1) t0 ∧ Claims.Queue ((queued 1).closeRegion t0) t0 0 0 ∧
    (∃ s2, Claims.Released ((queued 1).closeRegion t0) t0 s2 ∧ (s2.qPush 3 0 0 7).isNone = true) ∧
    (((queued 1).closeRegion t0).qPop 3 0).isSome = true := by
  refine ⟨alone_of ?_, wit_queue 1 ?_, released_of ?_, ?_⟩ <;> decide +kernel

/-- A queue that the block does not have, and one whose descriptor is malformed (size 0). -/
noncomputable def malformed : State := (queued 0).modBk 3 fun b => { b with mem := writeCells b.mem 0 1 0 }
theorem wit_QueueInstructions_traps : (((queued 0).closeRegion t0).bk 3).queues[1]? = none ∧ Alone malformed t0 ∧
    ((malformed.closeRegion t0).bk 3).queues[0]? = some 0 ∧ (malformed.closeRegion t0).queueBad 3 0 0 = true ∧
    Closes malformed t0 [(8, 2)] [(8, 2)] ∧ Closes malformed t0 [(8, 2)] [] ∧ (malformed.th t0).stack.length < 16 := by
  refine ⟨?_, alone_of ?_, ?_, ?_, closes_of ?_, closes_of ?_, ?_⟩ <;> decide +kernel

/-- The block's only thread opens a generation; beside a second thread it waits; a launch without FLAGS.COOPERATIVE traps. -/
noncomputable def two : State :=
  let s := base []
  { s with threads := s.threads ++ [{ s.th t0 with ref := { t0 with lane := 1 } }] }
/-- The same machine with every gang retired. -/
noncomputable def gangless : State := { base [] with gangs := [] }
theorem wit_HardwareBarriers : Alone (base []) t0 ∧ Closes (base []) t0 [] [] ∧
    (((base []).closeRegion t0).ke (((base []).closeRegion t0).bkOf t0).kernel).desc.cooperative = false ∧
    (∀ x ∈ (base []).threads, x.park = .exited ∨ x.ref ∈ [t0]) ∧ [t0].Nodup ∧ (∃ x ∈ (base []).threads, x.ref = t0) ∧
    ((base []).bar (.core 3 0)).arrived = [] ∧ Alone two t0 ∧
    (∃ x ∈ two.threads, two.partOf (.core 3 0) x.ref = true ∧ x.park ≠ .exited ∧ x.ref ∉ [t0]) ∧
    Alone gangless t0 ∧ Closes gangless t0 [] [] ∧
    (gangless.closeRegion t0).hasGa ((gangless.closeRegion t0).bkOf t0).gang = false := by
  refine ⟨alone_of ?_, closes_of ?_, ?_, ?_, ?_, ?_, ?_, alone_of ?_, ?_, alone_of ?_, closes_of ?_, ?_⟩ <;> decide +kernel

/-- No command outstanding, one, and a held fault. -/
def aCmd : Cmd := { id := 9, eng := .matrix 0 0, cls := 1, fn := 6, vd := 1, blk := 3, bun := 0, lane := 0, viewAcc := 0x80C37040 }
noncomputable def working (c : Cmd) : State := { base [] with cmds := [c] }
noncomputable def holding : State :=
  (base []).modBu 3 0 fun b => { b with held := [{ cls := 1, cause := causeProt, val := 7, cmd := 9 }] }
theorem wit_WaitForCounter : Alone (working aCmd) t0 ∧ Closes (working aCmd) t0 [] [] ∧
    0 < (((working aCmd).closeRegion t0).cmds.filter fun x => x.blk == 3 && x.bun == 0 && x.cls == 1).length ∧
    Closes holding t0 [] [] ∧ Alone holding t0 ∧ (holding.bu 3 0).held.find? (fun h => h.cls == 2) = none ∧
    ((((holding.closeRegion t0).acquire t0 0).bu 3 0).held.find? fun h => h.cls == 1).isSome = true ∧
    ((holding.closeRegion t0).acquire t0 0).live t0 = true := by
  refine ⟨alone_of ?_, closes_of ?_, ?_, closes_of ?_, alone_of ?_, ?_⟩ <;> decide +kernel

/-! ## Control flow, threads, rows, traps -/

/-- A thread with a stack window [0x50400, 0x50500) and SP at a place in it, and v8 a code address. -/
noncomputable def withSp (sp : Nat) : State :=
  (base [(8, 0x50040)]).modTh t0 fun x => { x with sp := dw sp, slo := 0x50400, shi := 0x50500, stack := [true] }
theorem wit_ControlFlow : Sole (withSp 0x50500) t0 ∧ Readable (withSp 0x50500) t0 [(8, 2)] [(8, 2)] ∧
    ((withSp 0x50500).th t0).stack ≠ [] ∧ Claims.cond 1 ((withSp 0x50500).th t0) = true ∧ ((withSp 0x50500).th t0).active = true ∧
    Claims.cond 2 ((withSp 0x50500).th t0) = false ∧ ((withSp 0x50500).pair t0 8).toNat % 64 = 0 ∧
    ((base [(8, 0x50044)]).pair t0 8).toNat % 64 ≠ 0 := by
  refine ⟨sole_of ?_, readable_of ?_, ?_⟩ <;> decide +kernel
/-- The highest and the lowest SP from which a call fits, the first below, and RET's limits. -/
theorem wit_ControlFlow_slot : (0x50400 + 8 ≤ ((withSp 0x50500).th t0).sp.toNat ∧ ((withSp 0x50500).th t0).sp.toNat ≤ 0x50500) ∧
    (∃ s2, (withSp 0x50500).reach t0 (((withSp 0x50500).th t0).sp - 8) 8 8 .write = .at_ s2 (.dev 1 0x504F8 0x504F8)) ∧
    ((withSp 0x50500).th t0).stores.length < 16 * ((withSp 0x50500).bkOf t0).rbuf ∧
    ((withSp 0x50407).th t0).sp.toNat < 0x50400 + 8 ∧
    (∃ s2, (withSp 0x504F8).reach t0 ((withSp 0x504F8).th t0).sp 8 8 .read = .at_ s2 (.dev 1 0x504F8 0x504F8)) ∧
    0x50500 < ((withSp 0x504F9).th t0).sp.toNat + 8 ∧ Readable (withSp 0x504F8) t0 [] [] ∧ Alone (withSp 0x504F8) t0 ∧
    ((withSp 0x504F8).locRead 0 (.dev 1 0x504F8 0x504F8) 8 .l1).2.2 = false := by
  refine ⟨?_, reach_of ?_, ?_, ?_, reach_of ?_, ?_, readable_of ?_, alone_of ?_, ?_⟩ <;> decide +kernel

/-- Bins: none yet; one that its 32nd child fills; one that is due; all sixteen taken. -/
def aBin (n : Nat) (due : Option Nat) : Bin := { blk := 3, entry := 0x50040, args := List.replicate n 7, left := 0, due := due }
noncomputable def binned (l : List Bin) : State := (base [(10, 0x50040), (12, 7)]).modCo 0 fun c => { c with bins := l }
theorem wit_SpawnAndExit_traps (s : State) (hs : s = base [(10, 0x50044), (12, 7)] ∨ s = base [(10, 0), (11, 0xF0000), (12, 7)]) :
    Alone s t0 ∧ Closes s t0 [(10, 2), (12, 1)] [(10, 2), (12, 1)] ∧ (((s.closeRegion t0).pair t0 10).toNat % 64 ≠ 0 ∨
      0xF000000000000 ≤ ((s.closeRegion t0).pair t0 10).toNat) := by
  rcases hs with rfl | rfl <;> refine ⟨alone_of ?_, closes_of ?_, ?_⟩ <;> decide +kernel
theorem wit_SpawnAndExit : Alone (binned []) t0 ∧ Closes (binned []) t0 [(10, 2), (12, 1)] [(10, 2), (12, 1)] ∧
    (((binned []).closeRegion t0).pair t0 10).toNat % 64 = 0 ∧ ((binned []).co 0).bins.length < 16 ∧
    ((binned [aBin 31 none]).co 0).bins.find? (fun x => x.blk == 3 && x.entry == 0x50040) = some (aBin 31 none) ∧
    (aBin 32 (some 5)).due ≠ none ∧ 16 ≤ ((binned (List.replicate 16 { aBin 1 none with entry := 0x50080 })).co 0).bins.length ∧
    Closes (binned []) t0 [] [] ∧ (∀ b ∈ ((binned []).closeRegion t0).bars, t0 ∉ b.arrived) ∧ (aBin 31 none).left = 0 ∧
    ((binned [aBin 1 (some 5)]).launchBin 0 (aBin 1 (some 5))).isSome = true ∧ (binned []).running 3 = true := by
  refine ⟨alone_of ?_, closes_of ?_, ?_, ?_, ?_, ?_, ?_, closes_of ?_, ?_⟩ <;> decide +kernel

/-- A round of one thread whose v5 asks for 144, 16 or 0 rows; a grant and a release that wait. -/
noncomputable def asking (n : Nat) : State :=
  { base [(5, n)] with group := { refs := [t0], pc := dw codeAddr, round := true } }
theorem wit_asking (n : Nat) (h : (((asking n).group.refs == [t0]) && (asking n).group.round && (asking n).live t0 &&
    ((asking n).th t0).stores == [] && !(asking n).shadowed && ((asking n).bundles.any fun b => b.blk == 3 && b.idx == 0) &&
    ((asking n).bu 3 0).rf.length == 32 && (((asking n).bu 3 0).rf.all fun r => r.length == ((asking n).bu 3 0).alloc) &&
    ((asking n).bu 3 0).poison == [] && !attached ((asking n).bu 3 0).viewCk ((asking n).bu 3 0).viewAcc) = true) :
    InRound (asking n) 3 0 [t0] := by
  simp only [Bool.and_eq_true, Bool.not_eq_true', beq_iff_eq, List.any_eq_true, List.all_eq_true] at h
  obtain ⟨⟨⟨⟨⟨⟨⟨⟨⟨h1, h2⟩, h3⟩, h4⟩, h5⟩, b, hb, h6⟩, h7⟩, h8⟩, h9⟩, h10⟩ := h
  exact { group := h1, round := h2, ordered := by simp, mates := by simp [t0], live := by simpa using h3, stores := by simpa using h4,
          plain := h5, bundle := ⟨b, hb, h6⟩, rows := ⟨h7, h8⟩, sound := h9, bare := h10 }
theorem wit_AllocationResults : InRound (asking 144) 3 0 [t0] ∧ windowTrap ((asking 144).bu 3 0) [(5, 1)] = none ∧
    ((asking 144).reg t0 5).toNat % 16 = 0 ∧ ((asking 16).reg t0 5).toNat < ((asking 16).bu 3 0).alloc ∧
    ((asking 16).bu 3 0).viewsBeyond 16 = false ∧ (asking 16).coversFrom 3 0 16 = false ∧
    ({ asking 16 with cmds := [{ aCmd with writes := [(64, 16)] }] } : State).coversFrom 3 0 16 = true ∧
    (((asking 144).modBu 3 0 fun b => { b with want := some (144, 7) }).wanting 0 0).length = 1 ∧
    144 - 128 ≤ (asking 144).rowsFree 0 0 ∧ (((asking 16).modBu 3 0 fun b => { b with free := some 16 }).bu 3 0).free = some 16 ∧
    viewBad 0x80C37040 = false := by
  refine ⟨wit_asking 144 ?_, ?_⟩ <;> decide +kernel

theorem wit_AllocationResults_traps : InRound (asking 1040) 3 0 [t0] ∧ windowTrap ((asking 1040).bu 3 0) [(5, 1)] = none ∧
    ((asking 1040).th t0).active = true ∧ ((asking 1040).th t0).trapVec ≠ 0 ∧ ((asking 1040).th t0).trapSave = none ∧
    1024 < ((asking 1040).reg t0 5).toNat ∧ ((asking 8).reg t0 5).toNat % 16 ≠ 0 ∧
    (((asking 16).modBu 3 0 fun b => { b with viewT0 := 0x80C37040 }).bu 3 0).viewsBeyond 16 = true ∧
    (((asking 0xE0000000).reg t0 5).getLsbD 31 && viewBad ((asking 0xE0000000).reg t0 5)) = true ∧
    ((asking 0x80C37040).reg t0 5).getLsbD 31 = true ∧ ((asking 0x80C37041).reg t0 5).getLsbD 31 = true ∧
    viewBad 0x80C37041 = false ∧ viewBase 0x80C37041 % 8 ≠ 0 := by
  refine ⟨wit_asking 1040 ?_, ?_⟩ <;> decide +kernel
theorem wit_TrapEntry : ((base []).th t0).trapVec ≠ 0 ∧ ((base []).th t0).trapSave = none ∧ ((base []).closeRegion t0).live t0 = true ∧
    (((base []).modTh t0 fun x => { x with trapVec := 0 }).th t0).trapVec = 0 ∧
    (base []).hasKe ((base []).bkOf t0).kernel = true ∧ ((base []).th t0).stores = [] := by
  decide +kernel
/-- A thread whose buffered store waits for a load's result that has not arrived, and one whose result has. -/
noncomputable def loading (b : Bool) : State := (base []).modTh t0 fun x => { x with
  stores := [{ loc := .scr 3 0 false, size := 4, data := 1, pol := 0, vpage := 0 }]
  pending := [{ dst := 5, vals := [7], window := 3, arrived := b, tag := 1 }] }
theorem wit_TrapEntry_waits : ((loading false).th t0).trapVec ≠ 0 ∧ ((loading false).th t0).trapSave = none ∧
    ((loading false).th t0).stores ≠ [] ∧ (∃ p ∈ ((loading false).th t0).pending, p.arrived = false) ∧
    (∀ p ∈ ((loading true).th t0).pending, p.arrived = true) := by
  decide +kernel

noncomputable def inHandler (pc : Nat) : State := (base []).modTh t0 fun x => { x with trapSave := some [true], trapPc := dw pc }
theorem wit_SystemResults : Alone (base []) t0 ∧ Closes (base []) t0 [] [] ∧ Readable (base []) t0 [] [] ∧
    ((base []).th t0).trapSave = none ∧ Alone (inHandler 0x50002) t0 ∧ Closes (inHandler 0x50002) t0 [] [] ∧
    ((inHandler 0x50002).th t0).trapSave ≠ none ∧ ((inHandler 0x50002).th t0).trapPc.toNat % 4 ≠ 0 ∧
    Alone (inHandler 0x50004) t0 ∧ Closes (inHandler 0x50004) t0 [] [] ∧ ((inHandler 0x50004).th t0).trapSave = some [true] ∧
    ((inHandler 0x50004).th t0).trapPc.toNat % 4 = 0 ∧ ((inHandler 0x50004).th t0).stores = [] := by
  refine ⟨alone_of ?_, closes_of ?_, readable_of ?_, ?_, alone_of ?_, closes_of ?_, ?_, ?_, alone_of ?_, closes_of ?_, ?_⟩ <;>
    decide +kernel

/-! ## Engines -/

/-- An accumulator of 4 by 4 f32 elements, an MMA whose A lies in the scratchpad, and a COPY's descriptor at offset 0. -/
noncomputable def engine : State :=
  ((base [(4, 0x25580001), (8, 0), (9, 0xF0000)]).modBu 3 0 fun b => { b with viewAcc := 0x80C37040 }).modBk 3 fun b =>
    { b with mem := writeCells (writeCells (writeCells b.mem 0 8 (0xF000000000400)) 8 8 (0xF000000000800)) 16 8 (16 + 2 ^ 32) }
def issuableB (s : State) (f : EngForm) : Bool :=
  f.check s t0 (f.build s t0) == none && f.addr s t0 (f.build s t0) == .ok &&
    s.counter (f.build s t0).blk (f.build s t0).bun (f.build s t0).cls < 63 && !s.interlocked (f.build s t0) &&
    !s.engFull (f.build s t0).eng t0 && !(s.buOf t0).badFor (f.build s t0) && f.late s t0 (f.build s t0) == none
theorem issuable_of {s : State} {f : EngForm} (h : issuableB s f = true) : Claims.Issuable s t0 f 0 none := by
  simp only [issuableB, Bool.and_eq_true, Bool.not_eq_true', beq_iff_eq, decide_eq_true_eq] at h
  obtain ⟨⟨⟨⟨⟨⟨h1, h2⟩, h3⟩, h4⟩, h5⟩, h6⟩, h7⟩ := h
  exact { checks := h1, barrier := rfl, addresses := h2, counter := h3, rows := h4, slot := h5, sound := h6, late := h7 }
theorem wit_EngineIssue : Alone engine t0 ∧ Closes engine t0 (Claims.engRegs 4 4 0) (Claims.engRegs 4 4 0) ∧
    Claims.Issuable (engine.closeRegion t0) t0 (stepForm 0 4 0) 0 none ∧ Closes engine t0 [] [] ∧
    Claims.Issuable (engine.closeRegion t0) t0 mzeroForm 0 none ∧
    Closes engine t0 (Claims.engRegs 8 2 0) (Claims.engRegs 8 2 0) ∧ (engine.closeRegion t0).scrPoisoned 3 0 64 = false ∧
    Claims.Issuable (engine.closeRegion t0) t0 (copyForm 0 9 8) 0 none := by
  refine ⟨alone_of ?_, closes_of ?_, issuable_of ?_, closes_of ?_, issuable_of ?_, closes_of ?_, ?_, issuable_of ?_⟩ <;> decide
    +kernel
/-- A check that fails (no accumulator view), a misaligned barrier, a full class. -/
theorem wit_EngineChecks : Alone (base []) t0 ∧ Closes (base []) t0 (Claims.engRegs 4 4 0) (Claims.engRegs 4 4 0) ∧
    ((stepForm 0 4 0).check ((base []).closeRegion t0) t0 ((stepForm 0 4 0).build ((base []).closeRegion t0) t0)).isSome = true ∧
    viewEn (((base []).closeRegion t0).buOf t0).viewAcc = false ∧
    (((base [(6, 8)]).closeRegion t0).pair t0 6).toNat % 16 ≠ 0 ∧
    63 ≤ ({ engine with cmds := List.replicate 63 aCmd } : State).counter 3 0 1 := by
  refine ⟨alone_of ?_, closes_of ?_, ?_⟩ <;> decide +kernel
theorem wit_TilesReadBack : (engine.bu 3 0).rf.length = 32 ∧ (∀ r ∈ (engine.bu 3 0).rf, r.length = (engine.bu 3 0).alloc) ∧
    viewBad 0x80C37040 = false ∧ viewBase 0x80C37040 + viewRegs false 0x80C37040 ≤ (engine.bu 3 0).alloc ∧
    (List.replicate 16 7).length = viewRows 0x80C37040 * viewCols 0x80C37040 ∧
    (∀ x ∈ List.replicate 16 7, x < 2 ^ (4 * elemNibbles (viewFmt 0x80C37040))) := by
  decide +kernel

/-- A command at work, with its last unit done, with a fault, set aside, and of a halted block. -/
noncomputable def atWork (c : Cmd) : State := { engine with cmds := [c], engs := [] }
theorem working_of {s : State} {c : Cmd} (h : (s.cmds.find? (fun x => x.id == c.id) == some c && s.running c.blk &&
    (s.engCtl c.eng).state == 0 && !(s.vd c.vd).draining) = true) (hc : ∀ die, c.eng ≠ .quay die) : Claims.Working s c := by
  simp only [Bool.and_eq_true, Bool.not_eq_true', beq_iff_eq] at h
  exact { known := h.1.1.1, runs := h.1.1.2, core := hc, going := h.1.2, calm := h.2 }
theorem wit_EngineEvents_units : (atWork aCmd).nextCmd (.matrix 0 0) = some aCmd ∧
    Claims.Working (atWork { aCmd with st := .running }) { aCmd with st := .running } ∧
    (((atWork aCmd).modBk 3 fun b => { b with halted := true }).running 3) = false := by
  refine ⟨?_, working_of ?_ (by intro _ h; cases h), ?_⟩ <;> decide +kernel
theorem wit_EngineEvents_ends : Claims.Working (atWork { aCmd with st := .running, held := true }) { aCmd with st := .running, held := true } ∧
    (∃ b ∈ (atWork aCmd).bundles, b.blk = 3 ∧ b.idx = 0) ∧ ((atWork aCmd).bu 3 0).ended = false ∧ ((atWork aCmd).bu 3 0).held = [] ∧
    Claims.Working (atWork { aCmd with st := .running, fault := some { cause := causeProt, val := 7 } })
      { aCmd with st := .running, fault := some { cause := causeProt, val := 7 } } ∧
    causeProt ≠ causePage ∧ causeProt ≠ causeUe ∧ (((atWork aCmd).modVd 1 fun v => { v with dpage := true }).vd 1).dpage = true ∧
    (atWork { aCmd with st := .setAside 5 }).cmdListed { aCmd with st := .setAside 5 } = false := by
  refine ⟨working_of ?_ (by intro _ h; cases h), ?_, ?_, ?_, working_of ?_ (by intro _ h; cases h), ?_⟩ <;> decide +kernel
noncomputable def engineIn (n : Nat) : State :=
  { engine with engs := [{ eng := .matrix 0 0, state := n, all := true, every := true }], clk := { engine.clk with a := 1048576 } }
theorem wit_EngineEvents_drain : ((engineIn 0).engCtl (.matrix 0 0)).state = 0 ∧ ((engineIn 1).engCtl (.matrix 0 0)).state = 1 ∧
    ((engineIn 2).engCtl (.matrix 0 0)).state = 2 ∧ ((engineIn 1).engCtl (.matrix 0 0)).reset = false ∧ (∀ c ∈ (engineIn 1).cmds, c.eng = .matrix 0 0 → False) ∧
    engCore (.matrix 0 0) = some 0 ∧
    ((engineIn 1).engCtl (.matrix 0 0)).since + 1048576 ≤ (engineIn 1).engNow (.matrix 0 0) := by
  refine ⟨?_, ?_, ?_, ?_, ?_, rfl, ?_⟩ <;> decide +kernel

end Sys2Proof.Tests
end

