-- ==== Sys2Proof/Tests/WitnessEvents.lean ====
section
/-! SUPPORT. Witnesses of the statements about the package's events: scheduling, queues, Harbour, the host, the fabric, boot and
clocks, and about the step. -/

namespace Sys2Proof.Tests

set_option Elab.async false

open Sys2Proof.Machine Sys2Proof.Safety

/-! ## Scheduling -/

noncomputable def converging : State := (base []).modTh t0 fun x => { x with park := .conv }
theorem wit_Rounds : (∃ b ∈ converging.bundles, b.blk = 3 ∧ b.idx = 0) ∧ converging.running 3 = true ∧
    (converging.bu 3 0).round = [] ∧ (converging.bu 3 0).want = none ∧ (converging.bu 3 0).free = none ∧
    converging.liveOf 3 0 ≠ [] ∧ (∀ x ∈ converging.liveOf 3 0, x.park = .conv) := by decide +kernel

/-- Bundles 0 to 8 of the block: bundle 0 pending since cycle 0, the others active and without threads. -/
noncomputable def pendingBundle (others : Nat) : State :=
  let s := (base []).modBu 3 0 fun b => { b with active := false, readySince := some 0 }
  { s with
    bundles := s.bundles ++ (List.range others).map fun k => { freshBundle 3 (k + 1) 0 (k + 1) 16 with active := true }
    clk := { s.clk with a := 1024 } }
theorem wit_ActiveSet : (pendingBundle 7).longestPending 0 0 = some ((pendingBundle 7).bu 3 0) ∧
    ((pendingBundle 7).activeOn 0 0).length < 8 ∧
    (pendingBundle 8).longestPending 0 0 = some ((pendingBundle 8).bu 3 0) ∧ 8 ≤ ((pendingBundle 8).activeOn 0 0).length ∧
    (∃ old, ((pendingBundle 8).activeOn 0 0).find? (pendingBundle 8).allWait = some old ∧ (old.blk, old.idx) ≠ (3, 0)) ∧
    ((pendingBundle 8).bu 3 0).readySince = some 0 ∧ 0 + 1024 ≤ (pendingBundle 8).cycles (dieOfCore 0) ∧
    (pendingBundle 8).activeOn 0 0 ≠ [] := by
  refine ⟨by decide +kernel, by decide +kernel, by decide +kernel, by decide +kernel, ?_, by decide +kernel, by decide +kernel,
    by decide +kernel⟩
  obtain ⟨x, hx, hp⟩ := any_some (o := ((pendingBundle 8).activeOn 0 0).find? (pendingBundle 8).allWait)
    (p := fun b => (b.blk, b.idx) != (3, 0)) (by decide +kernel)
  exact ⟨x, hx, by simpa using hp⟩

/-- A group that waits for its comparison. -/
def shadowed (pre : Bool) : ShadowEntry := { core := 0, sub := 0, refs := [t0], pc := dw codeAddr, pre := pre }
noncomputable def comparing (pre : Bool) : State :=
  let s := (base []).modTh t0 fun x => { x with park := .shadow }
  { s with shadows := [shadowed pre] }
theorem wit_Comparisons : (comparing true).shadowHead 0 0 = some (shadowed true) ∧ (shadowed true).refs = [t0] ∧
    (comparing false).shadowHead 0 0 = some (shadowed false) ∧ (∀ t ∈ [t0], ((comparing true).th t).park = .shadow) := by
  decide +kernel

/-- A dirty byte of a line of core 0, and of the far cache of die A. -/
def dirtyLine (ma : Nat) : CLine :=
  { vd := 1, line := 0xA04, ma := some ma, data := 0xAB, valid := BitVec.allOnes 128, dirty := 1 }
noncomputable def cachedDirty : State :=
  let s := (base []).modCo 0 fun c => { c with l1 := [dirtyLine 0x50200] }
  { s with far := [(0, dirtyLine (2 ^ 38))] }
theorem wit_Evictions : cachedDirty.l1Line 0 1 0xA04 = some (dirtyLine 0x50200) ∧ 0x50200 % 128 = 0 ∧
    dieOfMa 0x50200 = dieOfCore 0 ∧ Memory.wf cachedDirty.mem = true ∧ (dirtyLine 0x50200).dirty.getLsbD 0 = true ∧
    cachedDirty.farLine 0 1 0xA04 = some (dirtyLine (2 ^ 38)) := by decide +kernel

/-- A slice with a metered VD that has no token, idle, and one with an unmetered VD waiting. -/
noncomputable def metered (rate : Nat) (tok : Int) (idle : Bool) : State :=
  let s := (base []).modVd 1 fun v => { v with rate := rate, burst := 8 }
  { s with slices := [{ die := 0, slice := 3, tok := [(1, tok)], waiting := [1], last := 0, idle := idle, served := false }] }
theorem wit_Meters : assocGet 1 (((metered 4 0 true).slices.map (·.tok)).getD 0 []) = some 0 ∧
    (∃ x ∈ (metered 4 0 true).slices, x.die = 0 ∧ x.slice = 3 ∧ (metered 4 0 true).toServe x = some 1) ∧
    (∃ x ∈ (metered 4 (-8) true).slices, (metered 4 (-8) true).toServe x = none) ∧
    (∃ x ∈ (metered 0 0 false).slices, (metered 0 0 false).toServe x = some 1) ∧ ((metered 4 0 true).vd 1).rate ≠ 0 := by
  decide +kernel

/-- Quad 0, whose VD 1 has a spent deficit, with a second VD waiting; the same during a round; and between turns. -/
noncomputable def contested (credit : Int) (idle : Nat) : State :=
  (base []).modQuad 0 fun x => { x with ring := [1, 2], deficit := [(1, credit)], idle := idle }
noncomputable def undrained : State := (contested 0 4097).modBu 3 0 fun b => { b with round := [dw codeAddr] }
theorem wit_TurnEnds : ((contested 0 0).quad 0).vd = some 1 ∧ ((contested 0 0).quad 0).contested = true ∧
    ((contested 0 0).quad 0).credit 1 ≤ 0 ∧ (contested 0 0).drained 0 = true ∧ undrained.drained 0 = false ∧
    (undrained.quad 0).vd = some 1 ∧ (undrained.quad 0).contested = true ∧ 4096 < (undrained.quad 0).idle ∧
    4096 < ((contested 5 4097).quad 0).idle ∧ (contested 5 4097).drained 0 = true ∧ ((contested 5 4097).quad 0).vd = some 1 ∧
    ((contested 5 4097).quad 0).contested = true ∧ ((contested 5 4097).quad 0).ring.contains 1 = true := by decide +kernel
noncomputable def alone : State := (base []).modQuad 0 fun x => { x with ring := [1], deficit := [(1, -3)] }
theorem wit_TurnEnds_alone : (alone.quad 0).vd = some 1 ∧ (alone.quad 0).ring = [1] ∧ (alone.quad 0).ending = false ∧
    (alone.quad 0).credit 1 ≤ 0 ∧ 0 < alone.quads.length := by decide +kernel

noncomputable def between : State := (base []).modQuad 0 fun x => { x with vd := none }
noncomputable def resting : State := (base []).modBk 3 fun b => { b with halted := true }
theorem wit_TurnStarts : ((between.updateRing 0).quad 0).vd = none ∧
    ringNext ((between.updateRing 0).quad 0).ring ((between.updateRing 0).quad 0).last = some 1 ∧ 0 < between.quads.length ∧
    resting.hasBk 3 = true ∧ (resting.bk 3).halted = true ∧ resting.quadVd ((resting.bk 3).core / 4) = some (resting.bk 3).vd ∧
    (resting.quad ((resting.bk 3).core / 4)).ending = false ∧ (between.quad 0).hold = false ∧ (resting.ke (resting.bk 3).kernel).suspended = false := by
  decide +kernel
/-- A block whose scratchpad is where it was, and one whose core now has the wrong split and no array. -/
theorem wit_TurnStarts_fits : (resting.restore 3).isSome = true ∧
    (((resting.modBk 3 fun b => { b with scrHere := false }).modKe 1 fun k => { k with desc := { k.desc with split := 0 } }).restore
      3) = none := by decide +kernel

/-! ## Queues and dispatch -/

theorem reaches_of {s : State} {vd : Nat} {tbit : Bool} (h : (s.hasVd vd && s.enabled vd && (s.vd vd).admits true tbit) = true) :
    Claims.Reaches s vd tbit := by
  simp only [Bool.and_eq_true] at h
  exact { there := h.1.1, enabled := h.1.2, admits := h.2 }

/-- Queue 0 with a ring of 16 at 0x58000, disabled, enabled with one packet, and stopped. -/
noncomputable def withQueue (u : UQueue) : State := (base []).modVd 1 fun v => { v with queues := [(0, u)] }
def ring16 : UQueue := { qbase := 0x58000, qctl := 0x41, widx := 1 }
theorem wit_QueueWrites : Claims.Reaches (withQueue ring16) 1 false ∧ (withQueue ring16).takesNotify 1 = true ∧
    qEn ((withQueue ring16).queue 1 0) = true ∧ ((16 : Word) - 0).toNat ≤ 2 ^ qSize ring16 ∧
    (ring16.widx - ring16.rdidx).toNat < ((16 : Word) - 0).toNat ∧
    ¬ ((17 : Word) - 0).toNat ≤ 2 ^ qSize ring16 ∧ Claims.Reaches (base []) 1 false ∧
    qEn ((base []).queue 1 0) = false ∧ (0x41 : Word).getLsbD 0 = true ∧ Claims.ringFits ((base []).queue 1 0).qbase 0x41 4 14 ∧
    Claims.ringFits 0 0xE1 4 14 ∧ ¬ Claims.ringFits 0 0xF1 4 14 ∧ ¬ Claims.ringFits 0 0x31 4 14 ∧ (0x80000000 : Word).getLsbD 31 = true ∧
    Claims.Reaches (withQueue { ring16 with err := true, code := 2 }) 1 false ∧
    ((withQueue { ring16 with err := true, code := 2 }).queue 1 0).err = true ∧ (0 < 64 ∧ 64 ≤ 64) := by
  refine ⟨reaches_of ?_, ?_, ?_, ?_, ?_, ?_, reaches_of ?_, ?_, ?_, ?_, ?_, ?_, ?_, ?_, reaches_of ?_, ?_⟩ <;> decide +kernel

noncomputable def withCtl (c : Control) : State := (base []).modVd 1 fun v => { v with ctl := c }
def rings : Control := { crbase := 0x58000, crctl := 0x41, fqbase := 0x59000, fqctl := 0x41, fqtail := 16 }
theorem wit_ControlWrites : Claims.Reaches (withCtl rings) 1 false ∧ (withCtl rings).takesNotify 1 = true ∧
    ringEn ((withCtl rings).ctl 1).crctl = true ∧ ringEn ((withCtl rings).ctl 1).fqctl = true ∧
    (rings.crwidx - rings.crdone).toNat < ((16 : Word) - rings.crdone).toNat ∧
    ((16 : Word) - rings.crdone).toNat ≤ 2 ^ ringSize rings.crctl ∧ Claims.Reaches (base []) 1 false ∧
    ringEn ((base []).ctl 1).crctl = false ∧ ringEn ((base []).ctl 1).fqctl = false ∧ Claims.ringFits 0 0xA1 4 10 ∧
    ¬ Claims.ringFits 0 0xB1 4 10 ∧ Claims.ringFits 0 0xE1 4 14 ∧ ¬ Claims.ringFits 32 0x41 4 10 ∧
    (rings.fqtail - 0).toNat ≤ 2 ^ ringSize rings.fqctl ∧ 2 ^ ringSize rings.fqctl < (rings.fqtail - 0xFFFFFFFF).toNat ∧
    (0x40 : Word).getLsbD 0 = false ∧ ((withCtl rings).modVd 1 fun v => { v with bud := 0 }).takesNotify 1 = true ∧
    (((withCtl rings).modVd 1 fun v => { v with bud := 0 }).vd 1).bud ≤ 0 := by
  refine ⟨reaches_of ?_, ?_, ?_, ?_, ?_, ?_, reaches_of ?_, ?_⟩ <;> decide +kernel

theorem wit_RefusedWrites : (base []).enabled 2 = false ∧ (base []).enabled 1 = true ∧ ((base []).vd 1).admits true true = false := by
  decide +kernel

/-- What a read of Quay brings. -/
def readBytes (r : QRead (List Byte)) : Option (List Byte) :=
  match r with
  | .ok _ bs => some bs
  | _ => none
theorem read_of {r : QRead (List Byte)} {p : List Byte → Bool} (h : (readBytes r).any p = true) :
    ∃ s1 bs, r = .ok s1 bs ∧ p bs = true := by
  cases r with
  | ok s bs => exact ⟨s, bs, rfl, h⟩
  | xlate s => exact nomatch h
  | poison s => exact nomatch h
  | wait s => exact nomatch h
def readFails {α : Type} (r : QRead α) : Nat :=
  match r with
  | .ok _ _ => 0
  | .xlate _ => 1
  | .poison _ => 2
  | .wait _ => 3
theorem xlate_of {α : Type} {r : QRead α} (h : readFails r = 1) : ∃ s1, r = .xlate s1 := by
  cases r with
  | xlate s => exact ⟨s, rfl⟩
  | ok s a => exact nomatch h
  | poison s => exact nomatch h
  | wait s => exact nomatch h
theorem wait_of {α : Type} {r : QRead α} (h : readFails r = 3) : ∃ s1, r = .wait s1 := by
  cases r with
  | wait s => exact ⟨s, rfl⟩
  | ok s a => exact nomatch h
  | poison s => exact nomatch h
  | xlate s => exact nomatch h
theorem poison_of {α : Type} {r : QRead α} (h : readFails r = 2) : ∃ s1, r = .poison s1 := by
  cases r with
  | poison s => exact ⟨s, rfl⟩
  | ok s a => exact nomatch h
  | xlate s => exact nomatch h
  | wait s => exact nomatch h

/-- A set packet at index 0 with CSIG at 0x50800; with VALID 0; with a wrong number; a reserved field; no CSIG. -/
noncomputable def packed (header csig : Nat) (u : UQueue) : State :=
  let s := withQueue u
  { s with mem := writeCells (writeCells s.mem 0x58000 4 header) 0x58028 8 csig }
noncomputable def readHeader (s : State) : QRead (List Byte) := s.quayRead 0 1 0 0 (slotAddr (s.queue 1 0) 0) 4
theorem wit_Acceptance_poll : (packed 0x83000000 0x50800 ring16).fetching 1 0 = true ∧
    (∃ s1 bs, readHeader (packed 0x83000000 0x50800 ring16) = .ok s1 bs ∧ decide (2 ^ 31 ≤ bytesNat bs ∧ bytesNat bs < 2 ^ 32) = true) ∧
    (∃ s1 bs, readHeader (packed 0x03000000 0x50800 ring16) = .ok s1 bs ∧ decide (bytesNat bs < 2 ^ 31) = true) ∧
    (∃ s1, readHeader (withQueue { ring16 with qbase := 0x68000 }) = .xlate s1) ∧
    (withQueue { ring16 with qbase := 0x68000 }).fetching 1 0 = true ∧
    (∃ s1, readHeader { withQueue ring16 with poison := [0x58000] } = .poison s1) ∧
    (∃ s1, readHeader (hosted.modVd 1 fun v => { v with queues := [(0, { ring16 with qbase := 0x60000 })] }) = .wait s1) := by
  refine ⟨?_, read_of ?_, read_of ?_, xlate_of ?_, ?_, poison_of ?_, wait_of ?_⟩ <;> decide +kernel
noncomputable def readPacketAt (s : State) : QRead (List Byte) := s.quayRead 0 1 0 0 (slotAddr (s.queue 1 0) 0) 64
theorem wit_Acceptance_checks :
    (∃ s1 bs, readPacketAt (packed 0x83000000 0x50800 ring16) = .ok s1 bs ∧
      ((readPacket bs).valid && (readPacket bs).seq == 0 && !(readPacket bs).typeBad) = true) ∧
    (∃ s1 bs, readPacketAt (packed 0x83000001 0x50800 ring16) = .ok s1 bs ∧ ((readPacket bs).valid && (readPacket bs).seq == 1) = true) ∧
    (∃ s1 bs, readPacketAt (packed 0x84000000 0x50800 ring16) = .ok s1 bs ∧
      ((readPacket bs).valid && (readPacket bs).seq == 0 && (readPacket bs).typeBad) = true) := by
  refine ⟨read_of ?_, read_of ?_, read_of ?_⟩ <;> decide +kernel
/-- The judgement of the packet in memory: 100 for good, otherwise its code. -/
def judged (r : QRead Judgement) : Nat :=
  match r with
  | .ok _ (.good _) => 100
  | .ok _ (.bad c) => c
  | _ => 200
noncomputable def judging (s : State) : QRead Judgement :=
  match readPacketAt s with
  | .ok s1 bs => s1.judgePacket 0 1 0 0 (readPacket bs)
  | .xlate s => .xlate s
  | .poison s => .poison s
  | .wait s => .wait s
theorem wit_Acceptance_judged : judged (judging (packed 0x83000000 0x50801 ring16)) = 8 ∧
    (0x83000000 % 65536 = 0 ∧ 0x83000001 % 65536 ≠ 0) := by decide +kernel
/-- What the acceptance of a good packet goes through. -/
noncomputable def accepts (s : State) : Bool :=
  match readPacketAt s with
  | .ok s1 bs => (readPacket bs).valid && (readPacket bs).seq == 0 &&
    (match s1.judgePacket 0 1 0 0 (readPacket bs) with
    | .ok s2 (.good _) => match s2.quayReach 0 1 0 0 (slotAddr (s2.queue 1 0) 0) .write with
      | .ok s3 l => (s3.quayPut l 0x58000 4 (bytesAt bs 0 4 % 2 ^ 31) 0).2
      | _ => false
    | _ => false)
  | _ => false
/-- Packet 0 in acceptance, on its own ring and on one that has been disabled. -/
def inHand (old : Bool) : Taking := { die := 0, slot := 0x58000, idx := 0, old := old }
theorem wit_Acceptance_taking (old : Bool) :
    (packed 0x83000000 0x50800 { ring16 with taking := some (inHand old) }).accepting 1 0 = some (inHand old) ∧
    (∃ s1 bs, (packed 0x03000000 0x50800 { ring16 with taking := some (inHand old) }).quayRead (inHand old).die 1 0 (inHand old).idx
      (inHand old).slot 64 = .ok s1 bs ∧ (!(readPacket bs).valid) = true) := by
  cases old <;> refine ⟨?_, read_of ?_⟩ <;> decide +kernel
theorem wit_Acceptance_good : accepts (packed 0x83000000 0x50800 ring16) = true := by decide +kernel

/-- An accepted packet of a type, with its dependency at 0x50900. -/
def waits (typ : Nat) (met : Bool) (dval : DWord) : Accepted :=
  { idx := 0, pkt := { typ := typ, dsig := 0x50900, dval := dval, g0 := 1, g1 := 1, g2 := 1 }, met := met }
noncomputable def accepted (a : Accepted) : State := withQueue { ring16 with accepted := [a] }
theorem wit_Dependencies : ((accepted (waits 2 false 0)).queue 1 0).nextStart = some (waits 2 false 0) ∧
    (accepted (waits 2 false 0)).vdActive 1 = true ∧
    (∃ s1 bs, (accepted (waits 2 false 0)).quayReadSig 0 1 0 0 0x50900 = .ok s1 bs ∧
      decide ((dw (bytesNat bs)).toInt ≤ (0 : DWord).toInt) = true) ∧
    (∃ s1 bs, (accepted (waits 2 false (-1))).quayReadSig 0 1 0 0 0x50900 = .ok s1 bs ∧
      decide ((-1 : DWord).toInt < (dw (bytesNat bs)).toInt) = true) := by
  refine ⟨?_, ?_, read_of ?_, read_of ?_⟩ <;> decide +kernel
theorem wit_PacketStarts : (accepted (waits 0 true 0)).toStart 1 0 0 = some (waits 0 true 0) ∧
    (accepted (waits 1 true 0)).toStart 1 0 1 = some (waits 1 true 0) ∧
    (accepted (waits 2 true 0)).toStart 1 0 2 = some (waits 2 true 0) ∧
    (accepted (waits 3 true 0)).toStart 1 0 3 = some (waits 3 true 0) := by decide +kernel

/-- A kernel of one block to place, on a quad with room, and with more rows than a core holds. -/
def launched (alloc : Nat) : Kernel :=
  { id := 9, vd := 1, q := 0, pkt := 0, home := 0, desc := { alloc := alloc, bundles := 1, rbuf := 4, split := 1 } }
noncomputable def placing (alloc : Nat) : State := { base [] with kernels := [launched alloc], blocks := [], bundles := [], threads := [], gangs := [] }
theorem wit_Placement : (placing 128).vdActive 1 = true ∧ (placing 128).quayRuns 0 = true ∧ ((placing 128).rehomeOne 0 1).isNone = true ∧
    ((placing 128).resumeCoop 0 1).isNone = true ∧ (placing 128).firstGang 0 1 = some (9, none) ∧
    ((placing 128).ke 9).desc.cooperative = false ∧ (((placing 128).ke 9).planOf 0).blocks = [0] := by
  decide +kernel
theorem wit_Placement_fits : ((placing 128).placeLowest (launched 128) ((launched 128).planOf 0)).isSome = true ∧
    ((placing 128).placeGang (launched 128) ((launched 128).planOf 0) 0 0).isSome = true := by
  decide +kernel
theorem wit_Placement_full : ((placing 65536).placeLowest (launched 65536) ((launched 65536).planOf 0)) = none := by decide +kernel

/-- A packet whose work is over, without a signal, with one at a mapped address, and with one at an unmapped address. -/
noncomputable def finished (csig : DWord) : State :=
  { placing 128 with kernels := [{ launched 128 with csig := csig, typ := 2 }] }
theorem wit_PacketEnds : (finished 0).hasKe 9 = true ∧ (finished 0).workOver ((finished 0).ke 9) = true ∧
    (finished 0).signalling 9 = false ∧ ((finished 0).ke 9).csig = 0 ∧ (finished 0x50800).workOver ((finished 0x50800).ke 9) = true ∧
    readFails ((finished 0x50800).quayReach 0 1 192 0 0x50800 .write) = 0 ∧ (finished 0x50800).devPoisoned 0x50800 8 = false ∧
    readFails ((finished 0x68000).quayReach 0 1 192 0 0x68000 .write) = 1 := by
  decide +kernel

/-! ## Harbour -/

/-- A call of a ring with arguments. -/
def slotOf (ring : Nat) (a : List DWord) : CallSlot :=
  { ring := ring, gpa := 0x58000, op := 0, tag := 0, a0 := a.getD 0 0, a1 := a.getD 1 0, a2 := a.getD 2 0, a3 := a.getD 3 0, a4 := a.getD 4 0 }

/-- The call of a tenant whose ring stands in mapped memory; and the machine after a boot that failed early. -/
theorem wit_CallRules : (base []).callsDead = false ∧ ({ State.reset with boot := { status := 1 } } : State).callsDead = true ∧
    (slotOf 1 [0, 0, 0, 0, 1]).a4 ≠ 0 ∧ (slotOf 1 []).ring ≠ 0 ∧ (slotOf 0 []).ring = 0 ∧ (base []).hasVd 1 = true ∧
    (base []).stage2 1 ((slotOf 1 []).gpa + 48) = some 0x58030 ∧ (base []).stage2 1 ((slotOf 1 []).gpa + 56) = some (0x58030 + 8) ∧
    (base []).devPoisoned 0x58030 16 = false ∧
    0x58000 + 64 ≤ 2 ^ 47 := by decide +kernel
/-- A call in a slot of host memory, and its ring while it waits for the zero-length read. -/
noncomputable def ending (reqs : List HostReq) : State :=
  { hosted.modVd 1 fun v => { v with ctl := { v.ctl with busy := true, ending := some (0, some 5) } } with reqs := reqs }
theorem wit_CallRules_host : hosted.place 1 (2 ^ 47) .write = some (.host 1 0 (2 ^ 47)) ∧ (ending []).hasVd 1 = true ∧
    ((ending []).ctl 1).ending = some (0, some 5) := by decide +kernel

/-- SET_WEIGHT 1 to 64 and 1 to 255, SET_METER's limits, SET_IRQ of both rings, QUERY in and out of a table, SET_RANK. -/
theorem wit_TableCalls : (base []).namesVd 1 = true ∧ (1 ≤ 64 ∧ 64 ≤ 64 ∧ 255 ≤ 255) ∧
    ((base []).vds.map fun v => if v.id = 1 then 1024 else v.rate).sum ≤ 1024 ∧
    (bitsOf 0x40008005 31 30 ≠ 3 ∧ bitsOf 0x40008005 29 17 = 0 ∧ bitsOf 0x40008005 14 11 = 0 ∧ 0x40008005 < 2 ^ 32) ∧
    ((base []).vd 1).conf = false ∧ (base []).tableEntry 0 511 = some 0 ∧ (base []).tableEntry 0 512 = none ∧
    (base []).tableEntry 4 0 = none ∧ ((base []).parts.getD 0 {}).pstate ≠ 0 ∧ bitsOf 0xC0000001 29 19 = 0 ∧
    (base []).namesLocked (rankOf 1023 0) = false ∧ (base []).namesLocked (rankOf 1023 0xC0000001) = false ∧
    (base []).feature 6 = true ∧ State.reset.feature 6 = false := by decide +kernel
noncomputable def confidential (st : Nat) : State := (base []).modVd 1 fun v => { v with conf := true, vfn := 1, tdisp := { state := st } }
theorem wit_TableCalls_shared : (confidential 0).callsDead = false ∧ ((confidential 0).vd 1).conf = true ∧
    (assocGet 0 ((confidential 0).vd 1).s2).isSome = true ∧ ((confidential 0).vd 1).tdisp.state = 0 ∧
    bitsOf (0 : Nat) 31 30 = (((confidential 0).vd 1).irqs.getD 0 {}).owner := by decide +kernel

/-- A paging VD with a fault record, and an aperture. -/
def aFault : FaultRec := { fid := 7, vpage := 6, level := 4, kind := 0, src := 0, parties := [], entry := some (0x40030, 0) }
noncomputable def paging (fs : List FaultRec) (pool : List Nat) : State :=
  (base []).modVd 1 fun v =>
    { v with dpage := true, faults := fs, pool := pool
             aps := [(0, { v := true, rd := true, wr := true, gbase := 2 ^ 26, glen := 1 })] }
theorem wit_TranslationCalls : (paging [aFault] []).callsDead = false ∧ 0x10000 % 256 = 0 ∧
    ((paging [aFault] []).stage2 1 0x10000).isSome = true ∧
    (((paging [aFault] []).vd 1).faults.find? fun f => f.fid == 7) = some aFault ∧ ((paging [aFault] []).vd 1).dpage = true ∧
    (∀ k < 2, (paging [aFault] []).frameOk 1 (0x70000 + 65536 * k) = true) ∧
    (paging [aFault] []).inAperture 1 (2 ^ 47) (131072 * 16) = true ∧ 2 ^ 47 % 131072 = 0 ∧
    (∀ x ∈ ((paging [aFault] []).vd 1).versions, x.state ≠ 1) ∧ (paging [aFault] []).hasVd 1 = true ∧
    scratchBase - 65536 + 65536 * 1 ≤ scratchBase ∧ 65536 * (scratchBase / 65536) = scratchBase := by decide +kernel
/-- A shoot-down that ends when an old posted write has left. -/
def anOldPost : PostWait := { vd := 1, ap := 0, port := 0, haddr := 2 ^ 21, stream := 0, ats := false, n := 4, v := 0, old := true }
noncomputable def shot (ps : List PostWait) : State :=
  { (paging [] []).modVd 1 fun v => { v with shot := some (slotOf 1 [1]) } with posts := ps }
theorem wit_TranslationCalls_shot : ((shot [anOldPost]).vd 1).shot = some (slotOf 1 [1]) ∧
    (∃ x ∈ (shot [anOldPost]).posts, x.vd = 1 ∧ x.old = true) ∧ ((shot []).vd 1).shot = some (slotOf 1 [1]) ∧ (shot []).posts = [] := by
  decide +kernel
/-- A first aperture of VD 1: V, RD, GBASE 2^26, GLEN 1. -/
def apWord : Nat := 2 ^ 16 + 2 ^ 17 + 2 ^ 31 * 2 ^ 26 + 2 ^ 58
theorem wit_TranslationCalls_aperture : (base []).callsDead = false ∧ (base []).hasVd 1 = true ∧ apWord % 2 ^ 64 % 65536 = 0 ∧
    (base []).badAperture ((base []).vd 1) 15 (apertureOf apWord) = false ∧ ((base []).vd 1).locked = false ∧
    ((assocGet 15 ((base []).vd 1).aps).getD {}).v = false ∧ (apertureOf apWord).v = true := by decide +kernel

/-- A page entry with ZF, and one in a backing slot; a pool with and without a frame. -/
noncomputable def pageIn (e : Nat) (pool : List Nat) : State := paging [{ aFault with entry := some (0x40030, e) }] pool
/-- The entry of a page in a backing slot, and of a zero-filled one; and the first's VD with a backing store on an up port. -/
def inSlot : Nat := 2 ^ 58
def zeroFilled : Nat := 2 ^ 59
noncomputable def backed : State :=
  let s := (pageIn inSlot []).modVd 1 fun v => { v with backing := some (2 ^ 47, 4) }
  { s with ports := [{ up := true }] ++ s.ports.drop 1 }
/-- What a page-in takes from its pool. -/
noncomputable def frameOf (s : State) : Option Nat := ((s.modVd 1 fun v => { v with bud := v.bud - 1 }).takeFrame 1).map (·.1)
theorem wit_PageIns : ((pageIn inSlot []).vd 1).faults = [{ aFault with entry := some (0x40030, inSlot) }] ∧
    ((pageIn zeroFilled []).vd 1).faults = [{ aFault with entry := some (0x40030, zeroFilled) }] ∧ aFault.fid = 7 ∧
    ((pageIn inSlot []).vd 1).dpage = true ∧ 0 < ((pageIn inSlot []).vd 1).bud ∧
    (((pageIn inSlot []).modVd 1 fun v => { v with bud := 0 }).vd 1).bud ≤ 0 ∧ pteZf zeroFilled = true ∧ pteBacked inSlot = true ∧ pteZf inSlot = false ∧
    (∃ s0, backed.readSlotPage 1 7 0 = .wait s0) ∧ frameOf (pageIn zeroFilled []) = none ∧
    frameOf (pageIn zeroFilled [0x70000]) = some 0x70000 ∧ (pageIn zeroFilled [0x70000]).stage2 1 0x70000 = some 0x70000 ∧
    Memory.wf (pageIn zeroFilled []).mem = true ∧ (List.replicate 65536 (0 : Byte)).length = 65536 := by
  refine ⟨?_, ?_, ?_, ?_, ?_, ?_, ?_, ?_, ?_, wait_of ?_, ?_, ?_, ?_, ?_, List.length_replicate⟩ <;> decide +kernel

/-- Partition 0 with a quad of its own and a pool of two blocks. -/
noncomputable def pooled : State :=
  let s := base []
  { s with owner := (s.owner.set 1 { kind := 2, part := 0 }).set 2 { kind := 2, part := 0 } }
theorem wit_CreationCalls : pooled.callsDead = false ∧ pooled.partFault 0 30 0 = none ∧ pooled.partFault 1 1 5 = none ∧
    pooled.partFault 0 31 0 = some 3 ∧ (pooled.parts.getD 0 {}).pstate ≠ 0 ∧ (pooled.parts.getD 0 {}).nquad ≠ 0 ∧
    (pooled.parts.getD 1 {}).pstate = 0 ∧ 2 ≤ (pooled.poolBlocks 0).length ∧ pooled.freeVd = some 2 ∧ 0x701 % 256 ≠ 0 ∧
    pooled.feature 5 = true ∧ pooled.feature 4 = true ∧ pooled.feature 7 = true ∧ (0x701).testBit 10 = true ∧
    pooled.deadSeals.contains 2 = false ∧ ({ pooled with deadSeals := [2] } : State).deadSeals.contains 2 = true := by
  decide +kernel

/-- SET_PART that takes the second of two quads away, on which VD 1 has its turn, and after that. -/
noncomputable def shrinking (vd : Option Nat) : State :=
  ((pooled.joinQuads 0 1).settlePart 0).modQuad 1 fun x => { x with vd := vd }
theorem wit_CreationCalls_standing : (shrinking (some 1)).partFault 0 1 0 = none ∧ (shrinking none).partFault 0 1 0 = none ∧
    (shrinking (some 1)).standing ((shrinking (some 1)).leavers 0 1) = false ∧ (shrinking (some 1)).leavers 0 1 = [1] ∧
    (shrinking none).standing ((shrinking none).leavers 0 1) = true ∧ (shrinking none).leavers 0 1 = [1] := by decide +kernel

theorem wit_EndCalls : (base []).callsDead = false ∧ (base []).namesVd 1 = true ∧ ((base []).vd 1).vstate = 2 := by decide +kernel

/-- An owned block (0) and a pooled one (1), with VD 1 as the target of block 1; then a move that waits for VD 1. -/
def moveOwned (unmapped force : Bool) : Move :=
  { blk := 0, owner := 1, part := 0, vd := 0, gblk := 0, force := force, left := 0, full := 9, unmapped := unmapped, call := slotOf 0 [] }
def moveTo1 : Move :=
  { blk := 1, owner := 0, part := 0, vd := 1, gblk := 3, force := false, left := 5, full := 5, unmapped := true
    call := slotOf 0 [1, 0x10000, 3, 0, 5] }
noncomputable def moving (force : Bool) : State := { pooled with moves := [moveOwned false force] }
theorem wit_MoveCalls : pooled.callsDead = false ∧ (slotOf 0 [1, 0x10000, 3, 0, 5]).a1.toNat &&& 0x1FF000F = 0x10000 ∧
    pooled.moveFault moveTo1 (pooled.owner.getD 1 {}) = none ∧ (pooled.owner.getD 1 {}).kind = 2 ∧
    pooled.moveFault { moveOwned false false with left := 9 } (pooled.owner.getD 0 {}) = none ∧ (pooled.owner.getD 0 {}).kind ≠ 2 ∧
    pooled.gblkOf 1 0 = some 0 ∧ (pooled.moveFault { moveTo1 with blk := 3 } (pooled.owner.getD 3 {})).isSome = true ∧
    ((moving false).moves.find? fun m => m.owner == 1 && !m.unmapped && assocGet 0 ((moving false).vd 1).s2 == some m.blk) =
      some (moveOwned false false) ∧ (moving false).moveOf 0 = some (moveOwned false false) ∧
    (moving true).moveOf 0 = some (moveOwned false true) ∧ 1 < pooled.owner.length ∧ pooled.targetOk moveTo1 = true ∧
    ((moving true).vd 1).vstate ≠ 3 ∧ (((moving true).modVd 1 fun v => { v with vstate := 3 }).vd 1).vstate = 3 := by
  decide +kernel
/-- A reset of the move's owner that ends, the move's deadline having passed or not. -/
noncomputable def resetMove (forced : Bool) : State := { moving true with moves := [{ moveOwned false true with forced := forced }] }
theorem wit_MoveCalls_reset : (resetMove false).moves.filter (fun m => m.owner == 1 && !m.unmapped) = [{ moveOwned false true with forced := false }] ∧
    (resetMove true).moves.filter (fun m => m.owner == 1 && !m.unmapped) = [{ moveOwned false true with forced := true }] ∧
    ((resetMove false).vd 1).flr = false ∧ (((resetMove true).unmapMove { moveOwned false true with forced := true }).vd 1).resetCall = none ∧
    (((resetMove false).askRemoval { moveOwned false true with forced := false } 0).vd 1).resetCall = none ∧
    (resetMove false).gblkOf 1 0 = some 0 := by
  decide +kernel

/-! ## The host, its links and its verifiers -/

theorem wit_HostAccesses : Claims.HostReaches ((base []).modVd 1 fun v => { v with vfn := 1 }) 1 1 0x50200 8 0x50200 false ∧
    Claims.HostReaches ((base []).modVd 1 fun v => { v with vfn := 1 }) 1 1 0x50200 4 0x50200 false ∧
    Claims.HostReaches ((base []).modVd 1 fun v => { v with vfn := 1 }) 1 1 0x50200 16 0x50200 false ∧ 0x50200 % 16 = 0 ∧
    ((base []).modVd 1 fun v => { v with vfn := 1 }).stage2 1 (2 ^ 31) = none ∧ tlpOk (2 ^ 31) 8 = true ∧ (base []).hdmFor 0 0 = none := by
  refine ⟨⟨?_, ?_, ?_, ?_, ?_, ?_, ?_⟩, ⟨?_, ?_, ?_, ?_, ?_, ?_, ?_⟩, ⟨?_, ?_, ?_, ?_, ?_, ?_, ?_⟩, ?_, ?_, ?_, ?_⟩ <;> decide +kernel
noncomputable def decoded : State :=
  let s := (base []).modVd 1 fun v => { v with vfn := 1 }
  { s with hdm := [{ ep := 0, k := 0, base := 2 ^ 40, blocks := 1, vd := 1, gblk := 0 }]
           boot := { s.boot with endpoints := [{ en := true, cxl := true, port := 0, ldid := 0, vfbase := 1, vfcount := 1 }] }
           ports := [{ up := true, cxl := true }] ++ s.ports.drop 1 }
theorem wit_HostAccesses_cxl : decoded.hdmFor 0 (2 ^ 40 + 0x50200) = some { ep := 0, k := 0, base := 2 ^ 40, blocks := 1, vd := 1, gblk := 0 } ∧
    decoded.cxlBroken 0 = false ∧ decoded.hasVd 1 = true ∧ (decoded.vd 1).vfn = 1 ∧
    2 ^ 31 * 0 + ((2 ^ 40 + 0x50200) - 2 ^ 40) = 0x50200 := by decide +kernel

/-- A load outstanding on port 0 and a Translation Request. -/
def aLoad : HostReq :=
  { tag := 5, port := 0, vd := 1, stream := 0, haddr := 2 ^ 21, va := 0x60000, size := 4, since := 0
    what := .load t0 false 0 0 4 false 0 0 none }
def anAts : HostReq :=
  { tag := 6, port := 0, vd := 1, stream := 0, haddr := 2 ^ 21, va := 0x60000, size := 0, since := 0, what := .ats 1 0 (2 ^ 21) none }
noncomputable def outstanding : State :=
  let s := ((base []).modVd 1 fun v => { v with aps := [(0, { v := true, ats := true, haddr := 1, glen := 1 })] }).modTh t0 fun x =>
    { x with pending := [{ dst := 4, vals := [], window := 7, arrived := false, tag := 5 }], park := .host 6 }
  { s with reqs := [aLoad, anAts], ports := [{ up := true }] ++ s.ports.drop 1, clk := { s.clk with svc := 33554432 } }
theorem outstanding_of {s : State} {r : HostReq} (h : (s.reqs.find? (fun x => x.tag == r.tag) == some r &&
    !(s.stream r.stream).failed && (s.vd r.vd).apCall == none && (s.ports.getD r.port {}).invalidations == []) = true) :
    Claims.Outstanding s r := by
  simp only [Bool.and_eq_true, Bool.not_eq_true', beq_iff_eq] at h
  exact { known := h.1.1.1, stream := h.1.1.2, aperture := h.1.2, port := h.2 }
theorem pair_of {p : State × Bool} {b : Bool} (h : p.2 = b) : ∃ s1, p = (s1, b) := ⟨p.1, Prod.ext rfl h⟩
theorem wit_Completions : Claims.Outstanding outstanding aLoad ∧ outstanding.l1Line (outstanding.coreOf t0) 1 0 = none ∧
    (outstanding.th t0).park ≠ .host 5 ∧ (∃ s1, outstanding.takes aLoad { body := .abort, ide := false } = (s1, true)) ∧
    (∃ p ∈ (outstanding.th t0).pending, p.tag = 5) ∧ 0 + 33554432 ≤ outstanding.clk.svc ∧
    (∀ r ∈ outstanding.reqs, r.tag ≠ 9) ∧ aLoad.part.length + 4 = aLoad.size ∧ aLoad.part.length + 3 < aLoad.size ∧
    (outstanding.stream 0).secure = false := by
  refine ⟨outstanding_of ?_, ?_, ?_, pair_of ?_, ?_⟩ <;> decide +kernel
theorem wit_AtsEvents : Claims.Outstanding outstanding anAts ∧ (outstanding.stream 0).secure = false ∧
    outstanding.atsThread 6 = some t0 ∧ 0 < outstanding.ports.length ∧ anAts.what.isFlush = false ∧
    (outstanding.ports.getD 0 {}).up = true ∧ (outstanding.ports.getD 0 {}).invalidations = [] ∧
    (∃ r ∈ ({ outstanding with reqs := [{ aLoad with ats := true }] } : State).reqs, r.ats = true ∧ r.port = 0 ∧
      (outstanding.vd r.vd).vfn = (outstanding.vd 1).vfn ∧ r.size ≠ 0 ∧ r.haddr < 2 ^ 22 ∧ 0 < r.haddr + r.size) ∧
    (∀ r ∈ outstanding.reqs, r.haddr < 2 ^ 40) ∧ anAts.stale = false ∧ ({ anAts with stale := true }).stale = true ∧
    anAts.size = 0 ∧ anAts.haddr / 4096 * 4096 < 2 ^ 22 := by
  refine ⟨outstanding_of ?_, ?_⟩ <;> decide +kernel

/-- A stream with a key set, in a session of mailbox 0. -/
noncomputable def keyed (sec : Bool) : State :=
  let s := (base []).modVd 1 fun v => { v with vfn := 1 }
  { s with
    mailboxes := [{ id := 0, conn := 3, sessions := [{ id := 1, finished := true }] }]
    streams := [{ id := 0, secure := sec, keys := [{ sub := 0, rx := true, set := 0, key := 1, iv := 0 },
      { sub := 1, rx := true, set := 0, key := 1, iv := 0 }, { sub := 2, rx := true, set := 0, key := 1, iv := 0 },
      { sub := 0, rx := false, set := 0, key := 1, iv := 0 }, { sub := 1, rx := false, set := 0, key := 1, iv := 0 },
      { sub := 2, rx := false, set := 0, key := 1, iv := 0 }], cur := if sec then 1 else 0 }] }
theorem wit_LinkEvents : (keyed false).inSession 0 = true ∧ ((keyed false).stream 0).hasSet 0 = true ∧
    ((keyed false).stream 0).secure = false ∧ ((keyed true).stream 0).secure = true ∧ ((keyed true).stream 0).cur ≠ 0 ∧
    ((keyed false).stream 0).failed = false ∧ ((keyed false).stream 255).usable = true ∧ (keyed false).bars = [] ∧
    ((keyed false).parts.getD 15 {}).linkUsable = true ∧ 15 < (keyed false).parts.length ∧ 3 < (keyed false).ports.length ∧
    (keyed false).feature 6 = true ∧ ((keyed true).stream 0).uses 0 = false ∧ ((keyed true).stream 0).uses 1 = true ∧
    (keyed true).reqs = [] ∧ (keyed true).posts = [] ∧ (keyed true).cmds = [] ∧ ((keyed true).stream 0).vd = 0 ∧
    (∀ x ∈ (keyed true).streams, x.vd = 0) ∧ (base []).inSession 0 = false ∧
    ((keyed false).vds.find? fun v => v.vfn == 1).isSome = true ∧ (∀ v ∈ (keyed false).vds, v.vfn ≠ 5) := by decide +kernel
/-- A load and a Translation Request outstanding on a Secure stream, under set 1, which has no keys. -/
noncomputable def onStream : State := { keyed true with reqs := [aLoad, anAts] }
theorem wit_LinkEvents_stream : Claims.Outstanding onStream anAts ∧ Claims.Outstanding onStream aLoad ∧
    (onStream.stream 0).secure = true ∧ (onStream.stream 0).failed = false ∧
    (onStream.stream 0).hasSet ((assocGet 2 (onStream.stream 0).rxSets).getD (onStream.stream 0).cur) = false ∧
    (∃ s1, onStream.takes aLoad { body := .abort, macOk := false, ide := true } = (s1, false)) ∧
    (({ onStream with streams := [{ id := 0, failed := true }] } : State).stream 0).failed = true := by
  refine ⟨outstanding_of ?_, outstanding_of ?_, ?_, ?_, ?_, pair_of ?_, ?_⟩ <;> decide +kernel

/-- A confidential VD's interface, with a session of its mailbox. -/
noncomputable def interface (st : Nat) : State :=
  { confidential st with mailboxes := [{ id := 1, conn := 3, sessions := [{ id := 1, finished := true }] }] }
theorem wit_InterfaceRequests : ((interface 0).vd 1).vfn ≠ 0 ∧ (interface 0).hasVd 1 = true ∧
    (interface 0).inSession ((interface 0).vd 1).vfn = true ∧ ((interface 0).vd 1).conf = true ∧
    ((interface 1).vd 1).tdisp.state = 1 ∧ ((interface 1).vd 1).unlock = false ∧ ((interface 1).vd 1).tdisp.nonce = 0 ∧
    ((interface 1).vd 1).tdisp.nonce ≠ 1 ∧ ((interface 2).vd 1).tdisp.state ≠ 1 ∧ ((interface 2).vd 1).vstate = 2 ∧
    ((interface 0).vd 1).tdisp.state = 0 ∧ (interface 1).lockable 1 = false ∧
    ({ interface 0 with blocks := [] } : State).lockable 1 = true := by decide +kernel

noncomputable def mailed (conn : Nat) (xs : List Session) : State := { base [] with mailboxes := [{ id := 0, conn := conn, sessions := xs }] }
theorem wit_MailboxMessages : (mailed 3 []).mboxUp 0 = true ∧ ((mailed 3 []).mbox 0).conn = 3 ∧ ((mailed 1 []).mbox 0).conn = 1 ∧
    ((mailed 2 []).mbox 0).conn = 2 ∧ ((mailed 3 []).measurement 0 1).isSome = true ∧ ((mailed 3 []).mbox 0).sessions.length < 2 ∧
    2 ≤ ((mailed 3 [⟨1, false⟩, ⟨2, true⟩]).mbox 0).sessions.length ∧
    ((mailed 3 [⟨1, false⟩, ⟨2, true⟩]).mbox 0).sessions = [] ++ (⟨1, false⟩ : Session) :: [⟨2, true⟩] ∧
    ((mailed 3 [⟨1, false⟩, ⟨2, true⟩]).mbox 0).sessions = [⟨1, false⟩] ++ (⟨2, true⟩ : Session) :: [] ∧
    ((mailed 3 []).mbox 0).sessions = [] := by decide +kernel

/-! ## The fabric, stored errors, boot and clocks -/

/-- A flit for VD 1 as rank 0 of partition 0, and the package that takes it. -/
def aFlit (addr : Nat) (data : BitVec 1024) : Flit :=
  { key := 5, srank := 1, drank := 0, addr := addr, tag := 9, macOk := true, data := data, be := 1, fev := 0, few := 0 }
noncomputable def ranked (cs : List Cmd) (bs : List BarState) : State :=
  let s := (base []).modPart 0 fun p =>
    { p with
      key := 5, linkKey := some 1
      ranks := [{ rank := 0, pod := true, pkgid := 0, vd := 1 }, { rank := 1, pod := true, pkgid := 1, vd := 1 }] }
  { s with cmds := cs, bars := bs, clk := { s.clk with a := 16777216 } }
/-- The place that a flit reaches. -/
def flitPlaceOf (r : FlitPlace) : Option Loc :=
  match r with
  | .at_ _ l => some l
  | _ => none
theorem flit_reach {r : FlitPlace} {p : State → Bool} {l : Loc}
    (h : (match r with | .at_ s m => m == l && p s | _ => false) = true) : ∃ s1, r = .at_ s1 l ∧ p s1 = true := by
  cases r with
  | at_ s m =>
    simp only [Bool.and_eq_true, beq_iff_eq] at h
    exact ⟨s, by rw [h.1], h.2⟩
  | error s c => exact nomatch h
  | later s t => exact nomatch h
theorem taken_of {s : State} {f : Flit} {vd p : Nat} (hp : s.partOfKey f.key = some p)
    (h : (s.feature 6 && s.flitVd f == some vd && s.keyed p && f.macOk && f.typeOk) = true) : Claims.FlitTaken s f vd := by
  simp only [Bool.and_eq_true, beq_iff_eq] at h
  exact { longshore := h.1.1.1.1, names := h.1.1.1.2, mac := h.1.2, type := h.2,
          keyed := fun q hq => by cases hp.symm.trans hq; exact h.1.1.2 }
theorem wit_Flits : Claims.FlitTaken (ranked [] []) (aFlit 0x50200 0xAB) 1 ∧
    (aFlit 0x50200 0xAB).few = 0 ∧ (aFlit 0x50200 0xAB).be.getLsbD 0 = true ∧
    (∃ s1, (ranked [] []).flitPlace 1 (0x50200 / 128 * 128) .write = .at_ s1 (.dev 1 0x50200 0x50200) ∧
      (Memory.wf s1.mem && !s1.devPoisoned 0x50200 128) = true) ∧
    (∃ s1, (ranked [] []).flitPlace 1 (0x50200 / 128 * 128) .read = .at_ s1 (.dev 1 0x50200 0x50200) ∧
      (Memory.wf s1.mem && !s1.devPoisoned 0x50200 128) = true) := by
  refine ⟨taken_of (p := 0) ?_ ?_, ?_, ?_, flit_reach (p := fun s => Memory.wf s.mem && !s.devPoisoned 0x50200 128) ?_,
    flit_reach (p := fun s => Memory.wf s.mem && !s.devPoisoned 0x50200 128) ?_⟩ <;> decide +kernel
/-- Flits that no VD takes: no partition has the key; the MAC fails; the type is reserved. And a part without Longshore. -/
theorem wit_Flits_dropped : (∀ vd, ¬ Claims.FlitTaken (base []) (aFlit 0x50200 0xAB) vd) ∧
    (∀ vd, ¬ Claims.FlitTaken (ranked [] []) { aFlit 0x50200 0xAB with macOk := false } vd) ∧
    (∀ vd, ¬ Claims.FlitTaken (ranked [] []) { aFlit 0x50200 0xAB with typeOk := false } vd) ∧
    (base []).feature 6 = true ∧ State.reset.feature 6 = false := by
  have none_ : (base []).flitVd (aFlit 0x50200 0xAB) = none := by decide +kernel
  refine ⟨fun vd h => ?_, fun vd h => (nomatch h.mac), fun vd h => (nomatch h.type), ?_⟩
  · exact nomatch none_.symm.trans h.names
  · decide +kernel

/-- A PUT and a GET command that wait for their flits. -/
def aPut (fn : Nat) : Cmd :=
  { id := 9, eng := .fabric 0, cls := 2, fn := fn, vd := 1, blk := 3, bun := 0, lane := 0, desc := { rank := 1 }, st := .waitFlit }
theorem wit_Flits_issuer : (ranked [aPut fnPut] []).cmds.find? (fun x => x.id == 9) = some (aPut fnPut) ∧
    (ranked [aPut fnPut] []).killed (aPut fnPut) = false ∧
    (ranked [aPut fnPut] []).flitCmd 1 { aFlit 0 0 with tag := (aPut fnPut).tag } (some fnPut) = some (aPut fnPut) ∧
    (ranked [aPut fnGet] []).flitCmd 1 { aFlit 0 0 with tag := (aPut fnGet).tag } (some fnGet) = some (aPut fnGet) ∧
    (ranked [aPut fnPut] []).flitCmd 1 { aFlit 0 0x08 with tag := (aPut fnPut).tag } none = some (aPut fnPut) ∧
    (aFlit 0 0x08).data.toNat % 256 = 0x08 ∧ (aFlit 0 0).data.toNat % 256 = 0 ∧
    0 + 16777216 ≤ (ranked [aPut fnPut] []).cycles (dieOfCore ((ranked [aPut fnPut] []).cmdCore (aPut fnPut))) := by decide +kernel

/-- Generation 2 of pod barrier 4: an arrival for it, one of generation 1, and the open flit. -/
def podBar (sent : Bool) : BarState := { key := .pod 1 4, gen := 2, arrived := [t0], sent := sent }
def barFlit (gen : Nat) : Flit := aFlit 0 (BitVec.ofNat 1024 (4 + 2 ^ 32 * gen))
theorem wit_PodBarriers : Claims.FlitTaken (ranked [] [podBar true]) (barFlit 2) 1 ∧ flitBar (barFlit 2) = (4, 2) ∧ (ranked [] [podBar true]).bar (.pod 1 (flitBar (barFlit 2)).1) = podBar true ∧
    flitBar (barFlit 1) = (4, 1) ∧ (∃ x ∈ (ranked [] [podBar true]).threads, x.ref = t0) ∧
    (ranked [] [podBar false]).bar (.pod 1 (flitBar (barFlit 2)).1) = podBar false := by
  refine ⟨taken_of (p := 0) ?_ ?_, ?_⟩ <;> decide +kernel

noncomputable def scrubbing (j : ScrubJob) : State :=
  let s := base []
  { s with scrub := s.scrub.set 0 j, owner := s.owner.set 255 { kind := 2, scrub := true } }
theorem wit_ScrubJobs : 3 < (scrubbing {}).scrub.length ∧ ((scrubbing {}).job 0).run = false ∧ (scrubbing {}).scrubRuns = true ∧
    ((scrubbing { halt := true, tidemark := 5 }).job 0).halt = true ∧ (scrubbing {}).scrubWaiting = some 255 ∧
    ((scrubbing { run := true, tidemark := 1023, mblk := 255 }).job 0).run = true ∧
    ((scrubbing { run := true, tidemark := 1023, mblk := 255 }).job 0).tidemark < 1024 ∧
    ((scrubbing { run := true, tidemark := 1023, mblk := 255 }).touched.getD 255 0).getLsbD 1023 = true ∧
    1024 ≤ ((scrubbing { run := true, tidemark := 1024, mblk := 255 }).job 0).tidemark ∧ 255 < (scrubbing {}).owner.length ∧
    (scrubbing {}).moves = [] ∧ Memory.wf (scrubbing {}).mem = true := by decide +kernel

theorem wit_Sweeps : 0x50200 / 64 * 64 ∉ (base []).poison ∧ (base []).hasVd 1 = true ∧ ((base []).vd 1).ctl.errcnt.length = 8 ∧
    ((base []).vd 1).ctl.errcnt.getD 7 0 = 0 ∧ (∃ b ∈ (base []).bundles, b.blk = t0.blk ∧ b.idx = t0.bun) ∧
    ((base []).buOf t0).poison.contains (t0.lane, 5) = false ∧ (∀ x ∈ (base []).mons.uncorrectedIn, x.1 ≠ (base []).coreOf t0) ∧
    255 < (base []).ecc.length ∧ 0x50200 < 2 ^ 39 ∧ (base []).devPoisoned 0x50200 8 = false ∧
    (base []).sweeps (.l2 0 0 5) = false ∧ ((base []).ecc.getD 3 {}).busy = false ∧
    (({ (base []) with ecc := [{ busy := true, target := true, tidemark := 6 }] } : State).ecc.getD 0 {}).busy = true := by decide +kernel

noncomputable def warmed (m : Monitors) : State := { State.reset with mons := m, clk := { State.reset.clk with svc := 2 ^ 24 } }
theorem wit_Clocks : (warmed {}).mons.seen < (warmed {}).clk.svc / 65536 ∧ (warmed { seen := 256 }).clk.svc / 65536 ≤ (warmed { seen := 256 }).mons.seen ∧
    (warmed { tempA := 840 }).mons.base 0 < (warmed { tempA := 840 }).mons.target 0 ∧
    (warmed { tempB := 760 }).mons.base 1 < (warmed { tempB := 760 }).mons.target 1 ∧
    (warmed { stepA := 2, lowA := 1 }).mons.low 0 ≠ 0 ∧
    (warmed { stepA := 2, lowA := 1 }).mons.target 0 < (warmed { stepA := 2, lowA := 1 }).mons.base 0 ∧
    (warmed { stepA := 2, lowA := 1 }).mons.low 0 - 1 + 2 ^ 24 ≤ (warmed { stepA := 2, lowA := 1 }).clk.svc ∧ 920 ≤ signExt 16 920 ∧
    (warmed { stopped := true }).mons.stopped = true ∧ (warmed { stopped := true }).agenda = [] := by decide +kernel

/-- A boot that succeeds, and ones that stop at each check. -/
def bootOf (rom fw cf sc : Bool) : BootCfg :=
  { romOk := rom, fwOk := fw, cfgOk := cf, scrubOk := sc, loader := 1, image := 2, fuses := 3, record := 4, config := 5
    disabledA := 15, disabledB := 15, retired := [3], harbourBlocks := [0], pools := [(1, 2)], endpoints := portZero, caps := [1], fwMinor := 0
    proc := 0, ports := 1 }
theorem wit_ColdBoot : (bootOf false true true true).romOk = false ∧ (bootOf true false true true).fwOk = false ∧
    (bootOf true true true false).scrubOk = false ∧ (bootOf true true false true).cfgOk = false ∧ tableOk portZero = true ∧
    tableOk (portZero ++ portZero) = false ∧ 0 ∈ (bootOf true true true true).harbourBlocks ∧
    assocGet 1 (bootOf true true true true).pools = some 2 ∧ (bootOf true true true true).disabledA % 16 = 15 ∧
    3 ∈ State.reset.boot.retirement ++ (bootOf true true true true).retired := by decide +kernel

/-! ## The step -/

/-- A pick whose fetch brings a word. -/
noncomputable def fetched (s : State) : Option Nat :=
  match s.pick with
  | some p => match p.refs with
    | lead :: _ => match ((s.taken p).fetch lead).2 with
      | .word w => some w
      | _ => none
    | [] => none
  | none => none
theorem fetched_of {s : State} {w : Nat} (h : fetched s = some w) :
    ∃ p lead rest s1, s.pick = some p ∧ p.refs = lead :: rest ∧ (s.taken p).fetch lead = (s1, .word w) := by
  unfold fetched at h
  split at h
  · rename_i p hp
    split at h
    · rename_i lead rest hr
      split at h
      · rename_i v hv
        simp only [Option.some.injEq] at h
        subst h
        exact ⟨p, lead, rest, ((s.taken p).fetch lead).1, hp, hr, by rw [← hv]⟩
      · exact nomatch h
    · exact nomatch h
  · exact nomatch h

/-- ADD at the PC; a word of no instruction; and a word of a feature that the part lacks. -/
noncomputable def featureless : State := { loaded 0xC8202002 [] with boot := { booted := true } }
theorem wit_StepRunsDecoded_word : (loaded 0x042860E0 []).agenda = [] ∧ (loaded 0x042860E0 []).mons.stopped = false ∧
    (∃ p lead rest s1, (loaded 0x042860E0 []).pick = some p ∧ p.refs = lead :: rest ∧
      ((loaded 0x042860E0 []).taken p).fetch lead = (s1, .word 0x042860E0)) ∧ decode 0x042860E0 = .ok (.add 5 6 7) ∧
    (∃ p lead rest s1, (loaded 0xFFFFFFFF []).pick = some p ∧ p.refs = lead :: rest ∧
      ((loaded 0xFFFFFFFF []).taken p).fetch lead = (s1, .word 0xFFFFFFFF)) ∧ (∃ e, decode 0xFFFFFFFF = .error e) ∧
    (∃ p lead rest s1, featureless.pick = some p ∧ p.refs = lead :: rest ∧
      (featureless.taken p).fetch lead = (s1, .word 0xC8202002)) ∧ decode 0xC8202002 = .ok (.feldw 4 2 0 2) ∧
    featureless.hasFeature (.feldw 4 2 0 2) = false ∧ featureless.agenda = [] ∧ featureless.mons.stopped = false := by
  refine ⟨?_, ?_, fetched_of ?_, rfl, fetched_of ?_, ⟨_, rfl⟩, fetched_of ?_, rfl, ?_⟩ <;> decide +kernel
noncomputable def placeFetched (s : State) (t : TRef) : Option Loc :=
  match (s.translate (.lane (s.coreOf t) (s.buOf t).sub t.lane) (s.vdOf t) (s.th t).pc.toNat .fetch).2 with
  | .ok l => some l
  | _ => none
theorem wit_StepRunsDecoded_fetch : ((base []).th t0).pc.toNat < scratchBase ∧
    placeFetched (base []) t0 = some (.dev 1 codeAddr codeAddr) ∧ (base []).devPoisoned codeAddr 4 = false ∧
    scratchBase ≤ (((base []).modTh t0 fun x => { x with pc := dw scratchBase }).th t0).pc.toNat := by decide +kernel
theorem wit_StepRunsDecoded_beside : ({ State.reset with agenda := [.servicePeriod] } : State).mons.stopped = false ∧
    State.reset.agenda = [] ∧ State.reset.mons.stopped = false ∧ State.reset.pick.isNone = true ∧
    (base []).group.refs = [t0] ∧ (base []).live t0 = true := by decide +kernel
theorem wit_StepKeepsMemory : Memory.wf (loaded 0x042860E0 []).mem = true ∧ nextIs (step (loaded 0x042860E0 [])) (fun _ => true) = true := by
  decide +kernel

/-- An instruction with every field at its greatest value; words of each direction. -/
theorem wit_DecodeEncode : (Instr.add 127 127 127).isWord = true ∧ (Instr.add 127 127 127).wellFormed = true ∧
    (Instr.ldd 8 10 30 1 3).wellFormed = true ∧
    0x042860E0 < 2 ^ 32 ∧
    decode 0x042860E0 = .ok (.add 5 6 7) := by
  refine ⟨?_, ?_, ?_, ?_, rfl⟩ <;> decide +kernel

end Sys2Proof.Tests
end

/-! # Integer instructions -/

section
namespace Sys2Proof.Machine

open Sys2Proof.Safety

/-! ## Words: the model's operators as the arithmetic of R113 to R117, at every width -/

section Arithmetic

variable {w : Nat} (x y : BitVec w)

theorem ofInt_toNat : BitVec.ofInt w x.toNat = x := by
  rw [BitVec.ofInt_natCast, BitVec.ofNat_toNat, BitVec.setWidth_eq]

theorem mul_eq_ofNat_toNat : x * y = BitVec.ofNat w (x.toNat * y.toNat) := by
  simp [BitVec.ofNat_mul]

theorem mul_add_eq_ofNat_toNat (z : BitVec w) : x * y + z = BitVec.ofNat w (x.toNat * y.toNat + z.toNat) := by
  simp [BitVec.ofNat_add, BitVec.ofNat_mul]

theorem sub_eq_ofInt_toNat : x - y = BitVec.ofInt w ((x.toNat : Int) - y.toNat) := by
  rw [Int.sub_eq_add_neg, BitVec.ofInt_add, BitVec.ofInt_neg, ofInt_toNat, ofInt_toNat, BitVec.sub_eq_add_neg]

theorem zero_sub_eq_ofInt : 0 - x = BitVec.ofInt w (-x.toInt) := by
  rw [BitVec.ofInt_neg, BitVec.ofInt_toInt]
  exact BitVec.zero_sub x

theorem add_ofInt (k : Int) : x + BitVec.ofInt w k = BitVec.ofInt w (x.toNat + k) := by
  rw [BitVec.ofInt_add, ofInt_toNat]

theorem mul_ofInt (k : Int) : x * BitVec.ofInt w k = BitVec.ofInt w (x.toNat * k) := by
  rw [BitVec.ofInt_mul, ofInt_toNat]

theorem shiftLeft_eq_ofNat (n : Nat) : x <<< n = BitVec.ofNat w (x.toNat * 2 ^ n) :=
  BitVec.eq_of_toNat_eq (by simp [Nat.shiftLeft_eq])

theorem ushiftRight_eq_ofNat (n : Nat) : x >>> n = BitVec.ofNat w (x.toNat / 2 ^ n) := by
  refine BitVec.eq_of_toNat_eq ?_
  have hlt : x.toNat / 2 ^ n < 2 ^ w := Nat.lt_of_le_of_lt (Nat.div_le_self _ _) x.isLt
  simp [Nat.shiftRight_eq_div_pow, Nat.mod_eq_of_lt hlt]

/-- A power of two as an integer. -/
theorem natCast_two_pow (n : Nat) : ((2 ^ n : Nat) : Int) = 2 ^ n := Int.natCast_pow 2 n

theorem sshiftRight_eq_ofInt (n : Nat) : x.sshiftRight n = BitVec.ofInt w (x.toInt / 2 ^ n) :=
  calc x.sshiftRight n = BitVec.ofInt w (x.toInt / ((2 ^ n : Nat) : Int)) :=
      congrArg (BitVec.ofInt w) (Int.shiftRight_eq_div_pow x.toInt n)
    _ = BitVec.ofInt w (x.toInt / 2 ^ n) := congrArg (fun k => BitVec.ofInt w (x.toInt / k)) (natCast_two_pow n)

end Arithmetic

theorem shlW_eq (x : Word) (n : Nat) : shlW x n = if n < 32 then BitVec.ofNat 32 (x.toNat * 2 ^ n) else 0 := by
  rw [shlW, shiftLeft_eq_ofNat]

theorem shrW_eq (x : Word) (n : Nat) : shrW x n = if n < 32 then BitVec.ofNat 32 (x.toNat / 2 ^ n) else 0 := by
  rw [shrW, ushiftRight_eq_ofNat]

theorem sraW_eq (x : Word) (n : Nat) : sraW x n = BitVec.ofInt 32 (x.toInt / 2 ^ Nat.min n 31) :=
  sshiftRight_eq_ofInt x _

theorem sraW_of_lt (x : Word) {n : Nat} (hn : n < 32) : sraW x n = BitVec.ofInt 32 (x.toInt / 2 ^ n) := by
  rw [sraW_eq, show Nat.min n 31 = n from Nat.min_eq_left (Nat.le_of_lt_succ hn)]

theorem shlD_eq (x : DWord) (n : Nat) : shlD x n = if n < 64 then BitVec.ofNat 64 (x.toNat * 2 ^ n) else 0 := by
  rw [shlD, shiftLeft_eq_ofNat]

theorem shrD_eq (x : DWord) (n : Nat) : shrD x n = if n < 64 then BitVec.ofNat 64 (x.toNat / 2 ^ n) else 0 := by
  rw [shrD, ushiftRight_eq_ofNat]

theorem sraD_eq (x : DWord) (n : Nat) : sraD x n = BitVec.ofInt 64 (x.toInt / 2 ^ Nat.min n 63) :=
  sshiftRight_eq_ofInt x _

/-- The signed and the unsigned order that MIN, MAX, MINN and MAXN test. -/
theorem ite_sle {α : Type} (x y : Word) (u v : α) :
    (if x.sle y then u else v) = if x.toInt ≤ y.toInt then u else v := by
  simp [BitVec.sle_eq_decide]

theorem ite_ule {α : Type} (x y : Word) (u v : α) :
    (if x.ule y then u else v) = if x.toNat ≤ y.toNat then u else v := by
  simp [BitVec.ule_eq_decide]

/-- The byte that BSEL's selector `i` picks (R113): two bits of the control, times eight. -/
theorem byteW_selector (x c : Word) (i : Nat) : byteW x (bitsOf c.toNat (2 * i + 1) (2 * i)) =
    BitVec.ofNat 8 (x.toNat / 2 ^ (8 * ((c.toNat / 2 ^ (2 * i)) % 4))) := by
  have hexp : 2 * i + 1 + 1 - 2 * i = 2 := by omega
  have hw : 2 ^ (2 * i + 1 + 1 - 2 * i) = 4 := (congrArg (fun k => 2 ^ k) hexp).trans rfl
  rw [byteW, bitsOf, hw, BitVec.extractLsb', Nat.shiftRight_eq_div_pow]

theorem bselByte_eq (x c : Word) (i : Nat) : bselByte x c i = Claims.bselByte x c i := by
  simp only [bselByte, Claims.bselByte, byteW_selector]

theorem bselW_eq (x c : Word) : bselW x c =
    Claims.bselByte x c 3 ++ Claims.bselByte x c 2 ++ Claims.bselByte x c 1 ++ Claims.bselByte x c 0 := by
  simp only [bselW, wordOfBytes, bselByte_eq]

/-! ## Counting bits (R115) -/

/-- The bit `k` counted from the top is the highest one: the number lies between two powers of two. -/
theorem log2_of_highest_bit {w : Nat} (x : BitVec w) {k : Nat} (hk : x.getLsbD k = true)
    (hz : ∀ j, k < j → x.getLsbD j = false) : x.toNat ≠ 0 ∧ Nat.log2 x.toNat = k := by
  have hge : 2 ^ k ≤ x.toNat := Nat.ge_two_pow_of_testBit hk
  have hlt : x.toNat < 2 ^ (k + 1) := Nat.lt_pow_two_of_testBit _ fun j hj => hz j hj
  have hne : x.toNat ≠ 0 := by have := Nat.two_pow_pos k; omega
  exact ⟨hne, (Nat.log2_eq_iff hne).mpr ⟨hge, hlt⟩⟩

theorem clzNat_eq_leadingZeros {w : Nat} (x : BitVec w) : clzNat w x.toNat = Claims.leadingZeros x := by
  unfold Claims.leadingZeros
  cases hf : (List.range w).find? fun i => x.getLsbD (w - 1 - i) with
  | none =>
    have hz : x = 0#w := BitVec.eq_of_getLsbD_eq fun i hi => by
      have := List.find?_range_eq_none.mp hf (w - 1 - i) (by omega)
      rw [show w - 1 - (w - 1 - i) = i by omega] at this
      simpa using this
    simp [hz, clzNat]
  | some i =>
    obtain ⟨hi, hmem, hbefore⟩ := List.find?_range_eq_some.mp hf
    have hiw : i < w := List.mem_range.mp hmem
    have hz : ∀ j, w - 1 - i < j → x.getLsbD j = false := fun j hj => by
      by_cases hjw : j < w
      · have := hbefore (w - 1 - j) (by omega)
        rw [show w - 1 - (w - 1 - j) = j by omega] at this
        simpa using this
      · exact BitVec.getLsbD_of_ge x j (by omega)
    obtain ⟨hne, hlog⟩ := log2_of_highest_bit x hi hz
    rw [clzNat, if_neg hne, hlog, Option.getD_some]
    omega

theorem ctzFrom_eq_find (x k i : Nat) : ctzFrom x k i = ((List.range' i k).find? x.testBit).getD (i + k) := by
  induction k generalizing i with
  | zero => rfl
  | succ k ih =>
    rw [ctzFrom, List.range'_succ, List.find?_cons]
    cases x.testBit i with
    | true => rfl
    | false => rw [if_neg Bool.false_ne_true, ih, Nat.add_right_comm, Nat.add_assoc]

theorem ctzFrom_eq_trailingZeros {w : Nat} (x : BitVec w) : ctzFrom x.toNat w 0 = Claims.trailingZeros x := by
  rw [ctzFrom_eq_find, Nat.zero_add, ← List.range_eq_range']
  rfl

theorem popNat_eq_countP (x w : Nat) : popNat x w = (List.range w).countP x.testBit := by
  induction w with
  | zero => rfl
  | succ w ih => rw [popNat, List.range_succ, List.countP_append, List.countP_singleton, ih, Nat.add_comm]

theorem popNat_eq_onesOf {w : Nat} (x : BitVec w) : popNat x.toNat w = Claims.onesOf x := popNat_eq_countP _ _

/-! ## Fields (R53, R117) -/

/-- The sign extension of R53 is two's complement. -/
theorem signExt_eq_toInt {w : Nat} (hw : 0 < w) (n : Nat) : signExt w n = (BitVec.ofNat w n).toInt := by
  obtain ⟨k, rfl⟩ : ∃ k, w = k + 1 := ⟨w - 1, by omega⟩
  rw [signExt, BitVec.toInt_eq_toNat_cond, BitVec.toNat_ofNat, Nat.add_sub_cancel]
  have h2 : 2 ^ (k + 1) = 2 * 2 ^ k := Nat.pow_succ'
  by_cases hlt : n % 2 ^ (k + 1) < 2 ^ k
  · rw [if_pos hlt, if_pos (by omega)]
  · rw [if_neg hlt, if_neg (by omega), natCast_two_pow]

theorem wordOfInt_signExt {w : Nat} (hw : 0 < w) (n : Nat) :
    wordOfInt (signExt w n) = (BitVec.ofNat w n).signExtend 32 := by
  rw [signExt_eq_toInt hw]
  rfl

theorem fieldS_eq (x : Word) (pos l : Nat) :
    fieldS x pos (l + 1) = (x.extractLsb' pos (l + 1)).signExtend 32 := by
  rw [fieldS, wordOfInt_signExt (Nat.succ_pos l), BitVec.extractLsb', Nat.shiftRight_eq_div_pow]

/-- A field at bit 0 is the low part of the word. -/
theorem fieldS_low (x : Word) (l : Nat) : fieldS x 0 (l + 1) = (x.setWidth (l + 1)).signExtend 32 := by
  rw [fieldS, wordOfInt_signExt (Nat.succ_pos l), Nat.pow_zero, Nat.div_one, BitVec.ofNat_toNat]

theorem fieldN_low (x : Word) (l : Nat) : fieldN x 0 l = (x.setWidth l).setWidth 32 :=
  BitVec.eq_of_toNat_eq (by simp [fieldN])

/-- The mask of a field has the field's bits. -/
theorem getLsbD_fieldMask (pos len : Nat) {i : Nat} (hi : i < 32) :
    (BitVec.ofNat 32 ((2 ^ len - 1) * 2 ^ pos)).getLsbD i = decide (pos ≤ i ∧ i < pos + len) := by
  rw [BitVec.getLsbD_ofNat, Nat.testBit_mul_two_pow, Nat.testBit_two_pow_sub_one, decide_eq_true hi, Bool.true_and,
    ← Bool.decide_and]
  exact decide_eq_decide.mpr (by omega)

theorem getLsbD_insertField (y x : Word) (pos len : Nat) {i : Nat} (hi : i < 32) :
    (insertField y x pos len).getLsbD i = Claims.insertedBit y x pos len i := by
  simp only [insertField, Claims.insertedBit, BitVec.getLsbD_or, BitVec.getLsbD_and, BitVec.getLsbD_not,
    BitVec.getLsbD_shiftLeft, getLsbD_fieldMask pos len hi, decide_eq_true hi, Bool.true_and]
  by_cases hin : pos ≤ i ∧ i < pos + len
  · simp [hin, Nat.not_lt.mpr hin.1]
  · simp [hin]


/-! ## R113 to R117: one thread's results -/

section Results

variable {s : State} {t : TRef} {i : Instr} {d : Nat} {reads : List (Nat × Nat)}

/-- An instruction that is an ALU operation writes its value and steps on. -/
theorem exec_setReg {r : State → TRef → Word} {v : Word} (h : Alone s t) (ho : Readable s t ((d, 1) :: reads) reads)
    (hi : exec i s = s.alu d reads r) (hv : r s t = v) : exec i s = .next (past (s.setReg t d v) t) := by
  rw [hi, State.alu_alone h ho, hv]

/-- An instruction that writes a pair. -/
theorem exec_setPair {r : State → TRef → DWord} {v : DWord} (h : Alone s t) (ho : Readable s t ((d, 2) :: reads) reads)
    (hi : exec i s = s.alu64 d reads r) (hv : r s t = v) : exec i s = .next (past (s.setPair t d v) t) := by
  rw [hi, State.alu64_alone h ho, hv]

end Results

/-- Settles O3: each instruction is an ALU operation whose value is the one that R113 gives. -/
theorem aluResults : Obligations.AluResults := by
  unfold Obligations.AluResults
  intro s t d a b h
  refine ⟨fun ho => ⟨?_, ?_⟩, fun ho => ?_⟩
  · simp only [Claims.alu, List.forall_mem_cons, List.not_mem_nil, false_implies, implies_true, and_true]
    exact ⟨exec_setReg h ho rfl (BitVec.add_def _ _),
      exec_setReg h ho rfl (sub_eq_ofInt_toNat _ _),
      exec_setReg h ho rfl rfl,
      exec_setReg h ho rfl rfl,
      exec_setReg h ho rfl (mul_eq_ofNat_toNat _ _),
      exec_setReg h ho rfl rfl,
      exec_setReg h ho rfl (BitVec.ofInt_natCast _ _),
      exec_setReg h ho rfl rfl,
      exec_setReg h ho rfl rfl,
      exec_setReg h ho rfl rfl,
      exec_setReg h ho rfl rfl,
      exec_setReg h ho rfl (shlW_eq _ _),
      exec_setReg h ho rfl (shrW_eq _ _),
      exec_setReg h ho rfl (sraW_eq _ _),
      exec_setReg h ho rfl rfl,
      exec_setReg h ho rfl rfl,
      exec_setReg h ho rfl (ite_sle _ _ _ _),
      exec_setReg h ho rfl (ite_sle _ _ _ _),
      exec_setReg h ho rfl (ite_ule _ _ _ _),
      exec_setReg h ho rfl (ite_ule _ _ _ _),
      exec_setReg h ho rfl (by simp only [bne_iff_ne]),
      exec_setReg h ho rfl (BitVec.ofInt_natCast _ _),
      exec_setReg h ho rfl rfl⟩
  · exact exec_setReg h ho rfl (bselW_eq _ _)
  · exact exec_setReg h ho rfl (mul_add_eq_ofNat_toNat _ _ _)

theorem pairAndUnaryResults : Claims.PairAndUnaryResults := by
  intro s t d a b h
  refine ⟨fun ho => ?_, fun ho => ?_, fun ho => ?_, fun ho => ?_, fun ho => ?_⟩
  · simp only [Claims.alu64, List.forall_mem_cons, List.not_mem_nil, false_implies, implies_true, and_true]
    exact ⟨exec_setPair h ho rfl (BitVec.add_def _ _),
      exec_setPair h ho rfl (sub_eq_ofInt_toNat _ _),
      exec_setPair h ho rfl (mul_eq_ofNat_toNat _ _)⟩
  · simp only [Claims.shift64, List.forall_mem_cons, List.not_mem_nil, false_implies, implies_true, and_true]
    exact ⟨exec_setPair h ho rfl (shlD_eq _ _),
      exec_setPair h ho rfl (shrD_eq _ _),
      exec_setPair h ho rfl (sraD_eq _ _)⟩
  · simp only [Claims.unary, List.forall_mem_cons, List.not_mem_nil, false_implies, implies_true, and_true]
    exact ⟨exec_setReg h ho rfl rfl,
      exec_setReg h ho rfl rfl,
      exec_setReg h ho rfl (zero_sub_eq_ofInt _),
      exec_setReg h ho rfl (BitVec.ofInt_natCast _ _),
      exec_setReg h ho rfl (congrArg _ (clzNat_eq_leadingZeros _)),
      exec_setReg h ho rfl (congrArg _ (ctzFrom_eq_trailingZeros _)),
      exec_setReg h ho rfl (congrArg _ (popNat_eq_onesOf _)),
      exec_setReg h ho rfl rfl,
      exec_setReg h ho rfl rfl,
      exec_setReg h ho rfl (fieldS_low _ 7),
      exec_setReg h ho rfl (fieldS_low _ 15),
      exec_setReg h ho rfl (fieldN_low _ 8),
      exec_setReg h ho rfl (fieldN_low _ 16)⟩
  · simp only [Claims.unary64, List.forall_mem_cons, List.not_mem_nil, false_implies, implies_true, and_true]
    exact ⟨exec_setPair h ho rfl rfl, exec_setPair h ho rfl (zero_sub_eq_ofInt _)⟩
  · simp only [Claims.count64, List.forall_mem_cons, List.not_mem_nil, false_implies, implies_true, and_true]
    exact ⟨exec_setReg h ho rfl (congrArg _ (clzNat_eq_leadingZeros _)),
      exec_setReg h ho rfl (congrArg _ (popNat_eq_onesOf _))⟩

theorem immediateResults : Claims.ImmediateResults := by
  intro s t d a h
  refine ⟨fun ho => ⟨?_, fun pos l _ => ⟨?_, ?_⟩⟩, fun ho => ⟨fun i _ => ?_, fun i _ => ?_⟩, fun ho pos l _ => ?_⟩
  · simp only [Claims.immediate, List.forall_mem_cons, List.not_mem_nil, false_implies, implies_true, and_true]
    exact ⟨fun i _ => exec_setReg h ho rfl (add_ofInt _ _),
      fun i _ => exec_setReg h ho rfl rfl,
      fun i _ => exec_setReg h ho rfl rfl,
      fun i _ => exec_setReg h ho rfl rfl,
      fun n hn => exec_setReg h ho rfl ((shlW_eq _ _).trans (if_pos hn)),
      fun n hn => exec_setReg h ho rfl ((shrW_eq _ _).trans (if_pos hn)),
      fun n hn => exec_setReg h ho rfl (sraW_of_lt _ hn),
      fun n _ => exec_setReg h ho rfl rfl,
      fun i _ => exec_setReg h ho rfl (mul_ofInt _ _)⟩
  · exact exec_setReg h ho rfl rfl
  · exact exec_setReg h ho rfl (fieldS_eq _ _ _)
  · exact exec_setReg h ho rfl rfl
  · exact exec_setReg h ho rfl (wordOfInt_signExt (by decide) _)
  · exact ⟨_, exec_setReg h ho rfl rfl, fun i hi => getLsbD_insertField _ _ _ _ hi⟩

/-- Settles O36: each instruction writes the pair or the register that R114 to R117 give. -/
theorem pairAndImmediateResults : Obligations.PairAndImmediateResults :=
  ⟨pairAndUnaryResults, immediateResults⟩

/-! ## Affine writes (R122, R123) -/

theorem x10D_mul (x : DWord) (i : Nat) : x * x10D i = BitVec.ofInt 64 (x.toNat * signExt 10 i) := mul_ofInt x _
theorem x10W_mul (x : Word) (i : Nat) : x * x10W i = BitVec.ofInt 32 (x.toNat * signExt 10 i) := mul_ofInt x _
theorem x10D_add (x : DWord) (i : Nat) : x + x10D i = BitVec.ofInt 64 (x.toNat + signExt 10 i) := add_ofInt x _

theorem affineAt_eq (v : DWord × Word) (lane : Nat) : affineAt v lane = v.1 + BitVec.ofInt 64 (v.2.toInt * lane) := by
  rw [affineAt, BitVec.ofInt_mul, BitVec.ofInt_natCast]
  rfl

/-- A thread that is a group of its own does what its group does once for its bundle. -/
theorem State.leads_of_alone {s : State} {t : TRef} (h : Alone s t) : s.leads t = true := by
  simp [State.leads, h.active, h.group]

/-- Its bundle is one that an affine instruction writes. -/
theorem State.bundleActs_of_alone {s : State} {t : TRef} (h : Alone s t) : s.bundleActs t = true := by
  simp [State.bundleActs, h.active, h.group]

theorem Bundle.badRegs_nil (b : Bundle) (lane : Nat) : b.badRegs lane [] = false := rfl

/-- An affine write of one thread: its region closes, and the bundle's copy takes the value found then. -/
theorem State.affineOp_alone {s : State} {t : TRef} {d : Nat} {regs : List (Nat × Nat)}
    {v : State → TRef → Bundle → DWord × Word} (h : Alone s t) (ho : Closes s t regs regs) :
    s.affineOp d regs v = .next (pastRegion
      ((s.closeRegion t).modBu t.blk t.bun fun b => b.setAffine d (v (s.closeRegion t) t b)) t) := by
  have he : s.earlyTrap { regs := regs, closes := true } t = none := State.earlyTrap_none ho.window (by simp) (by simp)
  simp only [State.affineOp, State.undertow_plain h.plain, h.group, List.foldl_cons, List.foldl_nil,
    State.bundleActs_of_alone h]
  simp [State.issueOne, h.live, he, h.active, ho.live, ho.sound, Bundle.badRegs_nil, State.leads_of_alone h,
    State.perform, State.finish_closed]

/-- An instruction that is an affine write, with the value that it puts. -/
theorem exec_setAffine {s : State} {t : TRef} {i : Instr} {d : Nat} {regs : List (Nat × Nat)}
    {v : State → TRef → Bundle → DWord × Word} {f : Bundle → DWord × Word} (h : Alone s t) (ho : Closes s t regs regs)
    (hi : exec i s = s.affineOp d regs v) (hv : ∀ b, v (s.closeRegion t) t b = f b) :
    exec i s = .next (pastRegion ((s.closeRegion t).modBu t.blk t.bun fun b => b.setAffine d (f b)) t) := by
  rw [hi, State.affineOp_alone h ho, funext hv]

/-- Settles O6: each affine instruction is an affine write of the value that R123 gives, and AGET an ALU operation on a pair. -/
theorem affineResults : Obligations.AffineResults := by
  unfold Obligations.AffineResults
  intro s t d a b h
  refine ⟨fun ho => ⟨?_, ?_, ?_⟩, fun ho => ?_, fun ho => ?_, fun ho => ?_, rfl, rfl⟩
  · simp only [Claims.affine2, List.forall_mem_cons, List.not_mem_nil, false_implies, implies_true, and_true]
    exact ⟨exec_setAffine h ho rfl fun _ => rfl, exec_setAffine h ho rfl fun _ => rfl⟩
  · simp only [Claims.affineImm, List.forall_mem_cons, List.not_mem_nil, false_implies, implies_true, and_true]
    exact ⟨fun n _ => exec_setAffine h ho rfl fun _ => by rw [shiftLeft_eq_ofNat, shiftLeft_eq_ofNat],
      fun n _ => exec_setAffine h ho rfl fun _ => Prod.ext (x10D_mul _ _) (x10W_mul _ _),
      fun n _ => exec_setAffine h ho rfl fun _ => Prod.ext (x10D_add _ _) rfl⟩
  · exact exec_setAffine h ho rfl fun _ => rfl
  · exact exec_setAffine h ho rfl fun _ => rfl
  · exact exec_setAffine h ho rfl fun _ => rfl
  · exact exec_setPair h ho rfl (affineAt_eq _ _)

end Sys2Proof.Machine
end

/-! # Convergence rounds -/

section
namespace Sys2Proof.Machine

open Sys2Proof.Safety

/-! ## A fold whose every step serves one element -/

/-- What holds of an element stays while the elements after it are served. -/
theorem foldl_keeps {α σ : Type} {g : σ → α → σ} {P : α → σ → Prop} {Q : σ → Prop} {l : List α} (hnd : l.Nodup)
    (hP : ∀ a ∈ l, ∀ b ∈ l, b ≠ a → ∀ s, P a s → P b s → P b (g s a)) (hQ : ∀ a ∈ l, ∀ s, P a s → Q s → Q (g s a)) :
    ∀ s, (∀ a ∈ l, P a s) → Q s → Q (l.foldl g s) := by
  induction l with
  | nil => exact fun _ _ hq => hq
  | cons a r ih =>
    intro s hs hq
    obtain ⟨har, hr⟩ := List.nodup_cons.mp hnd
    have ha : P a s := hs a List.mem_cons_self
    refine ih hr (fun b hb c hc => hP b (List.mem_cons_of_mem _ hb) c (List.mem_cons_of_mem _ hc))
      (fun b hb => hQ b (List.mem_cons_of_mem _ hb)) _ (fun b hb => ?_) (hQ a List.mem_cons_self s ha hq)
    have hbr := List.mem_cons_of_mem a hb
    exact hP a List.mem_cons_self b hbr (fun e => har (e ▸ hb)) s ha (hs b hbr)

/-- Each element that waits (`P`) is served (`Q`) by its step, and no step changes either for another element: then the
fold serves them all. -/
theorem foldl_serves {α σ : Type} {g : σ → α → σ} {Q : α → σ → Prop} (P : α → σ → Prop) {l : List α} (hnd : l.Nodup)
    (hstep : ∀ a ∈ l, ∀ s, P a s → Q a (g s a))
    (hP : ∀ a ∈ l, ∀ b ∈ l, b ≠ a → ∀ s, P a s → P b s → P b (g s a))
    (hQ : ∀ a ∈ l, ∀ b ∈ l, b ≠ a → ∀ s, P a s → Q b s → Q b (g s a)) :
    ∀ s, (∀ a ∈ l, P a s) → ∀ a ∈ l, Q a (l.foldl g s) := by
  induction l with
  | nil => exact fun _ _ a ha => absurd ha List.not_mem_nil
  | cons a r ih =>
    intro s hs
    obtain ⟨har, hr⟩ := List.nodup_cons.mp hnd
    have ha : P a s := hs a List.mem_cons_self
    have mem {b : α} (hb : b ∈ r) : b ∈ a :: r := List.mem_cons_of_mem a hb
    have hP' : ∀ b ∈ r, ∀ c ∈ r, c ≠ b → ∀ s, P b s → P c s → P c (g s b) := fun b hb c hc => hP b (mem hb) c (mem hc)
    have hrest : ∀ b ∈ r, P b (g s a) := fun b hb =>
      hP a List.mem_cons_self b (mem hb) (fun e => har (e ▸ hb)) s ha (hs b (mem hb))
    have hserved := ih hr (fun b hb => hstep b (mem hb)) hP' (fun b hb c hc => hQ b (mem hb) c (mem hc)) (g s a) hrest
    intro b hb
    rcases List.mem_cons.mp hb with rfl | hbr
    · exact foldl_keeps hr hP' (fun c hc => hQ c (mem hc) b List.mem_cons_self fun e => har (e ▸ hc)) _ hrest
        (hstep b List.mem_cons_self s ha)
    · exact hserved b hbr

/-! ## Plain bundles -/

/-- Rows laid out as R27 has them, with no poison and no sidecar, as `InRound` asks of its bundle. -/
structure Bundle.Plain (b : Bundle) : Prop where
  rows : b.rf.length = 32 ∧ ∀ r ∈ b.rf, r.length = b.alloc
  sound : b.poison = []
  bare : attached b.viewCk b.viewAcc = false

theorem Bundle.badRegs_of_sound {b : Bundle} (h : b.poison = []) (lane : Nat) (regs : List (Nat × Nat)) :
    b.badRegs lane regs = false := by
  simp [Bundle.badRegs, h]

theorem Bundle.Plain.setReg {b : Bundle} (h : b.Plain) (lane p : Nat) (v : Word) : (b.setReg lane p v).Plain where
  rows := by
    refine ⟨by simp [Bundle.setReg, h.rows.1], fun r hr => ?_⟩
    obtain ⟨k, hk, rfl⟩ := List.mem_iff_getElem.mp hr
    have hlen : ∀ x : List Word, (x.set p v).length = x.length := fun _ => List.length_set
    simp only [Bundle.setReg, List.getElem_modify]
    split <;> simp [hlen, h.rows.2]
  sound := by simp [Bundle.setReg, h.sound]
  bare := h.bare

/-- A row of a plain bundle is as long as its allocation. -/
theorem Bundle.Plain.row_length {b : Bundle} (h : b.Plain) {lane : Nat} (hl : lane < 32) :
    (b.rf.getD lane []).length = b.alloc := by
  have hlt : lane < b.rf.length := by rw [h.rows.1]; exact hl
  rw [List.getD_eq_getElem?_getD, List.getElem?_eq_getElem hlt, Option.getD_some]
  exact h.rows.2 _ (List.getElem_mem hlt)

theorem Bundle.setStale_key (b : Bundle) (ijs : List (Nat × Nat)) :
    (b.setStale ijs).blk = b.blk ∧ (b.setStale ijs).idx = b.idx := by
  unfold Bundle.setStale
  refine List.foldlRecOn ijs _ (motive := fun x : Bundle => x.blk = b.blk ∧ x.idx = b.idx) ⟨rfl, rfl⟩ ?_
  exact fun x hx ij _ => hx

theorem Bundle.write_key (b : Bundle) (lane p : Nat) (v : Word) :
    (b.write lane p v).blk = b.blk ∧ (b.write lane p v).idx = b.idx := by
  unfold Bundle.write
  split
  · exact Bundle.setStale_key _ _
  · exact ⟨rfl, rfl⟩

theorem Bundle.writes_key (b : Bundle) (lane p : Nat) (w : Option Word) :
    (b.writes lane p w.toList).blk = b.blk ∧ (b.writes lane p w.toList).idx = b.idx := by
  cases w with
  | none => exact ⟨rfl, rfl⟩
  | some v => exact b.write_key lane p v

section Writes

variable {b : Bundle} (h : b.Plain) (lane p : Nat) (w : Option Word)
include h

/-- At most one register of a plain bundle written: the bundle as it was, or with that register set. -/
theorem Bundle.Plain.writes_cases :
    (w = none ∧ b.writes lane p w.toList = b) ∨ ∃ v, w = some v ∧ b.writes lane p w.toList = b.setReg lane p v := by
  cases w with
  | none => exact .inl ⟨rfl, rfl⟩
  | some v => exact .inr ⟨v, rfl, b.write_plain lane p v h.bare⟩

theorem Bundle.Plain.writes : (b.writes lane p w.toList).Plain := by
  obtain ⟨-, e⟩ | ⟨v, -, e⟩ := h.writes_cases lane p w <;> rw [e]
  · exact h
  · exact h.setReg lane p v

theorem Bundle.Plain.writes_window :
    (b.writes lane p w.toList).base = b.base ∧ (b.writes lane p w.toList).alloc = b.alloc := by
  obtain ⟨-, e⟩ | ⟨v, -, e⟩ := h.writes_cases lane p w <;> rw [e] <;> exact ⟨rfl, rfl⟩

/-- The registers of the lane afterwards. -/
theorem Bundle.Plain.reg_writes (hl : lane < 32) (hp : w.isSome = true → p < b.alloc) (q : Nat) :
    (b.writes lane p w.toList).reg lane q = if q = p then w.getD (b.reg lane q) else b.reg lane q := by
  obtain ⟨hw, e⟩ | ⟨v, hw, e⟩ := h.writes_cases lane p w <;> rw [e, hw]
  · simp
  · by_cases hq : q = p
    · rw [if_pos hq, hq]
      refine Bundle.reg_setReg_self v (by rw [h.rows.1]; exact hl) ?_
      rw [h.row_length hl]
      exact hp (by rw [hw]; rfl)
    · rw [if_neg hq]
      exact b.reg_setReg_other v fun e => hq e.2

/-- Every other lane's are as before. -/
theorem Bundle.Plain.reg_writes_other {lane' : Nat} (hl : lane' ≠ lane) (q : Nat) :
    (b.writes lane p w.toList).reg lane' q = b.reg lane' q := by
  obtain ⟨-, e⟩ | ⟨v, -, e⟩ := h.writes_cases lane p w <;> rw [e]
  exact b.reg_setReg_other v fun e => hl e.1

end Writes

/-- A register in the window of a bundle lies in its allocation (R28). -/
theorem lt_alloc_of_windowTrap_none {b : Bundle} {n : Nat} {regs : List (Nat × Nat)}
    (h : windowTrap b ((n, 1) :: regs) = none) : b.base + n < b.alloc := by
  have := List.find?_eq_none.mp h (b.base + n) (by simp)
  simpa using this

/-! ## What a participant does -/

/-- What a participant of a round does: to its thread, and the word that it writes to the destination, if any. -/
structure Effect where
  thread : Thread → Thread
  word : Option Word

/-- A thread does it, with destination `vd`. -/
def State.apply (s : State) (t : TRef) (d : Nat) (e : Effect) : State :=
  (s.modTh t e.thread).setWords t d e.word.toList

/-- What the state `s'` leaves of a thread of `s` that has done `e`: its own record, and every register. -/
structure Served (s : State) (d : Nat) (t : TRef) (e : Effect) (s' : State) : Prop where
  th : s'.th t = e.thread (s.th t)
  reg : ∀ n, s'.reg t n = if n = d then e.word.getD (s.reg t n) else s.reg t n

/-- Nothing, a word written to the destination, a push on the predicate stack. -/
def Effect.nothing : Effect := { thread := id, word := none }
def Effect.put (v : Word) : Effect := { thread := id, word := some v }
def Effect.push (c : Bool) : Effect := { thread := (·.pushPred c), word := none }

theorem Served.nothing (s : State) (d : Nat) (t : TRef) : Served s d t Effect.nothing s :=
  ⟨rfl, fun n => by simp [Effect.nothing]⟩

/-- What every state of a round keeps of the bundle with which it began. -/
structure Stands (s : State) (blk bun : Nat) (s' : State) : Prop where
  bundle : ∃ b ∈ s'.bundles, b.blk = blk ∧ b.idx = bun
  plain : (s'.bu blk bun).Plain
  base : (s'.bu blk bun).base = (s.bu blk bun).base
  alloc : (s'.bu blk bun).alloc = (s.bu blk bun).alloc

section Apply

variable {s s' : State} {t u : TRef} {d : Nat} {e e' : Effect}

/-- The bundle after a participant's write. -/
theorem State.bu_apply (h : Stands s t.blk t.bun s') : (s'.apply t d e).bu t.blk t.bun =
    (s'.bu t.blk t.bun).writes t.lane ((s'.bu t.blk t.bun).base + d) e.word.toList := by
  have hb : ∃ b ∈ (s'.modTh t e.thread).bundles, b.blk = t.blk ∧ b.idx = t.bun := h.bundle
  exact State.bu_modBu_same hb fun b => b.writes_key _ _ _

theorem Stands.apply (h : Stands s t.blk t.bun s') : Stands s t.blk t.bun (s'.apply t d e) := by
  obtain ⟨hbase, halloc⟩ := h.plain.writes_window t.lane ((s'.bu t.blk t.bun).base + d) e.word
  refine ⟨?_, ?_, ?_, ?_⟩
  · obtain ⟨b, hb, hkey⟩ := h.bundle
    refine ⟨_, List.mem_map_of_mem hb, ?_⟩
    obtain ⟨hblk, hidx⟩ := b.writes_key t.lane (b.base + d) e.word
    split
    · exact ⟨hblk.trans hkey.1, hidx.trans hkey.2⟩
    · exact hkey
  · rw [State.bu_apply h]; exact h.plain.writes _ _ _
  · rw [State.bu_apply h, hbase, h.base]
  · rw [State.bu_apply h, halloc, h.alloc]

/-- A thread that had done nothing has done its own effect. -/
theorem Served.apply (hs : Stands s t.blk t.bun s') (h : Served s d t Effect.nothing s') (hlive : s.live t = true)
    (hlane : t.lane < 32) (href : ∀ x, (e.thread x).ref = x.ref)
    (hd : e.word.isSome = true → (s.bu t.blk t.bun).base + d < (s.bu t.blk t.bun).alloc) :
    Served s d t e (s'.apply t d e) := by
  have hth : s'.th t = s.th t := h.th
  have hreg (n : Nat) : s'.reg t n = s.reg t n := by rw [h.reg]; split <;> rfl
  have hlive' : s'.live t = true := by rw [State.live, hth]; exact hlive
  constructor
  · rw [← hth]
    exact State.th_modTh_same hlive' href
  · intro n
    have hd' : e.word.isSome = true → (s'.bu t.blk t.bun).base + d < (s'.bu t.blk t.bun).alloc := by
      rw [hs.base, hs.alloc]; exact hd
    have hbase : ((s'.apply t d e).bu t.blk t.bun).base = (s'.bu t.blk t.bun).base := hs.apply.base.trans hs.base.symm
    rw [← hreg]
    simp only [State.reg, State.buOf, hbase]
    rw [State.bu_apply hs, hs.plain.reg_writes _ _ _ hlane hd']
    simp only [Nat.add_left_cancel_iff]

/-- What another thread of the bundle does changes nothing of a thread. -/
theorem Served.apply_other (hs : Stands s t.blk t.bun s') (h : Served s d u e' s') (hb : u.blk = t.blk ∧ u.bun = t.bun)
    (hl : u.lane ≠ t.lane) (href : ∀ x, (e.thread x).ref = x.ref) : Served s d u e' (s'.apply t d e) := by
  have hu : u ≠ t := fun e => hl (congrArg TRef.lane e)
  constructor
  · rw [← h.th]
    exact State.th_modTh_other hu href
  · intro n
    have hbase : ((s'.apply t d e).bu t.blk t.bun).base = (s'.bu t.blk t.bun).base := hs.apply.base.trans hs.base.symm
    rw [← h.reg]
    simp only [State.reg, State.buOf, hb.1, hb.2, hbase]
    rw [State.bu_apply hs, hs.plain.reg_writes_other _ _ _ hl]

end Apply

/-! ## A participant's turn -/

theorem State.modTh_modTh (s : State) (t : TRef) (f g : Thread → Thread) (hf : ∀ x, (f x).ref = x.ref) :
    (s.modTh t f).modTh t g = s.modTh t (g ∘ f) := by
  simp only [State.modTh, List.map_map]
  congr 1
  refine List.map_congr_left fun x _ => ?_
  by_cases hx : x.ref = t <;> simp [hx, hf]

theorem State.modTh_id (s : State) (t : TRef) : s.modTh t id = s := by
  simp [State.modTh]

theorem State.setWords_nil (s : State) (t : TRef) (d : Nat) : s.setWords t d [] = s := by
  simp [State.setWords, State.modBu, Bundle.writes]

theorem State.apply_put (s : State) (t : TRef) (d : Nat) (v : Word) : s.apply t d (Effect.put v) = s.setReg t d v := by
  show (s.modTh t id).setWords t d [v] = _
  rw [State.modTh_id]
  rfl

theorem State.apply_push (s : State) (t : TRef) (d : Nat) (c : Bool) :
    s.apply t d (Effect.push c) = s.modTh t (·.pushPred c) :=
  State.setWords_nil _ t d

theorem State.apply_nothing (s : State) (t : TRef) (d : Nat) : s.apply t d Effect.nothing = s :=
  (State.setWords_nil _ t d).trans (s.modTh_id t)

/-- A thread whose region closes with no store in its buffer (R407). -/
def Thread.renewed (x : Thread) : Thread := ({ x with stores := [] } : Thread).beginRegion

theorem State.closeRegion_of_no_stores {s : State} {t : TRef} (h : (s.th t).stores = []) :
    s.closeRegion t = s.modTh t Thread.renewed := by
  simp only [State.closeRegion, h]
  rfl

@[simp] theorem Thread.renewed_ref (x : Thread) : x.renewed.ref = x.ref := rfl
@[simp] theorem Thread.renewed_pc (x : Thread) : x.renewed.pc = x.pc := rfl
@[simp] theorem Thread.renewed_park (x : Thread) : x.renewed.park = x.park := rfl
@[simp] theorem Thread.renewed_stack (x : Thread) : x.renewed.stack = x.stack := rfl
@[simp] theorem Thread.stepRegion_ref (x : Thread) : x.stepRegion.ref = x.ref := rfl
@[simp] theorem Thread.stepRegion_pc (x : Thread) : x.stepRegion.pc = x.pc + 4 := rfl
@[simp] theorem Thread.stepRegion_stack (x : Thread) : x.stepRegion.stack = x.stack := rfl

/-- An effect as a round performs it: the region closes before it, and the thread steps past the instruction after it. -/
def Effect.inTurn (e : Effect) : Effect :=
  { thread := Thread.stepRegion ∘ e.thread ∘ Thread.renewed, word := e.word }

/-- What an inactive participant does: it pushes 0 where the instruction pushes (R37, R38). -/
def Form.skipped (f : Form) : Effect :=
  if f.pushes then Effect.push false else Effect.nothing

/-- An effect changes what the instruction computes: neither the thread's name nor its PC. -/
structure Effect.Local (e : Effect) : Prop where
  ref : ∀ x, (e.thread x).ref = x.ref
  pc : ∀ x, (e.thread x).pc = x.pc

theorem Effect.nothing_local : Effect.nothing.Local := ⟨fun _ => rfl, fun _ => rfl⟩
theorem Effect.put_local (v : Word) : (Effect.put v).Local := ⟨fun _ => rfl, fun _ => rfl⟩
theorem Effect.push_local (c : Bool) : (Effect.push c).Local := ⟨fun _ => rfl, fun _ => rfl⟩

theorem Form.skipped_local (f : Form) : f.skipped.Local := by
  unfold Form.skipped
  split
  · exact Effect.push_local false
  · exact Effect.nothing_local

theorem Form.skipped_word (f : Form) : f.skipped.word = none := by
  unfold Form.skipped
  split <;> rfl

theorem Effect.Local.inTurn_ref {e : Effect} (h : e.Local) (x : Thread) : (e.inTurn.thread x).ref = x.ref := by
  simp [Effect.inTurn, h.ref]

theorem Effect.Local.inTurn_pc {e : Effect} (h : e.Local) (x : Thread) : (e.inTurn.thread x).pc = x.pc + 4 := by
  simp [Effect.inTurn, h.pc]

/-- A thread that has had its turn stands at the next word. -/
theorem Served.pc {s s' : State} {d : Nat} {t : TRef} {e : Effect} (h : Served s d t e.inTurn s') (hloc : e.Local) :
    (s'.th t).pc = (s.th t).pc + 4 := by
  rw [h.th, hloc.inTurn_pc]

/-- Region closed, effect, step: the effect in its turn. -/
theorem State.finish_apply {s : State} {t : TRef} {d : Nat} {e : Effect} (h : e.Local) :
    ((s.modTh t Thread.renewed).apply t d e).finish t true = s.apply t d e.inTurn := by
  have hthreads : ((s.modTh t Thread.renewed).modTh t e.thread).modTh t Thread.stepRegion = s.modTh t e.inTurn.thread := by
    rw [State.modTh_modTh _ _ _ _ h.ref, State.modTh_modTh _ _ _ _ Thread.renewed_ref]
    rfl
  show (((s.modTh t Thread.renewed).modTh t e.thread).modTh t Thread.stepRegion).setWords t d e.word.toList = _
  rw [hthreads]
  rfl

theorem State.skip_eq_apply {s : State} {f : Form} {t : TRef} (d : Nat) (hc : f.closes = true)
    (hst : (s.th t).stores = []) : s.skip f t = s.apply t d f.skipped.inTurn := by
  rw [← State.finish_apply f.skipped_local, State.skip, ← State.closeRegion_of_no_stores hst, Form.skipped]
  cases f.pushes with
  | true => simp [hc, State.apply_push]
  | false => simp [hc, State.apply_nothing]

/-- What each thread of a round has done in the end: the instruction's effect, or an inactive thread's. -/
def State.turnOf (s : State) (f : Form) (e : TRef → Effect) (t : TRef) : Effect :=
  if (s.th t).active then e t else f.skipped

theorem State.turnOf_active {s : State} {f : Form} {e : TRef → Effect} {t : TRef} (h : (s.th t).active = true) :
    s.turnOf f e t = e t := if_pos h

theorem State.turnOf_inactive {s : State} {f : Form} {e : TRef → Effect} {t : TRef} (h : (s.th t).active = false) :
    s.turnOf f e t = f.skipped := if_neg (by simp [h])

theorem State.turnOf_local (s : State) {f : Form} {e : TRef → Effect} {t : TRef} (h : (e t).Local) :
    (s.turnOf f e t).Local := by
  unfold State.turnOf
  split
  · exact h
  · exact f.skipped_local

/-- A thread that writes a word is one whose effect writes it. -/
theorem State.word_of_turnOf (s : State) {f : Form} {e : TRef → Effect} {t : TRef}
    (h : (s.turnOf f e t).inTurn.word.isSome = true) : (e t).word.isSome = true := by
  unfold State.turnOf at h
  split at h
  · exact h
  · rw [Effect.inTurn, f.skipped_word] at h
    exact absurd h Bool.false_ne_true

/-- A form with no check beyond the window and the room for a push, that inactive threads skip. -/
structure Form.Convergent (f : Form) : Prop where
  closes : f.closes = true
  late : f.late = false
  all : f.all = false
  needsTop : f.needsTop = false

/-- A thread's turn in a round: it does its effect or skips the instruction. -/
theorem State.issueOne_in_round {f : Form} {body : State → TRef → Act} {s s' : State} {t : TRef} {d : Nat}
    {e : TRef → Effect} (hf : f.Convergent) (he : s.earlyTrap f t = none) (hlive : s'.live t = true)
    (hth : s'.th t = s.th t) (hst : (s.th t).stores = []) (hsound : (s'.buOf t).poison = [])
    (hb : (s.th t).active = true → ∀ s', body s' t = .next (s'.apply t d (e t))) (hloc : (e t).Local) :
    State.issueOne f body s s' t = s'.apply t d (s.turnOf f e t).inTurn := by
  have hst' : (s'.th t).stores = [] := by rw [hth, hst]
  cases hact : (s.th t).active with
  | false =>
    rw [State.turnOf_inactive hact, ← State.skip_eq_apply d hf.closes hst']
    simp [State.issueOne, hlive, he, hth, hact, hf.all]
  | true =>
    have hlive' : (s'.modTh t Thread.renewed).live t = true := by
      rw [State.live, State.th_modTh_same hlive Thread.renewed_ref, Thread.renewed_park]
      exact hlive
    have hbad : ((s'.modTh t Thread.renewed).buOf t).badRegs t.lane f.reads = false :=
      Bundle.badRegs_of_sound hsound _ _
    rw [State.turnOf_active hact, ← State.finish_apply hloc]
    simp [State.issueOne, hlive, he, hth, hact, hf.closes, hf.late, State.closeRegion_of_no_stores hst', hlive', hbad,
      hb hact, State.perform]

end Sys2Proof.Machine

namespace Sys2Proof.Safety

open Sys2Proof.Machine

/-! ## The round -/

/-- While a thread waits for its turn, the bundle stands and the thread is as the round found it. -/
structure Waits (s : State) (blk bun d : Nat) (t : TRef) (s' : State) : Prop where
  stands : Stands s blk bun s'
  untouched : Served s d t Effect.nothing s'

section Round

variable {s s' : State} {blk bun d : Nat} {l : List TRef} {t u : TRef} (h : InRound s blk bun l)
include h

theorem InRound.buOf (ht : t ∈ l) : s.buOf t = s.bu blk bun := by
  obtain ⟨hblk, hbun, -⟩ := h.mates t ht
  rw [State.buOf, hblk, hbun]

theorem InRound.actives : s.actives = l.filter fun t => (s.th t).active := by
  rw [State.actives, h.group]

theorem InRound.nodup : l.Nodup :=
  (List.pairwise_map.mp h.ordered).imp fun hlt e => Nat.ne_of_lt hlt (congrArg TRef.lane e)

/-- Two threads of a round are told apart by their lanes. -/
theorem InRound.lane_ne (ht : t ∈ l) (hu : u ∈ l) (hne : u ≠ t) : u.lane ≠ t.lane := by
  have hordered : l.Pairwise fun a b => a.lane < b.lane := List.pairwise_map.mp h.ordered
  have hinj : ∀ ⦃a⦄, a ∈ l → ∀ ⦃b⦄, b ∈ l → a.lane = b.lane → a = b :=
    List.Pairwise.forall_of_forall_of_flip (fun _ _ _ => rfl) (hordered.imp fun hlt e => absurd e (Nat.ne_of_lt hlt))
      (hordered.imp fun hlt e => absurd e.symm (Nat.ne_of_lt hlt))
  exact fun e => hne (hinj hu ht e)

theorem InRound.waits (t : TRef) : Waits s blk bun d t s :=
  ⟨⟨h.bundle, ⟨h.rows, h.sound, h.bare⟩, rfl, rfl⟩, Served.nothing s d t⟩

/-- A thread that has waited does its effect. -/
theorem InRound.served_apply {e : Effect} (ht : t ∈ l) (hloc : e.Local)
    (hd : e.word.isSome = true → (s.bu blk bun).base + d < (s.bu blk bun).alloc) (hw : Waits s blk bun d t s') :
    Served s d t e.inTurn (s'.apply t d e.inTurn) := by
  obtain ⟨rfl, rfl, hlane⟩ := h.mates t ht
  exact hw.untouched.apply hw.stands (h.live t ht) hlane hloc.inTurn_ref hd

/-- What another thread has done, or not yet done, stays. -/
theorem InRound.served_apply_other {e e' : Effect} (ht : t ∈ l) (hu : u ∈ l) (hne : u ≠ t) (hloc : e.Local)
    (hw : Waits s blk bun d t s') (hs : Served s d u e' s') : Served s d u e' (s'.apply t d e.inTurn) := by
  obtain ⟨rfl, rfl, -⟩ := h.mates t ht
  obtain ⟨hblk, hbun, -⟩ := h.mates u hu
  exact hs.apply_other hw.stands ⟨hblk, hbun⟩ (h.lane_ne ht hu hne) hloc.inTurn_ref

theorem InRound.waits_apply_other {e : Effect} (ht : t ∈ l) (hu : u ∈ l) (hne : u ≠ t) (hloc : e.Local)
    (hw : Waits s blk bun d t s') (hwu : Waits s blk bun d u s') : Waits s blk bun d u (s'.apply t d e.inTurn) := by
  refine ⟨?_, h.served_apply_other ht hu hne hloc hw hwu.untouched⟩
  obtain ⟨rfl, rfl, -⟩ := h.mates t ht
  exact hw.stands.apply

section Issue

variable {f : Form} {body : State → TRef → Act} {e : TRef → Effect}

/-- A thread's turn, whatever the threads before it have done. -/
theorem InRound.issueOne (hf : f.Convergent) (hw : windowTrap (s.bu blk bun) f.regs = none)
    (hp : f.pushes = true → (s.th t).stack.length < 16) (ht : t ∈ l)
    (hb : (s.th t).active = true → ∀ s', body s' t = .next (s'.apply t d (e t))) (hloc : (e t).Local)
    (hs : Waits s blk bun d t s') :
    State.issueOne f body s s' t = s'.apply t d (s.turnOf f e t).inTurn := by
  have hth : s'.th t = s.th t := hs.untouched.th
  have he : s.earlyTrap f t = none :=
    State.earlyTrap_none (by rw [h.buOf ht]; exact hw) hp
      fun hneed => absurd (hf.needsTop.symm.trans hneed) Bool.false_ne_true
  have hlive : s'.live t = true := by rw [State.live, hth]; exact h.live t ht
  have hsound : (s'.buOf t).poison = [] := by
    obtain ⟨hblk, hbun, -⟩ := h.mates t ht
    rw [State.buOf, hblk, hbun]
    exact hs.stands.plain.sound
  exact State.issueOne_in_round hf he hlive hth (h.stores t ht) hsound hb hloc

/-- A round: each thread does its effect, or skips the instruction, and nothing else happens to it. -/
theorem InRound.issueConv (f : Form) (body : State → TRef → Act) (d : Nat) (e : TRef → Effect)
    (hf : ({ f with closes := true } : Form).Convergent)
    (hw : windowTrap (s.bu blk bun) f.regs = none) (hp : f.pushes = true → ∀ t ∈ l, (s.th t).stack.length < 16)
    (hb : ∀ t ∈ l, (s.th t).active = true → ∀ s', body s' t = .next (s'.apply t d (e t))) (hloc : ∀ t, (e t).Local)
    (hd : ∀ t, (e t).word.isSome = true → (s.bu blk bun).base + d < (s.bu blk bun).alloc) :
    ∃ s', s.issueConv f body = .next s' ∧ ∀ t ∈ l, Served s d t (s.turnOf f e t).inTurn s' := by
  have hissue : s.issueConv f body = .next (l.foldl (State.issueOne { f with closes := true } body s) s) := by
    rw [State.issueConv, if_pos h.round, State.issue, State.undertow_plain h.plain, h.group]
  have hturn : ∀ t ∈ l, ∀ s', Waits s blk bun d t s' →
      State.issueOne { f with closes := true } body s s' t = s'.apply t d (s.turnOf f e t).inTurn :=
    fun t ht _ hs => h.issueOne hf hw (fun hpush => hp hpush t ht) ht (hb t ht) (hloc t) hs
  have hloc' (t : TRef) : (s.turnOf f e t).Local := s.turnOf_local (hloc t)
  refine ⟨_, hissue, foldl_serves (Waits s blk bun d) h.nodup (fun t ht s' hs => ?_)
    (fun t ht u hu hne s' hs hsu => ?_) (fun t ht u hu hne s' hs hsu => ?_) s fun t _ => h.waits t⟩
  · rw [hturn t ht s' hs]
    exact h.served_apply ht (hloc' t) (fun hsome => hd t (s.word_of_turnOf hsome)) hs
  · rw [hturn t ht s' hs]
    exact h.waits_apply_other ht hu hne (hloc' t) hs hsu
  · rw [hturn t ht s' hs]
    exact h.served_apply_other ht hu hne (hloc' t) hs hsu

end Issue

/-- An instruction that pushes a value on each thread, the same for all. -/
theorem InRound.pushes {regs reads : List (Nat × Nat)} {body : State → TRef → Act} {c : Bool}
    (hw : windowTrap (s.bu blk bun) regs = none) (hp : ∀ t ∈ l, (s.th t).stack.length < 16)
    (hb : ∀ s' t, body s' t = .next (s'.modTh t (·.pushPred c))) :
    ∃ s', s.issueConv { regs := regs, reads := reads, pushes := true } body = .next s' ∧
      ∀ t ∈ l, (s'.th t).pc = (s.th t).pc + 4 ∧ (s'.th t).stack = ((s.th t).active && c) :: (s.th t).stack := by
  obtain ⟨s', hs', hserved⟩ := h.issueConv { regs := regs, reads := reads, pushes := true } body 0
    (fun _ => Effect.push c) ⟨rfl, rfl, rfl, rfl⟩ hw (fun _ => hp)
    (fun t _ _ s' => by rw [hb, State.apply_push]) (fun _ => Effect.push_local c) (fun _ hsome => nomatch hsome)
  refine ⟨s', hs', fun t ht => ⟨(hserved t ht).pc (s.turnOf_local (Effect.push_local c)), ?_⟩⟩
  rw [(hserved t ht).th]
  cases hact : (s.th t).active with
  | true => rw [State.turnOf_active hact]; rfl
  | false => rw [State.turnOf_inactive hact]; rfl

/-- What a round with a destination register leaves: each active thread's `vd` meets `R`, an inactive thread keeps its
registers, and every thread steps to the next word. -/
def Gives (s : State) (l : List TRef) (d : Nat) (o : Host.Outcome State Fault Refusal) (R : TRef → Word → Prop) : Prop :=
  ∃ s', o = .next s' ∧ ∀ t ∈ l, (s'.th t).pc = (s.th t).pc + 4 ∧ ((s.th t).active = true → R t (s'.reg t d)) ∧
    ((s.th t).active = false → ∀ n, s'.reg t n = s.reg t n)

/-- An instruction that writes a value to the destination of each active thread. -/
theorem InRound.gives {regs reads : List (Nat × Nat)} {body : State → TRef → Act} {v : TRef → Word}
    {R : TRef → Word → Prop} (hw : windowTrap (s.bu blk bun) ((d, 1) :: regs) = none)
    (hb : ∀ t ∈ l, (s.th t).active = true → ∀ s', body s' t = .next (s'.setReg t d (v t)))
    (hR : ∀ t ∈ l, (s.th t).active = true → R t (v t)) :
    Gives s l d (s.issueConv { regs := (d, 1) :: regs, reads := reads } body) R := by
  obtain ⟨s', hs', hserved⟩ := h.issueConv { regs := (d, 1) :: regs, reads := reads } body d
    (fun t => Effect.put (v t)) ⟨rfl, rfl, rfl, rfl⟩ hw (fun hpush => nomatch hpush)
    (fun t ht hact s' => by rw [hb t ht hact, State.apply_put]) (fun t => Effect.put_local (v t))
    (fun _ _ => lt_alloc_of_windowTrap_none hw)
  refine ⟨s', hs', fun t ht => ⟨(hserved t ht).pc (s.turnOf_local (Effect.put_local _)), fun hact => ?_, fun hact n => ?_⟩⟩
  · rw [(hserved t ht).reg, State.turnOf_active hact, if_pos rfl]
    exact hR t ht hact
  · rw [(hserved t ht).reg, State.turnOf_inactive hact, Effect.inTurn, Form.skipped_word, Option.getD_none, ite_self]

/-- An XL instruction: no participant reads a poisoned word. -/
theorem InRound.xlOp {a : Nat} {rb : List (Nat × Nat)} {reads : TRef → List (Nat × Nat)} {v : TRef → Word}
    {R : TRef → Word → Prop} (hw : windowTrap (s.bu blk bun) ((d, 1) :: (a, 1) :: rb) = none)
    (hR : ∀ t ∈ l, (s.th t).active = true → R t (v t)) : Gives s l d (s.xlOp d a rb reads v) R := by
  refine h.gives hw (fun t ht _ s' => ?_) hR
  have hsound : (s.buOf t).poison = [] := by rw [h.buOf ht]; exact h.sound
  simp [Bundle.badRegs_of_sound hsound]

/-- A reduction or a scan. -/
theorem InRound.xlRed {a : Nat} {keep : TRef → TRef → Bool} {f : List Word → Word} {R : TRef → Word → Prop}
    (hw : windowTrap (s.bu blk bun) [(d, 1), (a, 1)] = none)
    (hR : ∀ t ∈ l, (s.th t).active = true → R t (f ((s.actives.filter (keep t)).map fun u => s.reg u a))) :
    Gives s l d (s.xlRed d a keep f) R :=
  h.xlOp hw hR

end Round

/-! ## Exchanges, reductions, scans and ballots (R129, R130) -/

theorem sum_eq_ofNat (l : List Word) : l.sum = BitVec.ofNat 32 (l.map (·.toNat)).sum := by
  induction l with
  | nil => rfl
  | cons x r ih =>
    rw [List.sum_cons, ih, List.map_cons, List.sum_cons, BitVec.ofNat_add, BitVec.ofNat_toNat, BitVec.setWidth_eq]

theorem filter_all {α : Type} (l : List α) : (l.filter fun _ => true) = l := List.filter_eq_self.mpr fun _ _ => rfl

/-- The value picked is one of the list, and none has a lesser key. -/
theorem pickInt_least (better : Word → Word → Bool) (key : Word → Int)
    (hb : ∀ y m, better y m = decide (key y < key m)) {l : List Word} (hl : l ≠ []) : pickInt better l ∈ l ∧ ∀ v ∈ l, key (pickInt better l) ≤ key v := by
  obtain ⟨x, r, rfl⟩ := List.exists_cons_of_ne_nil hl
  induction r generalizing x with
  | nil => simp [pickInt]
  | cons y r ih =>
    have hpick : pickInt better (x :: y :: r) = pickInt better ((if better y x then y else x) :: r) := rfl
    rw [hpick, hb]
    by_cases hlt : key y < key x
    · obtain ⟨hmem, hle⟩ := ih y (List.cons_ne_nil _ _)
      have hy := hle y List.mem_cons_self
      rw [if_pos (decide_eq_true hlt)]
      exact ⟨List.mem_cons_of_mem x hmem, List.forall_mem_cons.mpr ⟨Int.le_trans hy (Int.le_of_lt hlt), hle⟩⟩
    · obtain ⟨hmem, hle⟩ := ih x (List.cons_ne_nil _ _)
      obtain ⟨hx, hr⟩ := List.forall_mem_cons.mp hle
      rw [if_neg (by simpa using hlt)]
      refine ⟨?_, List.forall_mem_cons.mpr ⟨hx, List.forall_mem_cons.mpr ⟨Int.le_trans hx (Int.not_lt.mp hlt), hr⟩⟩⟩
      exact List.mem_cons.mpr ((List.mem_cons.mp hmem).imp_right (List.mem_cons_of_mem y))

theorem getLsbD_one_shiftLeft (n : Nat) {k : Nat} (hk : k < 32) : (1#32 <<< n).getLsbD k = (n == k) := by
  rw [BitVec.getLsbD_shiftLeft, BitVec.getLsbD_one, Bool.eq_iff_iff]
  simp [hk]
  omega

/-- A bit of a mask says whether a thread of its lane is in the list. -/
theorem getLsbD_laneMask (l : List TRef) {k : Nat} (hk : k < 32) : (laneMask l).getLsbD k = l.any fun u => u.lane == k := by
  have hfold (m : Word) : (l.foldl (fun m t => m ||| (1#32 <<< t.lane)) m).getLsbD k =
      (m.getLsbD k || l.any fun u => u.lane == k) := by
    induction l generalizing m with
    | nil => simp
    | cons t r ih => rw [List.foldl_cons, ih, BitVec.getLsbD_or, getLsbD_one_shiftLeft _ hk, List.any_cons, Bool.or_assoc]
  rw [laneMask, hfold, show (0 : Word).getLsbD k = false from BitVec.getLsbD_zero, Bool.false_or]

section Results

variable {s : State} {blk bun d a b : Nat} {l : List TRef} (h : InRound s blk bun l)
include h

/-- The active values of a round with an active thread. -/
theorem InRound.values_ne_nil (a : Nat) {t : TRef} (ht : t ∈ l) (hact : (s.th t).active = true) :
    s.actives.map (fun u => s.reg u a) ≠ [] := by
  rw [h.actives]
  have : t ∈ l.filter fun t => (s.th t).active := List.mem_filter.mpr ⟨ht, hact⟩
  exact fun e => List.ne_nil_of_mem this (List.map_eq_nil_iff.mp e)

/-- RDLANE: the lane is the one that the lowest active participant names. -/
theorem InRound.rdlane (hw : windowTrap (s.bu blk bun) [(d, 1), (a, 1), (b, 1)] = none) :
    Gives s l d (execRdlane d a b s) fun t r =>
      r = s.reg { t with lane := (s.reg (Claims.firstOf (l.filter fun t => (s.th t).active)) b).toNat % 32 } a := by
  rw [← h.actives]
  unfold execRdlane
  cases hacts : s.actives with
  | nil =>
    refine h.xlOp hw fun t ht hact => ?_
    have hmem : t ∈ s.actives := by rw [h.actives]; exact List.mem_filter.mpr ⟨ht, hact⟩
    rw [hacts] at hmem
    exact absurd hmem List.not_mem_nil
  | cons m r => exact h.xlOp hw fun t _ _ => rfl

theorem InRound.exchanges (hw : windowTrap (s.bu blk bun) [(d, 1), (a, 1), (b, 1)] = none) :
    ∀ p ∈ Claims.exchanges, Gives s l d (exec (p.1 d a b) s) fun t r =>
      r = s.reg { t with lane := p.2 s (l.filter fun t => (s.th t).active) t b } a := by
  simp only [Claims.exchanges, List.forall_mem_cons, List.not_mem_nil, false_implies, implies_true, and_true]
  exact ⟨h.xlOp hw fun _ _ _ => rfl, h.xlOp hw fun _ _ _ => rfl, h.xlOp hw fun _ _ _ => rfl, h.xlOp hw fun _ _ _ => rfl,
    h.rdlane hw⟩

theorem InRound.reductions (hw : windowTrap (s.bu blk bun) [(d, 1), (a, 1)] = none) :
    ∀ p ∈ Claims.reductions, Gives s l d (exec (p.1 d a) s) fun t r =>
      p.2 (Claims.valuesOf s (l.filter fun t => (s.th t).active) a)
        (Claims.valuesOf s ((l.filter fun t => (s.th t).active).filter fun u => u.lane ≤ t.lane) a) r := by
  simp only [Claims.reductions, List.forall_mem_cons, List.not_mem_nil, false_implies, implies_true, and_true,
    Claims.valuesOf, ← h.actives]
  refine ⟨h.xlRed hw fun t _ _ => ?_, h.xlRed hw fun t ht hon => ?_, h.xlRed hw fun t ht hon => ?_,
    h.xlRed hw fun t _ _ => sum_eq_ofNat _⟩ <;> rw [filter_all]
  · exact sum_eq_ofNat _
  · exact pickInt_least (fun y m => y.slt m) (fun v => v.toInt) (fun _ _ => BitVec.slt_eq_decide)
      (h.values_ne_nil a ht hon)
  · obtain ⟨hmem, hle⟩ := pickInt_least (fun y m => m.slt y) (fun v => -v.toInt)
      (fun _ _ => by simp [BitVec.slt_eq_decide]) (h.values_ne_nil a ht hon)
    exact ⟨hmem, fun v hv => Int.neg_le_neg_iff.mp (hle v hv)⟩

theorem InRound.ballot (hw : windowTrap (s.bu blk bun) [(d, 1), (a, 1)] = none) :
    Gives s l d (execBallot d a s) fun _ r => ∀ k < 32, r.getLsbD k =
      (l.filter fun t => (s.th t).active).any fun u => u.lane == k && s.reg u a != 0 := by
  refine h.gives hw (fun _ _ _ _ => rfl) fun t _ _ k hk => ?_
  rw [getLsbD_laneMask _ hk, List.any_filter, h.actives]
  simp only [Bool.and_comm]

end Results

theorem roundResults : Claims.RoundResults := fun _ _ _ _ _ _ _ h =>
  ⟨h.exchanges, fun hw => ⟨h.reductions hw, h.ballot hw⟩⟩

theorem votes : Claims.Votes := by
  intro s blk bun a l h act pushes
  have hvalues : Claims.valuesOf s act a = s.actives.map fun u => s.reg u a := by
    rw [h.actives]
    rfl
  refine ⟨fun hw hp => ?_, ?_⟩
  · rw [hvalues]
    exact ⟨h.pushes hw hp fun _ _ => rfl, h.pushes hw hp fun _ _ => rfl⟩
  · obtain ⟨s', hs', hserved⟩ := h.issueConv {} (fun s' _ => .next s') 0 (fun _ => Effect.nothing) ⟨rfl, rfl, rfl, rfl⟩ rfl (fun hpush => nomatch hpush)
      (fun t _ _ s' => by rw [State.apply_nothing]) (fun _ => Effect.nothing_local) (fun _ hsome => nomatch hsome)
    refine ⟨s', hs', fun t ht => ⟨(hserved t ht).pc (s.turnOf_local Effect.nothing_local), ?_⟩⟩
    rw [(hserved t ht).th, State.turnOf]
    split <;> rfl

theorem convergentParks : Claims.ConvergentParks := by
  intro s t i hg hr hc
  have hconv (f : Form) (body : State → TRef → Act) : s.issueConv f body = .next (s.modTh t fun x =>
      { x with pending := x.pending.map fun p => { p with window := 0 }, park := .conv }) := by
    rw [State.issueConv, if_neg (by simp [hr]), hg]
    rfl
  have hrdlane (d a b : Nat) : exec (.rdlane d a b) s = .next (s.modTh t fun x =>
      { x with pending := x.pending.map fun p => { p with window := 0 }, park := .conv }) := by
    show execRdlane d a b s = _
    unfold execRdlane
    split <;> exact hconv _ _
  unfold convergent at hc
  split at hc
  case h_5 => exact hrdlane _ _ _
  case h_18 => exact nomatch hc
  all_goals exact hconv _ _

/-- Settles O39: a round serves each of its threads, whatever the order of their turns; outside a round the thread parks. -/
theorem convergentResults : Obligations.ConvergentResults := ⟨roundResults, votes, convergentParks⟩

end Sys2Proof.Safety
end

/-! # Floating-point instructions -/

section
namespace Sys2Proof.Machine

open Sys2Proof.Safety

/-! ## Issuing a floating-point instruction of one thread (R107, R132) -/

section Issue

variable {s : State} {t : TRef} {d a b : Nat} {f : Fmt}

/-- A floating-point instruction makes its draw, raises its flags and writes its result. -/
theorem State.float_alone {w : Nat} {reads : List (Nat × Nat)} {rm : Thread → Option Nat}
    {r : State → TRef → Mode → FRes} (h : Alone s t) (ho : Readable s t ((d, w) :: reads) reads) :
    s.float d w reads rm r = .next (Claims.floated s t d w (rm (s.th t)) (r s t)) :=
  State.issue_alone h (State.earlyTrap_none ho.window (by simp) (by simp)) rfl ho.sound

theorem State.float2_alone {op : Fmt → Mode → Bool → FVal → FVal → FRes} (h : Alone s t)
    (ho : Readable s t [(d, Claims.width f), (a, Claims.width f), (b, Claims.width f)]
      [(a, Claims.width f), (b, Claims.width f)]) :
    s.float2 f d a b op = .next (Claims.floated s t d (Claims.width f) (some (s.th t).rm) fun md =>
      op f md (Claims.ftzOf s t f) (Claims.valueAt s t f a) (Claims.valueAt s t f b)) :=
  State.float_alone h ho

theorem State.float3_alone {na nc : Bool} (h : Alone s t)
    (ho : Readable s t [(d, Claims.width f), (a, Claims.width f), (b, Claims.width f), (d, Claims.width f)]
      [(a, Claims.width f), (b, Claims.width f), (d, Claims.width f)]) :
    s.float3 f d a b na nc = .next (Claims.floated s t d (Claims.width f) (some (s.th t).rm) fun md =>
      fmaV f md (Claims.ftzOf s t f) (if na then fvNeg (Claims.valueAt s t f a) else Claims.valueAt s t f a)
        (Claims.valueAt s t f b) (if nc then fvNeg (Claims.valueAt s t f d) else Claims.valueAt s t f d)) :=
  State.float_alone h ho

theorem State.floatPick_alone {maxi prop : Bool} (h : Alone s t)
    (ho : Readable s t [(d, Claims.width f), (a, Claims.width f), (b, Claims.width f)]
      [(a, Claims.width f), (b, Claims.width f)]) :
    s.floatPick f d a b maxi prop = .next (Claims.floated s t d (Claims.width f) none fun _ =>
      minMaxV f maxi prop (flushIn f (Claims.ftzOf s t f) (Claims.bitsAt s t f a))
        (flushIn f (Claims.ftzOf s t f) (Claims.bitsAt s t f b))) :=
  State.float_alone h ho

theorem State.floatSign_alone {rb : List (Nat × Nat)} {sign : State → TRef → Bool} (h : Alone s t)
    (ho : Readable s t ((d, Claims.width f) :: (a, Claims.width f) :: rb) ((a, Claims.width f) :: rb)) :
    s.floatSign f d a rb sign = .next (Claims.floated s t d (Claims.width f) none fun _ =>
      (Claims.bitsAt s t f a % signBit f + (if sign s t then signBit f else 0), noFlag)) :=
  State.float_alone h ho

end Issue

/-! ## The operation that each instruction is, in either format (R137 to R139) -/

section Meaning

variable {s : State} {t : TRef} {d a b : Nat} {f : Fmt} (hf : f = .f32 ∨ f = .f64)
include hf

theorem exec_rounded2 : ∀ p ∈ Claims.rounded2, exec (p.1 f d a b) s = s.float2 f d a b p.2 := by
  simp only [Claims.rounded2, List.forall_mem_cons, List.not_mem_nil, false_implies, implies_true, and_true]
  obtain rfl | rfl := hf <;> exact ⟨rfl, rfl, rfl⟩

/-- FFMA, FFMS and FNFMA: the product or the addend negated. -/
theorem exec_fused : ∀ p ∈ Claims.fused, ∃ na nc, exec (p.1 f d a b) s = s.float3 f d a b na nc ∧
    ∀ md z x y w, p.2 f md z x y w = fmaV f md z (if na then fvNeg x else x) y (if nc then fvNeg w else w) := by
  simp only [Claims.fused, List.forall_mem_cons, List.not_mem_nil, false_implies, implies_true, and_true]
  obtain rfl | rfl := hf <;>
    exact ⟨⟨false, false, rfl, fun _ _ _ _ _ => rfl⟩, ⟨false, true, rfl, fun _ _ _ _ _ => rfl⟩,
      ⟨true, false, rfl, fun _ _ _ _ _ => rfl⟩⟩

theorem exec_picks : ∀ p ∈ Claims.picks, exec (p.1 f d a b) s = s.floatPick f d a b p.2.1 p.2.2 := by
  simp only [Claims.picks, List.forall_mem_cons, List.not_mem_nil, false_implies, implies_true, and_true]
  obtain rfl | rfl := hf <;> exact ⟨rfl, rfl, rfl, rfl⟩

theorem exec_fsgnj : exec ((if f = .f64 then .fsgnjF64 else .fsgnjF32 : Nat → Nat → Nat → Instr) d a b) s =
    s.floatSign f d a [(b, Claims.width f)] fun s t => s.signOf t f b := by
  obtain rfl | rfl := hf <;> rfl

theorem exec_fclass : exec ((if f = .f64 then .fclassF64 else .fclassF32 : Nat → Nat → Instr) d a) s =
    s.float d 1 [(a, Claims.width f)] (fun _ => none) fun s t _ => (classOf f (s.operand t f a), noFlag) := by
  obtain rfl | rfl := hf <;> rfl

/-- FABS and FNEG: the magnitude with the sign bit clear, or with the opposite sign. -/
theorem exec_signs1 : ∀ p ∈ Claims.signs1, ∃ sign, exec (p.1 f d a) s = s.floatSign f d a [] sign ∧
    p.2 (Claims.bitsAt s t f a) (signBit f) =
      Claims.bitsAt s t f a % signBit f + if sign s t then signBit f else 0 := by
  have hneg (x sb : Nat) : (if x / sb % 2 = 1 then x % sb else x % sb + sb) =
      x % sb + if !(x / sb % 2 == 1) then sb else 0 := by
    by_cases hs : x / sb % 2 = 1 <;> simp [hs]
  simp only [Claims.signs1, List.forall_mem_cons, List.not_mem_nil, false_implies, implies_true, and_true]
  obtain rfl | rfl := hf <;>
    exact ⟨⟨fun _ _ => false, rfl, rfl⟩, ⟨fun s t => !s.signOf t _ a, rfl, hneg _ _⟩⟩

end Meaning

theorem classOf_eq_classMask (f : Fmt) (x : Nat) : classOf f x = Claims.classMask f x := by
  unfold classOf Claims.classMask
  cases unpack f x with
  | fin neg m e => cases neg <;> simp
  | inf neg => cases neg <;> rfl
  | nan neg frac w signalling => cases signalling <;> rfl

/-- Settles O8: each instruction is a floating-point operation whose result and flags are those that R137 to R139 give. -/
theorem floatResults : Obligations.FloatResults := by
  unfold Obligations.FloatResults
  intro s t d a b f h hf
  refine ⟨fun ho => ⟨fun p hp => ?_, fun p hp => ?_, ?_⟩, fun ho p hp => ?_, fun ho p hp => ?_, fun ho => ?_⟩
  · rw [exec_rounded2 hf p hp]
    exact State.float2_alone h ho
  · rw [exec_picks hf p hp]
    exact State.floatPick_alone h ho
  · rw [exec_fsgnj hf, State.floatSign_alone h ho]
    simp only [State.signOf, beq_iff_eq]
    rfl
  · obtain ⟨na, nc, hexec, hval⟩ := exec_fused hf p hp
    rw [hexec, State.float3_alone h ho]
    simp only [hval]
  · obtain ⟨sign, hexec, hval⟩ := exec_signs1 (t := t) hf p hp
    rw [hexec, State.floatSign_alone h ho, hval]
  · rw [exec_fclass hf, State.float_alone h ho]
    simp only [classOf_eq_classMask]
    rfl

end Sys2Proof.Machine
end

/-! # Long-latency arithmetic -/

section
namespace Sys2Proof.Machine

open Sys2Proof.Safety

/-! ## Issue (R55, R141) -/

theorem State.draw_buOf (s : State) (t : TRef) (rm : Nat) : (s.draw t rm).2.buOf t = s.buOf t := by
  unfold State.draw
  split <;> rfl

/-- The pending results of an instruction that waits for no host request. -/
theorem resultsOf_untagged (p la : Nat) (vals : List Word) (flags : FFlags) :
    resultsOf p la vals flags 0 = vals.zipIdx.map fun v =>
      { dst := p + v.2, vals := [v.1], flags := if v.2 = 0 then flags else 0, window := la + 1 } := by
  simp only [resultsOf, beq_iff_eq]
  rfl

section Issue

variable {s : State} {t : TRef} {d a la t1 : Nat}

/-- A long-latency operation of one thread: its draw and its pending results. -/
theorem State.longOp_alone {w : Nat} {reads : List (Nat × Nat)} {rounds : Bool} {r : State → TRef → Mode → FRes}
    (h : Alone s t) (ho : Readable s t ((d, w) :: reads) reads) :
    s.longOp d w la reads rounds r = .next (Claims.issued s t d w la rounds (r s t)) := by
  rw [State.longOp, State.issue_alone h (State.earlyTrap_none ho.window (by simp) (by simp)) rfl ho.sound]
  cases rounds with
  | true =>
    simp only [Claims.issued, State.later, resultsOf_untagged, if_true, State.draw_buOf]
    rfl
  | false =>
    simp only [Claims.issued, State.later, resultsOf_untagged]
    rfl

/-- An FLL function of either format. -/
theorem State.fll_alone {rounds : Bool} {op : Fmt → Mode → Bool → FVal → FRes} (h : Alone s t)
    (ho : Readable s t [(d, t1 + 1), (a, t1 + 1)] [(a, t1 + 1)]) :
    s.fll d a la t1 rounds op = .next (Claims.issued s t d (t1 + 1) la rounds fun md =>
      op (llFmt t1) md (Claims.ftzOf s t (llFmt t1)) (Claims.valueAt s t (llFmt t1) a)) :=
  State.longOp_alone h ho

end Issue

theorem llFmt_eq (t1 : Nat) : llFmt t1 = Claims.llFormat t1 := by
  simp only [llFmt, Claims.llFormat, beq_iff_eq]

/-! ## DIV and REM (R144) -/

theorem divRem_eq (t1 : Nat) (a b : Word) : divRem t1 a b = (Claims.quotient t1 a b, Claims.remainder t1 a b) := by
  have hsigned : a.toInt.tmod b.toInt = a.toInt - a.toInt.tdiv b.toInt * b.toInt := by rw [Int.tmod_def, Int.mul_comm]
  unfold divRem Claims.quotient Claims.remainder
  simp only [beq_iff_eq, Bool.and_eq_true]
  by_cases hb : b = 0
  · simp only [if_pos hb]
  · simp only [if_neg hb]
    by_cases ht : t1 = 0
    · simp only [ht, true_and, if_true, hsigned]
      split <;> rfl
    · simp only [ht, false_and, if_false, Nat.mod_eq_sub_div_mul]

/-! ## Functions of one f32 operand, and the issue of all (R142 to R144) -/

theorem exec_llUnary {s : State} {d a la : Nat} : ∀ p ∈ Claims.llUnary, exec (p.1 d a la) s =
    s.longOp d 1 la [(a, 1)] false fun s t _ => p.2 (Claims.ftzOf s t .f32) (Claims.valueAt s t .f32 a) := by
  simp only [Claims.llUnary, List.forall_mem_cons, List.not_mem_nil, false_implies, implies_true, and_true]
  exact ⟨rfl, rfl, rfl, rfl, rfl, rfl⟩

theorem longLatencyIssue : Claims.LongLatencyIssue := by
  intro s t d a b la t1 h _
  simp only [← llFmt_eq]
  refine ⟨fun ho => ⟨?_, ?_⟩, fun ho p hp => ?_, fun ho => ?_, fun ho => ⟨?_, ?_⟩⟩
  · show execFsqrt d a la t1 s = _
    exact State.fll_alone h ho
  · show execFrcp d a la t1 s = _
    exact State.fll_alone h ho
  · rw [exec_llUnary p hp]
    exact State.longOp_alone h ho
  · show execFdiv d a b la t1 s = _
    exact State.longOp_alone h ho
  · show execDiv d a b la t1 s = _
    rw [execDiv, State.longOp_alone h ho, divRem_eq]
  · show execRem d a b la t1 s = _
    rw [execRem, State.longOp_alone h ho, divRem_eq]

/-! ## Arrival (R55, R141) -/

theorem Thread.raise_ref (x : Thread) (f : FFlags) : (x.raise f).ref = x.ref := rfl

theorem longLatencyWrite : Claims.LongLatencyWrite := by
  intro s t k p hp harrived
  show execLongLatencyResult t k s = _
  simp only [execLongLatencyResult, hp, harrived, if_true, State.writeResult]
  rw [State.modTh_modTh _ _ _ _ fun x => x.raise_ref p.flags]
  rfl

/-- Settles O38: each instruction is a long-latency operation on the operands at issue, and a result that has
arrived is written once. -/
theorem longLatencyResults : Obligations.LongLatencyResults := ⟨longLatencyIssue, longLatencyWrite⟩

end Sys2Proof.Machine
end

/-! # Modular arithmetic -/

section
namespace Sys2Proof.Machine

open Sys2Proof.Safety

/-! ## MODQI (R40, R98): Newton's iteration finds the inverse of an odd modulus -/

/-- One step of the iteration by which `negInv` goes from `q` to its inverse. -/
def newtonStep (q x : DWord) : DWord := x * (2 - q * x)

theorem negInv_of_odd {q : DWord} (hq : q.getLsbD 0 = true) : negInv q = 0 - Nat.repeat (newtonStep q) 6 q := by
  rw [negInv, if_pos hq]
  extract_lets step
  have hstep : step = newtonStep q := rfl
  rw [hstep]
  rfl

/-- `x` is an inverse of `q` modulo `2 ^ k`. -/
def InverseUpTo (q x : DWord) (k : Nat) : Prop := ∃ c : DWord, 1 - q * x = BitVec.ofNat 64 (2 ^ k) * c

theorem getLsbD_zero_iff (q : DWord) : q.getLsbD 0 = true ↔ q.toNat % 2 = 1 := by
  rw [← BitVec.testBit_toNat, Nat.testBit_zero, decide_eq_true_iff]

theorem one_sub_odd_sq (k : DWord) : 1 - (2 * k + 1) * (2 * k + 1) = 4 * -(k * (k + 1)) := by grind

/-- An odd `q` is its own inverse modulo 4. -/
theorem inverseUpTo_self {q : DWord} (hq : q.getLsbD 0 = true) : InverseUpTo q q 2 := by
  obtain ⟨k, hk⟩ : ∃ k : DWord, q = 2 * k + 1 := by
    have hodd := (getLsbD_zero_iff q).mp hq
    exact ⟨BitVec.ofNat 64 (q.toNat / 2), by bv_omega⟩
  refine ⟨-(k * (k + 1)), ?_⟩
  rw [hk]
  exact one_sub_odd_sq k

/-- A step squares the error, and so doubles the number of bits. -/
theorem InverseUpTo.newtonStep {q x : DWord} {k : Nat} (h : InverseUpTo q x k) :
    InverseUpTo q (newtonStep q x) (k + k) := by
  obtain ⟨c, hc⟩ := h
  have hsquare : 1 - q * Machine.newtonStep q x = (1 - q * x) * (1 - q * x) := by
    unfold Machine.newtonStep
    grind
  refine ⟨c * c, ?_⟩
  rw [hsquare, hc, Nat.pow_add, BitVec.ofNat_mul]
  grind

theorem InverseUpTo.repeat_newtonStep {q : DWord} (hq : q.getLsbD 0 = true) (n : Nat) :
    InverseUpTo q (Nat.repeat (Machine.newtonStep q) n q) (2 * 2 ^ n) := by
  induction n with
  | zero => exact inverseUpTo_self hq
  | succ n ih =>
    rw [show 2 * 2 ^ (n + 1) = 2 * 2 ^ n + 2 * 2 ^ n by omega]
    exact ih.newtonStep

theorem one_add_negInv_mul {q : DWord} (hq : q.getLsbD 0 = true) : 1 + negInv q * q = 0 := by
  obtain ⟨c, hc⟩ := InverseUpTo.repeat_newtonStep hq 6
  have hpow : BitVec.ofNat 64 (2 ^ (2 * 2 ^ 6)) = 0 := by decide
  rw [hpow] at hc
  rw [negInv_of_odd hq]
  grind

/-! ## The Montgomery product (R146) -/

theorem legalModulus_iff (q : DWord) :
    legalModulus q = true ↔ q.toNat % 2 = 1 ∧ 3 ≤ q.toNat ∧ q.toNat < 2 ^ 62 := by
  simp only [legalModulus, Bool.and_eq_true, getLsbD_zero_iff, decide_eq_true_eq, and_assoc]

section Residues

variable {q : Nat} (hodd : q % 2 = 1) (hlt : q < 2 ^ 64)
include hodd

theorem pos_of_odd : 0 < q := by omega

theorem subMod_lt (x y : Nat) : subMod q x y < q := Nat.mod_lt _ (pos_of_odd hodd)

theorem subMod_add (x y : Nat) : (subMod q x y + y) % q = x % q := by
  have hy : y % q < q := Nat.mod_lt _ (pos_of_odd hodd)
  have hsum : x % q + q - y % q + y % q = x % q + q := by omega
  rw [subMod, Nat.mod_add_mod, ← Nat.add_mod_mod, hsum, Nat.add_mod_right, Nat.mod_mod]

theorem montMul_lt (x y : Nat) : montMul q x y < q := Nat.mod_lt _ (pos_of_odd hodd)

include hlt

/-- The number that `invTwo64` divides is a multiple of 2⁶⁴. -/
theorem two64_dvd_one_add_negInv_mul : 2 ^ 64 ∣ 1 + (negInv (dw q)).toNat * q := by
  have hq : (dw q).toNat = q := by rw [dw, BitVec.toNat_ofNat, Nat.mod_eq_of_lt hlt]
  have hbit : (dw q).getLsbD 0 = true := by rw [getLsbD_zero_iff, hq, hodd]
  have hzero : (1 + (negInv (dw q)).toNat * (dw q).toNat % 2 ^ 64) % 2 ^ 64 = 0 :=
    congrArg BitVec.toNat (one_add_negInv_mul hbit)
  rw [hq, Nat.add_mod_mod] at hzero
  exact Nat.dvd_of_mod_eq_zero hzero

theorem invTwo64_mul : invTwo64 q * 2 ^ 64 % q = 1 % q := by
  rw [invTwo64, Nat.mod_mul_mod, Nat.div_mul_cancel (two64_dvd_one_add_negInv_mul hodd hlt), Nat.add_mul_mod_self_right]

theorem montMul_mul (x y : Nat) : montMul q x y * 2 ^ 64 % q = x * y % q := by
  rw [montMul, Nat.mod_mul_mod, Nat.mul_assoc, ← Nat.mul_mod_mod, invTwo64_mul hodd hlt, Nat.mul_mod_mod, Nat.mul_one,
    Nat.mod_mod]

end Residues

/-! ## Issue (R145) -/

section Issue

variable {s : State} {t : TRef} {d a b w : Nat} {reads : List (Nat × Nat)} {r : State → TRef → Nat → Nat}

/-- With a legal modulus, a modular instruction of one thread writes its residue. -/
theorem State.modOp_alone (h : Alone s t) (ho : Readable s t ((d, w) :: reads) reads)
    (hq : legalModulus (s.buOf t).modq = true) :
    s.modOp d w reads r = .next (past (s.setWords t d (natWords w (r s t (s.buOf t).modq.toNat))) t) := by
  rw [State.modOp, State.issue_alone h (State.earlyTrap_none ho.window (by simp) (by simp)) rfl ho.sound]
  simp only [hq]
  rfl

/-- With any other, it traps. -/
theorem State.modOp_traps (h : Alone s t) (ho : Readable s t ((d, w) :: reads) reads)
    (hq : legalModulus (s.buOf t).modq = false) :
    s.modOp d w reads r = .next (s.trap t causeIllegal (s.buOf t).modq) := by
  rw [State.modOp, State.issue_alone h (State.earlyTrap_none ho.window (by simp) (by simp)) rfl ho.sound]
  simp only [hq]
  rfl

end Issue

/-! ## The operation that each instruction is (R146) -/

section Meaning

variable {d a b : Nat}

theorem exec_modular2 : ∀ p ∈ Claims.modular2, ∃ r : State → TRef → Nat → Nat,
    (∀ s, exec (p.1 d a b) s = s.modOp d 2 [(a, 2), (b, 2)] r) ∧
    ∀ s t q, q % 2 = 1 → q < 2 ^ 64 → p.2 q (s.pair t a).toNat (s.pair t b).toNat (r s t q) := by
  simp only [Claims.modular2, List.forall_mem_cons, List.not_mem_nil, false_implies, implies_true, and_true]
  exact ⟨⟨fun s t q => (s.pn t a + s.pn t b) % q, fun _ => rfl, fun _ _ _ _ _ => rfl⟩,
    ⟨fun s t q => subMod q (s.pn t a) (s.pn t b), fun _ => rfl,
      fun _ _ _ hodd _ => ⟨subMod_lt hodd _ _, subMod_add hodd _ _⟩⟩,
    ⟨fun s t q => montMul q (s.pn t a) (s.pn t b), fun _ => rfl,
      fun _ _ _ hodd hlt => ⟨montMul_lt hodd _ _, montMul_mul hodd hlt _ _⟩⟩⟩

theorem exec_modular1 : ∀ p ∈ Claims.modular1, ∃ r : State → TRef → Nat → Nat,
    (∀ s, exec (p.1 d a) s = s.modOp d 2 [(a, 2)] r) ∧
    ∀ s t q, q % 2 = 1 → q < 2 ^ 64 → p.2 q (s.pair t a).toNat (r s t q) := by
  simp only [Claims.modular1, List.forall_mem_cons, List.not_mem_nil, false_implies, implies_true, and_true]
  exact ⟨⟨fun s t q => s.pn t a * 2 ^ 64 % q, fun _ => rfl, fun _ _ _ _ _ => rfl⟩,
    ⟨fun s t q => montMul q (s.pn t a) 1, fun _ => rfl, fun _ _ _ hodd hlt =>
      ⟨montMul_lt hodd _ _, (montMul_mul hodd hlt _ 1).trans (congrArg (· % _) (Nat.mul_one _))⟩⟩,
    ⟨fun s t q => subMod q 0 (s.pn t a), fun _ => rfl, fun _ _ q hodd _ =>
      ⟨subMod_lt hodd _ _, (subMod_add hodd 0 _).trans (Nat.zero_mod q)⟩⟩⟩

end Meaning

theorem modularResults : Claims.ModularResults := by
  intro s t d a b h
  refine ⟨fun hodd hge hlt => ?_, fun ho => ?_⟩
  · have hlegal : legalModulus (s.buOf t).modq = true := (legalModulus_iff _).mpr ⟨hodd, hge, hlt⟩
    have hlt64 : (s.buOf t).modq.toNat < 2 ^ 64 := (s.buOf t).modq.isLt
    refine ⟨fun ho p hp => ?_, fun ho p hp => ?_, fun ho => ?_, fun ho => ⟨?_, ?_⟩⟩
    · obtain ⟨r, hexec, hr⟩ := exec_modular2 p hp
      exact ⟨_, hr s t _ hodd hlt64, (hexec s).trans (State.modOp_alone h ho hlegal)⟩
    · obtain ⟨r, hexec, hr⟩ := exec_modular1 p hp
      exact ⟨_, hr s t _ hodd hlt64, (hexec s).trans (State.modOp_alone h ho hlegal)⟩
    · show execMredb d a s = _
      exact State.modOp_alone h ho hlegal
    · refine ⟨_, _, _, montMul_lt hodd _ _, montMul_mul hodd hlt64 _ _, rfl, subMod_lt hodd _ _, subMod_add hodd _ _, ?_⟩
      show execBflyc d a s = _
      exact State.modOp_alone h ho hlegal
    · refine ⟨_, _, subMod_lt hodd _ _, subMod_add hodd _ _, montMul_lt hodd _ _, montMul_mul hodd hlt64 _ _, ?_⟩
      show execBflyg d a s = _
      exact State.modOp_alone h ho hlegal
  · exact State.issue_alone h (State.earlyTrap_none ho.window (by simp) (by simp)) rfl ho.sound

theorem modularTraps : Claims.ModularTraps := by
  intro s t d a b h hq
  have hillegal : legalModulus (s.buOf t).modq = false := by
    rw [Bool.eq_false_iff, ne_eq, legalModulus_iff]
    omega
  refine ⟨fun ho p hp => ?_, fun ho p hp => ?_, fun ho => ?_, fun ho => ⟨?_, ?_⟩⟩
  · obtain ⟨r, hexec, -⟩ := exec_modular2 p hp
    exact (hexec s).trans (State.modOp_traps h ho hillegal)
  · obtain ⟨r, hexec, -⟩ := exec_modular1 p hp
    exact (hexec s).trans (State.modOp_traps h ho hillegal)
  · show execMredb d a s = _
    exact State.modOp_traps h ho hillegal
  · show execBflyc d a s = _
    exact State.modOp_traps h ho hillegal
  · show execBflyg d a s = _
    exact State.modOp_traps h ho hillegal

/-- Settles O40: MODQI is the inverse that the Montgomery product divides by, and a modular instruction
writes its residue or traps. -/
theorem modularArithmetic : Obligations.ModularArithmetic := ⟨modularResults, modularTraps⟩

end Sys2Proof.Machine
end
